-- ==== Sys2Proof/Word.lean ====
section
/-! DEFINITION. The words of the part: bytes of a frame or a table row, card codes, check sequences. Counts, amounts, times
and numbers that the manual only adds and compares are `Nat` or `Int` (R2: exact integer arithmetic). -/

namespace Sys2Proof

/-- One byte of a trunk frame, an arm frame or a table row. -/
abbrev Byte := BitVec 8

/-- A card code: a 40-bit number that is compared under a mask (Introduction, "Card codes"; R52). -/
abbrev Card := BitVec 40

/-- The 16-bit check sequence of R1. -/
abbrev Check := BitVec 16

end Sys2Proof
end

