-- ==== Sys2Proof/Config.lean ====
section
/-! DEFINITION. What the manual leaves open and a run must still decide: free values, constants without a body, so that no
proof can rest on what they are. -/

namespace Sys2Proof.Config

/-- DESIGN CHOICE (log entry 4). R210 writes a yes-or-no field as "1 for yes or set, 0 otherwise" and does not say how a received
byte other than 0 and 1 is read. This free value says it, for each such byte. -/
opaque flagOfByte : Nat → Bool

/-- DESIGN CHOICE (log entry 4). R210 gives a presence byte the values 1 and 0 and does not say how a received byte other than 0
and 1 is read. This free value says it, for each such byte. -/
opaque presenceOfByte : Nat → Bool

end Sys2Proof.Config
end

