-- ==== Sys2Proof/Machine/Bytes.lean ====
section
/-! DEFINITION. Bytes on the trunk, on the arm buses and in the table rows: the check sequence of R1, numbers most significant
byte first (11.5, 9.2), and the encoding scheme of R210 for what the part sends. -/

namespace Sys2Proof.Machine

/-- One bit step of the check of R1 on the running value: shift left, and exclusive-or the polynomial x^16 + x^12 + x^5 + 1 when the
bit shifted out is 1. -/
def crcBit (c : Check) : Check :=
  if c.msb then (c <<< 1) ^^^ 0x1021#16 else c <<< 1

/-- One byte, most significant bit first (R1). -/
def crcByte (c : Check) (b : Byte) : Check :=
  let x := c ^^^ ((b.setWidth 16) <<< 8)
  crcBit (crcBit (crcBit (crcBit (crcBit (crcBit (crcBit (crcBit x)))))))

/-- The initial value, all ones (R1). -/
def crcInit : Check := 0xFFFF#16

/-- The running check after more bytes (R1, R209). -/
def crcFold (c : Check) (bs : List Byte) : Check :=
  bs.foldl crcByte c

/-- The check of a sequence of bytes (R1): no final inversion. -/
def crc (bs : List Byte) : Check :=
  crcFold crcInit bs

/-- The start marker of a trunk frame (11.5). -/
def startMarker : Byte := 0xC3#8

/-- A number read most significant byte first (11.5). -/
def natOfBytes (bs : List Byte) : Nat :=
  bs.foldl (fun n b => n * 256 + b.toNat) 0

/-- The `n` bytes from offset `i` of a row or payload. -/
def slice (bs : List Byte) (i n : Nat) : List Byte :=
  (bs.drop i).take n

/-- The number in the `n` bytes at offset `i`. -/
def natAt (bs : List Byte) (i n : Nat) : Nat :=
  natOfBytes (slice bs i n)

/-- Bit `k` (0 lowest) of the byte at offset `i`. -/
def bitAt (bs : List Byte) (i k : Nat) : Bool :=
  (natAt bs i 1).testBit k

/-- A number as `n` bytes, most significant first. -/
def natBytes : Nat → Nat → List Byte
  | 0, _ => []
  | n + 1, v => natBytes n (v / 256) ++ [BitVec.ofNat 8 v]

/-- A signed number as `n` bytes in two's complement (R210). -/
def intBytes (n : Nat) (v : Int) : List Byte :=
  natBytes n (v % (256 ^ n : Nat)).toNat

/-- A yes or no, or set or clear, field (R210). -/
def flagBytes (b : Bool) : List Byte :=
  natBytes 1 (if b then 1 else 0)

/-- An optional field of `w` bytes (R210): a presence byte, then the field, or zeros. -/
def optBytes {α : Type} (w : Nat) (f : α → List Byte) : Option α → List Byte
  | none => natBytes 1 0 ++ List.replicate w 0#8
  | some a => natBytes 1 1 ++ f a

/-- An optional number of `w` bytes (R210). -/
def optNat (w : Nat) : Option Nat → List Byte :=
  optBytes w (natBytes w)

/-- A list of items (R210): a count byte, then the items. -/
def listBytes {α : Type} (f : α → List Byte) (xs : List α) : List Byte :=
  natBytes 1 xs.length ++ xs.flatMap f

/-- A set of members (R210): one bit for each, the first member lowest. -/
def setBits : List Bool → Nat
  | [] => 0
  | b :: bs => (if b then 1 else 0) + 2 * setBits bs

/-! ### Reception (R200) -/

/-- Whether the bytes of a frame, from its start marker, show a bad length or a wrong check (R200). -/
def badFrame : List Byte → Bool
  | m :: len :: rest =>
    m == startMarker &&
    (!decide (2 ≤ len.toNat ∧ len.toNat ≤ 242) ||
      (rest.length == len.toNat + 2 && natAt rest len.toNat 2 != (crc (len :: rest.take len.toNat)).toNat))
  | _ => false

/-- Whether the bytes of a frame, from its start marker, are short of the whole frame (R200). -/
def partFrame : List Byte → Bool
  | m :: len :: rest => m == startMarker && decide (2 ≤ len.toNat ∧ len.toNat ≤ 242) && decide (rest.length < len.toNat + 2)
  | m :: [] => m == startMarker
  | [] => false

end Sys2Proof.Machine
end

