-- ==== Sys2Proof/Syntax.lean ====
section
/-! DEFINITION. The commands of the part: one constructor of `Instr` for each row of spec/opcode_table.json, with the fields
its rule names. A request carries the tag of its trunk frame (R200) and its body; the fields of a body are the numbers as the frame
carries them, not yet judged against their ranges, since judging them is the request's own rule. -/

namespace Sys2Proof

/-- The body of a request frame. R201: a body whose length is not one that R210 gives the request kind is answered RANGE; such a
body is `unsuited`. A body that suits its kind carries its fields. -/
inductive Body (α : Type) where
  | fields (f : α)
  | unsuited
  deriving DecidableEq, Repr

/-- RESERVE (R6). An absent planned departure is `none`. -/
structure ReserveArgs where
  berth : Nat
  account : Nat
  deadline : Nat
  deadlineEnable : Bool
  planned : Option Nat
  deriving DecidableEq, Repr

/-- CHECK-IN (R8). Account 0 is none. -/
structure CheckInArgs where
  berth : Nat
  account : Nat
  planned : Option Nat
  deriving DecidableEq, Repr

/-- DEPARTURE-SET (R11). -/
structure DepartureArgs where
  berth : Nat
  planned : Option Nat
  deriving DecidableEq, Repr

/-- BERTH-SET (R16). The power class is the number of one of the five classes, NONE first. -/
structure BerthSetArgs where
  berth : Nat
  lengthClass : Nat
  powerClass : Nat
  water : Bool
  autoArrival : Bool
  nightlyFee : Bool
  deriving DecidableEq, Repr

/-- ACCOUNT-DEBIT (R34) and CREDIT (R41). -/
structure AmountArgs where
  account : Nat
  amount : Nat
  deriving DecidableEq, Repr

/-- ACCOUNT-OPEN (R42) and ACCOUNT-SET (R43). -/
structure LimitsArgs where
  account : Nat
  overdraft : Nat
  lowThreshold : Nat
  restartMin : Nat
  deriving DecidableEq, Repr

/-- GATE-MODE (R66). The mode is the number of NORMAL, LOCKED or FREE. -/
structure GateModeArgs where
  gate : Nat
  mode : Nat
  deriving DecidableEq, Repr

/-- PONTOON-SET (R82). -/
structure PontoonSetArgs where
  pontoon : Nat
  limit : Nat
  deriving DecidableEq, Repr

/-- The selector of PRESENCE-QUERY (R83). -/
inductive PresenceSel where
  | all
  | pontoon (p : Nat)
  | card (c : Card)
  deriving DecidableEq, Repr

/-- PRESENCE-QUERY (R83). -/
structure PresenceArgs where
  sel : PresenceSel
  first : Nat
  deriving DecidableEq, Repr

/-- The selector of an outlet request (R108): a post side or a berth. -/
inductive OutletSel where
  | side (arm addr side : Nat)
  | berth (b : Nat)
  deriving DecidableEq, Repr

/-- An outlet request (R108): a selector and the number of the service POWER, WATER or BOTH. -/
structure OutletArgs where
  sel : OutletSel
  service : Nat
  deriving DecidableEq, Repr

/-- OUTLET-ENABLES (R108): the set is one bit for each of CREDIT, TAP, OFFICE, CREDIT lowest (R210). -/
structure EnablesArgs where
  sel : OutletSel
  service : Nat
  set : Nat
  deriving DecidableEq, Repr

/-- The form of CHARGE-QUOTE (R133) with its further field. -/
inductive QuoteForm where
  | amount (volume : Nat)
  | stop (limit : Nat)
  deriving DecidableEq, Repr

/-- The price source of CHARGE-QUOTE (R133). -/
inductive PriceSource where
  | price (p : Nat)
  | grade (g : Nat)
  deriving DecidableEq, Repr

/-- CHARGE-QUOTE (R133). -/
structure QuoteArgs where
  form : QuoteForm
  source : PriceSource
  deriving DecidableEq, Repr

/-- PROTECTION-QUERY (R146). -/
structure ProtectionArgs where
  arm : Nat
  addr : Nat
  side : Nat
  deriving DecidableEq, Repr

/-- FUEL-AUTHORIZE (R156). Account 0 is none. -/
structure FuelAuthArgs where
  pump : Nat
  nozzle : Nat
  limit : Nat
  account : Nat
  deriving DecidableEq, Repr

/-- PUMP-PROTECT (R169). -/
structure ProtectArgs where
  pump : Nat
  flag : Bool
  deriving DecidableEq, Repr

/-- FUEL-TIMERS-SET (R169). -/
structure TimersArgs where
  ready : Nat
  window : Nat
  deriving DecidableEq, Repr

/-- ARM-CONFIG (R185). Anchor 0 is automatic. -/
structure ArmConfigArgs where
  arm : Nat
  period : Nat
  slot : Nat
  window : Nat
  silence : Nat
  anchor : Nat
  autoRestore : Bool
  deriving DecidableEq, Repr

/-- The target of RELAY (R193): a set of arms (one bit for each arm 0..5, arm 0 lowest) with one address, or a berth. -/
inductive RelayTarget where
  | arms (mask addr : Nat)
  | berth (b : Nat)
  deriving DecidableEq, Repr

/-- The direction of RELAY with what it carries: a WRITE its data bytes, a READ its byte count (R193, R210). -/
inductive RelayPayload where
  | write (data : List Byte)
  | read (count : Nat)
  deriving DecidableEq, Repr

/-- RELAY (R193). -/
structure RelayArgs where
  target : RelayTarget
  sub : Nat
  payload : RelayPayload
  group : Nat
  wait : Bool
  deriving DecidableEq, Repr

/-- LOAD-ROW (R205). -/
structure LoadRowArgs where
  index : Nat
  bytes : List Byte
  deriving DecidableEq, Repr

/-- The commands. Requests carry the tag of their frame (R200); events carry the number of the record, or the arm, they are
about; frames that are judged by their bytes carry their bytes. -/
inductive Instr where
  | powerOn
  | reserve (tag : Nat) (b : Body ReserveArgs)
  | checkIn (tag : Nat) (b : Body CheckInArgs)
  | departureSet (tag : Nat) (b : Body DepartureArgs)
  | checkOut (tag : Nat) (b : Body Nat)
  | berthSet (tag : Nat) (b : Body BerthSetArgs)
  | close (tag : Nat) (b : Body Nat)
  | open_ (tag : Nat) (b : Body Nat)
  | berthQuery (tag : Nat) (b : Body Nat)
  | graceSet (tag : Nat) (b : Body Nat)
  | accountDebit (tag : Nat) (b : Body AmountArgs)
  | credit (tag : Nat) (b : Body AmountArgs)
  | accountOpen (tag : Nat) (b : Body LimitsArgs)
  | accountSet (tag : Nat) (b : Body LimitsArgs)
  | accountClose (tag : Nat) (b : Body Nat)
  | accountQuery (tag : Nat) (b : Body Nat)
  | bar (tag : Nat) (b : Body Nat)
  | unbar (tag : Nat) (b : Body Nat)
  | credentialRead (tag : Nat) (b : Body Nat)
  | matchTest (tag : Nat) (b : Body Card)
  | gateMode (tag : Nat) (b : Body GateModeArgs)
  | gateOpen (tag : Nat) (b : Body Nat)
  | gateQuery (tag : Nat) (b : Body Nat)
  | pontoonSet (tag : Nat) (b : Body PontoonSetArgs)
  | presenceQuery (tag : Nat) (b : Body PresenceArgs)
  | presenceRemove (tag : Nat) (b : Body Card)
  | outletStart (tag : Nat) (b : Body OutletArgs)
  | outletStop (tag : Nat) (b : Body OutletArgs)
  | outletSuspend (tag : Nat) (b : Body OutletArgs)
  | outletRelease (tag : Nat) (b : Body OutletArgs)
  | outletClear (tag : Nat) (b : Body OutletArgs)
  | outletEnables (tag : Nat) (b : Body EnablesArgs)
  | outletQuery (tag : Nat) (b : Body OutletArgs)
  | rateQuery (tag : Nat) (b : Body Unit)
  | chargeQuote (tag : Nat) (b : Body QuoteArgs)
  | tripDelaySet (tag : Nat) (b : Body Nat)
  | protectionQuery (tag : Nat) (b : Body ProtectionArgs)
  | fuelAuthorize (tag : Nat) (b : Body FuelAuthArgs)
  | fuelAbort (tag : Nat) (b : Body Nat)
  | saleCollect (tag : Nat) (b : Body Nat)
  | pumpProtect (tag : Nat) (b : Body ProtectArgs)
  | fuelTimersSet (tag : Nat) (b : Body TimersArgs)
  | pumpQuery (tag : Nat) (b : Body Nat)
  | armModeEnable (tag : Nat) (b : Body Nat)
  | armModeDisable (tag : Nat) (b : Body Nat)
  | armModeRestore (tag : Nat) (b : Body Nat)
  | armConfig (tag : Nat) (b : Body ArmConfigArgs)
  | armQuery (tag : Nat) (b : Body Nat)
  | relay (tag : Nat) (b : Body RelayArgs)
  | relayRefuseSet (tag : Nat) (b : Body (List (Nat × Nat)))
  | relayQuery (tag : Nat) (b : Body Unit)
  | loadOpen (tag : Nat) (b : Body Nat)
  | loadRow (tag : Nat) (b : Body LoadRowArgs)
  | loadCommit (tag : Nat) (b : Body Check)
  | loadDiscard (tag : Nat) (b : Body Unit)
  | timeSet (tag : Nat) (b : Body Nat)
  | status (tag : Nat) (b : Body Unit)
  | restart (tag : Nat) (b : Body Unit)
  | trunkConfig (tag : Nat) (b : Body Nat)
  | unknownRequest (tag kind : Nat)
  | nonRequestFrame (tag kind : Nat)
  | discardedFrame (bytes : List Byte)
  | interByteTimeout (bytes : List Byte)
  | trunkFrameSent
  | trunkSilenceExpiry
  | clockAdvance
  | scannerVisit
  | departureCloseTimeout (berth : Nat)
  | scanRow
  | armRequestSent (arm : Nat)
  | exchangeReply (arm : Nat) (bytes : List Byte)
  | replyWindowExpiry (arm : Nat)
  | lateReply (arm : Nat) (bytes : List Byte)
  | probeDue (arm : Nat)
  | prioritySweepDue (arm : Nat)
  | regularSlot (arm : Nat)
  | strikeEndExpiry (gate : Nat)
  | holdExpiry (gate : Nat)
  | readyTimeout (pump : Nat)
  | linkLossWindow (pump : Nat)
  deriving DecidableEq, Repr

end Sys2Proof
end

