-- ==== Sys2Proof/Decode.lean ====
section
/-! DEFINITION. Reading commands. The rows of spec/opcode_table.json give no bits, so no word spells a command (`decodeTableWord`). What
does spell one is a trunk frame: `decodeFrame` reads a received frame as the command it is, by R200, R201, R210 and the request index
of 11.6. -/

namespace Sys2Proof

/-- The command a word spells by the table's bits: the table gives no row any bits (log entry 17). -/
def decodeTableWord (_nbits _w : Nat) : Option Instr :=
  none

namespace Decode

open Sys2Proof.Machine (natOfBytes natAt badFrame)

/-- A reader of fields: a value and the bytes left, or none where the bytes run out or a form byte names no form. -/
abbrev Reader (α : Type) := List Byte → Option (α × List Byte)

/-- A number of `n` bytes, most significant first. -/
def nat (n : Nat) : Reader Nat :=
  fun bs => if n ≤ bs.length then some (natOfBytes (bs.take n), bs.drop n) else none

/-- A yes-or-no byte (R210): 1 yes, 0 no; any other by the free value of log entry 4. -/
def flagValue (b : Nat) : Bool :=
  if b = 1 then true else if b = 0 then false else Config.flagOfByte b

/-- A presence byte (R210): 1 present, 0 absent; any other by the free value of log entry 4. -/
def presenceValue (b : Nat) : Bool :=
  if b = 1 then true else if b = 0 then false else Config.presenceOfByte b

/-- A yes-or-no field. -/
def flag : Reader Bool :=
  fun bs => (nat 1 bs).map (fun x => (flagValue x.1, x.2))

/-- An optional number of `n` bytes: a presence byte and the field's bytes (R210). -/
def optional (n : Nat) : Reader (Option Nat) :=
  fun bs => do
    let (p, bs) ← nat 1 bs
    let (v, bs) ← nat n bs
    return (if presenceValue p then some v else none, bs)

/-- A card code. -/
def card : Reader Card :=
  fun bs => (nat 5 bs).map (fun x => (BitVec.ofNat 40 x.1, x.2))

/-- A body read to its end is a body that suits its kind; any other does not (R201, R210). -/
def body {α : Type} (r : Reader α) (bs : List Byte) : Body α :=
  match r bs with
  | some (a, []) => .fields a
  | _ => .unsuited

/-- RESERVE (R6). -/
def reserve : Reader ReserveArgs :=
  fun bs => do
    let (berth, bs) ← nat 1 bs
    let (account, bs) ← nat 2 bs
    let (deadline, bs) ← nat 4 bs
    let (enable, bs) ← flag bs
    let (planned, bs) ← optional 4 bs
    return ({ berth := berth, account := account, deadline := deadline, deadlineEnable := enable, planned := planned }, bs)

/-- CHECK-IN (R8). -/
def checkIn : Reader CheckInArgs :=
  fun bs => do
    let (berth, bs) ← nat 1 bs
    let (account, bs) ← nat 2 bs
    let (planned, bs) ← optional 4 bs
    return ({ berth := berth, account := account, planned := planned }, bs)

/-- DEPARTURE-SET (R11). -/
def departure : Reader DepartureArgs :=
  fun bs => do
    let (berth, bs) ← nat 1 bs
    let (planned, bs) ← optional 4 bs
    return ({ berth := berth, planned := planned }, bs)

/-- BERTH-SET (R16). -/
def berthSet : Reader BerthSetArgs :=
  fun bs => do
    let (berth, bs) ← nat 1 bs
    let (lengthClass, bs) ← nat 1 bs
    let (powerClass, bs) ← nat 1 bs
    let (water, bs) ← flag bs
    let (autoArrival, bs) ← flag bs
    let (nightlyFee, bs) ← flag bs
    return ({ berth := berth, lengthClass := lengthClass, powerClass := powerClass, water := water, autoArrival := autoArrival,
              nightlyFee := nightlyFee }, bs)

/-- ACCOUNT-DEBIT and CREDIT (R34, R41). -/
def amount : Reader AmountArgs :=
  fun bs => do
    let (account, bs) ← nat 2 bs
    let (amount, bs) ← nat 3 bs
    return ({ account := account, amount := amount }, bs)

/-- ACCOUNT-OPEN and ACCOUNT-SET (R42, R43). -/
def limits : Reader LimitsArgs :=
  fun bs => do
    let (account, bs) ← nat 2 bs
    let (overdraft, bs) ← nat 3 bs
    let (low, bs) ← nat 3 bs
    let (restart, bs) ← nat 3 bs
    return ({ account := account, overdraft := overdraft, lowThreshold := low, restartMin := restart }, bs)

/-- GATE-MODE (R66). -/
def gateMode : Reader GateModeArgs :=
  fun bs => do
    let (gate, bs) ← nat 1 bs
    let (mode, bs) ← nat 1 bs
    return ({ gate := gate, mode := mode }, bs)

/-- PONTOON-SET (R82). -/
def pontoonSet : Reader PontoonSetArgs :=
  fun bs => do
    let (pontoon, bs) ← nat 1 bs
    let (limit, bs) ← nat 2 bs
    return ({ pontoon := pontoon, limit := limit }, bs)

/-- The selector of PRESENCE-QUERY with its form byte (R83, R210). -/
def presenceSel : Reader PresenceSel :=
  fun bs => do
    let (form, bs) ← nat 1 bs
    match form with
    | 0 => return (.all, bs)
    | 1 => (nat 1 bs).map (fun x => (.pontoon x.1, x.2))
    | 2 => (card bs).map (fun x => (.card x.1, x.2))
    | _ => none

/-- PRESENCE-QUERY (R83). -/
def presence : Reader PresenceArgs :=
  fun bs => do
    let (sel, bs) ← presenceSel bs
    let (first, bs) ← nat 1 bs
    return ({ sel := sel, first := first }, bs)

/-- An outlet selector with its form byte (R108, R210). -/
def outletSel : Reader OutletSel :=
  fun bs => do
    let (form, bs) ← nat 1 bs
    match form with
    | 0 =>
      let (arm, bs) ← nat 1 bs
      let (addr, bs) ← nat 1 bs
      let (side, bs) ← nat 1 bs
      return (.side arm addr side, bs)
    | 1 => (nat 1 bs).map (fun x => (.berth x.1, x.2))
    | _ => none

/-- An outlet request (R108). -/
def outlet : Reader OutletArgs :=
  fun bs => do
    let (sel, bs) ← outletSel bs
    let (service, bs) ← nat 1 bs
    return ({ sel := sel, service := service }, bs)

/-- OUTLET-ENABLES (R108). -/
def enables : Reader EnablesArgs :=
  fun bs => do
    let (sel, bs) ← outletSel bs
    let (service, bs) ← nat 1 bs
    let (set, bs) ← nat 1 bs
    return ({ sel := sel, service := service, set := set }, bs)

/-- The form of CHARGE-QUOTE (R133). -/
def quoteForm : Reader QuoteForm :=
  fun bs => do
    let (form, bs) ← nat 1 bs
    match form with
    | 0 => (nat 3 bs).map (fun x => (.amount x.1, x.2))
    | 1 => (nat 3 bs).map (fun x => (.stop x.1, x.2))
    | _ => none

/-- The price source of CHARGE-QUOTE (R133). -/
def priceSource : Reader PriceSource :=
  fun bs => do
    let (form, bs) ← nat 1 bs
    match form with
    | 0 => (nat 2 bs).map (fun x => (.price x.1, x.2))
    | 1 => (nat 1 bs).map (fun x => (.grade x.1, x.2))
    | _ => none

/-- CHARGE-QUOTE (R133). -/
def quote : Reader QuoteArgs :=
  fun bs => do
    let (form, bs) ← quoteForm bs
    let (source, bs) ← priceSource bs
    return ({ form := form, source := source }, bs)

/-- PROTECTION-QUERY (R146). -/
def protection : Reader ProtectionArgs :=
  fun bs => do
    let (arm, bs) ← nat 1 bs
    let (addr, bs) ← nat 1 bs
    let (side, bs) ← nat 1 bs
    return ({ arm := arm, addr := addr, side := side }, bs)

/-- FUEL-AUTHORIZE (R156). -/
def fuelAuth : Reader FuelAuthArgs :=
  fun bs => do
    let (pump, bs) ← nat 1 bs
    let (nozzle, bs) ← nat 1 bs
    let (limit, bs) ← nat 3 bs
    let (account, bs) ← nat 2 bs
    return ({ pump := pump, nozzle := nozzle, limit := limit, account := account }, bs)

/-- PUMP-PROTECT (R169). -/
def protect : Reader ProtectArgs :=
  fun bs => do
    let (pump, bs) ← nat 1 bs
    let (f, bs) ← flag bs
    return ({ pump := pump, flag := f }, bs)

/-- FUEL-TIMERS-SET (R169). -/
def timers : Reader TimersArgs :=
  fun bs => do
    let (ready, bs) ← nat 2 bs
    let (window, bs) ← nat 2 bs
    return ({ ready := ready, window := window }, bs)

/-- ARM-MODE: the arm and the number of the action (R184). -/
def armMode : Reader (Nat × Nat) :=
  fun bs => do
    let (arm, bs) ← nat 1 bs
    let (action, bs) ← nat 1 bs
    return ((arm, action), bs)

/-- ARM-CONFIG (R185). -/
def armConfig : Reader ArmConfigArgs :=
  fun bs => do
    let (arm, bs) ← nat 1 bs
    let (period, bs) ← nat 2 bs
    let (slot, bs) ← nat 2 bs
    let (window, bs) ← nat 1 bs
    let (silence, bs) ← nat 1 bs
    let (anchor, bs) ← nat 1 bs
    let (auto, bs) ← flag bs
    return ({ arm := arm, period := period, slot := slot, window := window, silence := silence, anchor := anchor,
              autoRestore := auto }, bs)

/-- The target of RELAY with its form byte (R193, R210). -/
def relayTarget : Reader RelayTarget :=
  fun bs => do
    let (form, bs) ← nat 1 bs
    match form with
    | 0 =>
      let (mask, bs) ← nat 1 bs
      let (addr, bs) ← nat 1 bs
      return (.arms mask addr, bs)
    | 1 => (nat 1 bs).map (fun x => (.berth x.1, x.2))
    | _ => none

/-- `n` data bytes. -/
def bytes (n : Nat) : Reader (List Byte) :=
  fun bs => if n ≤ bs.length then some (bs.take n, bs.drop n) else none

/-- What RELAY carries, by its direction: WRITE a list of data bytes, READ a byte count (R193, R210). A direction that is neither has no
form of this field, so the body does not suit. -/
def relayPayload (direction : Nat) : Reader RelayPayload :=
  fun bs =>
    match direction with
    | 0 => do
      let (n, bs) ← nat 1 bs
      (bytes n bs).map (fun x => (.write x.1, x.2))
    | 1 => (nat 1 bs).map (fun x => (.read x.1, x.2))
    | _ => none

/-- RELAY (R193): target, direction, sub-address, data or count, group size, wait flag. -/
def relay : Reader RelayArgs :=
  fun bs => do
    let (target, bs) ← relayTarget bs
    let (direction, bs) ← nat 1 bs
    let (sub, bs) ← nat 2 bs
    let (payload, bs) ← relayPayload direction bs
    let (group, bs) ← nat 1 bs
    let (wait, bs) ← flag bs
    return ({ target := target, sub := sub, payload := payload, group := group, wait := wait }, bs)

/-- `n` pairs (arm, address). -/
def pairs : Nat → Reader (List (Nat × Nat))
  | 0 => fun bs => some ([], bs)
  | n + 1 => fun bs => do
    let (arm, bs) ← nat 1 bs
    let (addr, bs) ← nat 1 bs
    let (rest, bs) ← pairs n bs
    return ((arm, addr) :: rest, bs)

/-- RELAY-REFUSE-SET (R198): a count byte, then the pairs. -/
def refuseList : Reader (List (Nat × Nat)) :=
  fun bs => do
    let (n, bs) ← nat 1 bs
    pairs n bs

/-- LOAD-ROW (R205): the index, and the row bytes to the body's end. That the index takes two bytes for every table, as the credential table
needs, is a DESIGN CHOICE (log entry 43). -/
def loadRow : Reader LoadRowArgs :=
  fun bs => (nat 2 bs).map (fun x => ({ index := x.1, bytes := x.2 }, []))

/-- LOAD-COMMIT (R206). -/
def check : Reader Check :=
  fun bs => (nat 2 bs).map (fun x => (BitVec.ofNat 16 x.1, x.2))

/-- A request without fields. -/
def nothing : Reader Unit :=
  fun bs => some ((), bs)

/-- ARM-MODE by its action: ENABLE, DISABLE, RESTORE. An unknown action is answered RANGE, as a body that does not suit is (R184, log entry
9). -/
def armModeOf (tag : Nat) (b : Body (Nat × Nat)) : Instr :=
  match b with
  | .fields (arm, 0) => .armModeEnable tag (.fields arm)
  | .fields (arm, 1) => .armModeDisable tag (.fields arm)
  | .fields (arm, 2) => .armModeRestore tag (.fields arm)
  | _ => .armModeEnable tag .unsuited

/-- The request of a kind code (11.6), with its body read. -/
def request (tag kind : Nat) (bs : List Byte) : Instr :=
  match kind with
  | 0x10 => .reserve tag (body reserve bs)
  | 0x11 => .checkIn tag (body checkIn bs)
  | 0x12 => .departureSet tag (body departure bs)
  | 0x13 => .checkOut tag (body (nat 1) bs)
  | 0x14 => .berthSet tag (body berthSet bs)
  | 0x15 => .close tag (body (nat 1) bs)
  | 0x16 => .open_ tag (body (nat 1) bs)
  | 0x17 => .berthQuery tag (body (nat 1) bs)
  | 0x18 => .graceSet tag (body (nat 2) bs)
  | 0x20 => .accountDebit tag (body amount bs)
  | 0x21 => .credit tag (body amount bs)
  | 0x22 => .accountOpen tag (body limits bs)
  | 0x23 => .accountSet tag (body limits bs)
  | 0x24 => .accountClose tag (body (nat 2) bs)
  | 0x25 => .accountQuery tag (body (nat 2) bs)
  | 0x26 => .bar tag (body (nat 2) bs)
  | 0x27 => .unbar tag (body (nat 2) bs)
  | 0x28 => .credentialRead tag (body (nat 2) bs)
  | 0x29 => .matchTest tag (body card bs)
  | 0x30 => .gateMode tag (body gateMode bs)
  | 0x31 => .gateOpen tag (body (nat 1) bs)
  | 0x32 => .gateQuery tag (body (nat 1) bs)
  | 0x33 => .pontoonSet tag (body pontoonSet bs)
  | 0x34 => .presenceQuery tag (body presence bs)
  | 0x35 => .presenceRemove tag (body card bs)
  | 0x38 => .outletStart tag (body outlet bs)
  | 0x39 => .outletStop tag (body outlet bs)
  | 0x3A => .outletSuspend tag (body outlet bs)
  | 0x3B => .outletRelease tag (body outlet bs)
  | 0x3C => .outletClear tag (body outlet bs)
  | 0x3D => .outletEnables tag (body enables bs)
  | 0x3E => .outletQuery tag (body outlet bs)
  | 0x40 => .rateQuery tag (body nothing bs)
  | 0x41 => .chargeQuote tag (body quote bs)
  | 0x42 => .tripDelaySet tag (body (nat 2) bs)
  | 0x43 => .protectionQuery tag (body protection bs)
  | 0x48 => .fuelAuthorize tag (body fuelAuth bs)
  | 0x49 => .fuelAbort tag (body (nat 1) bs)
  | 0x4A => .saleCollect tag (body (nat 1) bs)
  | 0x4B => .pumpProtect tag (body protect bs)
  | 0x4C => .fuelTimersSet tag (body timers bs)
  | 0x4D => .pumpQuery tag (body (nat 1) bs)
  | 0x50 => armModeOf tag (body armMode bs)
  | 0x51 => .armConfig tag (body armConfig bs)
  | 0x52 => .armQuery tag (body (nat 1) bs)
  | 0x58 => .relay tag (body relay bs)
  | 0x59 => .relayRefuseSet tag (body refuseList bs)
  | 0x5A => .relayQuery tag (body nothing bs)
  | 0x60 => .loadOpen tag (body (nat 1) bs)
  | 0x61 => .loadRow tag (body loadRow bs)
  | 0x62 => .loadCommit tag (body check bs)
  | 0x63 => .loadDiscard tag (body nothing bs)
  | 0x64 => .timeSet tag (body (nat 4) bs)
  | 0x65 => .status tag (body nothing bs)
  | 0x66 => .restart tag (body nothing bs)
  | 0x67 => .trunkConfig tag (body (nat 1) bs)
  | _ => .unknownRequest tag kind

end Decode

/-- The kind codes of 11.6 that name a request. -/
def requestKinds : List Nat :=
  [0x10, 0x11, 0x12, 0x13, 0x14, 0x15, 0x16, 0x17, 0x18, 0x20, 0x21, 0x22, 0x23, 0x24, 0x25, 0x26, 0x27, 0x28, 0x29, 0x30, 0x31,
   0x32, 0x33, 0x34, 0x35, 0x38, 0x39, 0x3A, 0x3B, 0x3C, 0x3D, 0x3E, 0x40, 0x41, 0x42, 0x43, 0x48, 0x49, 0x4A, 0x4B, 0x4C, 0x4D,
   0x50, 0x51, 0x52, 0x58, 0x59, 0x5A, 0x60, 0x61, 0x62, 0x63, 0x64, 0x65, 0x66, 0x67]

/-- The command that a frame received whole is, from its start marker to its CRC (R200, R201): a discarded frame, a valid frame that is no
request, or a request. None for bytes that are no whole frame. -/
def decodeFrame (bs : List Byte) : Option Instr :=
  if Machine.badFrame bs then some (.discardedFrame bs)
  else
    match bs with
    | m :: len :: tag :: kind :: rest =>
      if m = Machine.startMarker ∧ rest.length = len.toNat then
        if tag.toNat = 0 ∨ 0x80 ≤ kind.toNat then some (.nonRequestFrame tag.toNat kind.toNat)
        else some (Decode.request tag.toNat kind.toNat (rest.take (len.toNat - 2)))
      else none
    | _ => none

end Sys2Proof
end

