-- ==== Sys2Proof/Machine/Records.lean ====
section
/-! DEFINITION. The records of the part, chapter by chapter: named lists as inductive types (their constructors in the order the
rules list them, which is the order R210 numbers them in), records as structures with the rules' own fields. -/

namespace Sys2Proof.Machine

/-! ### Berths and Reservations (R3) -/

inductive BerthState where
  | closed | free | reserved | overdue | occupied | departing
  deriving DecidableEq, Repr

/-- The power classes of the Introduction. -/
inductive PowerClass where
  | none | a16 | a32 | a63 | a125
  deriving DecidableEq, Repr

/-- The reservation part of a berth record (R3). -/
structure Reservation where
  deadline : Nat
  enabled : Bool
  planned : Option Nat
  deriving DecidableEq, Repr

/-- A berth record (R3). The berth number is its place; the bound post side is derived (R5). -/
structure Berth where
  state : BerthState
  lengthClass : Nat
  powerClass : PowerClass
  water : Bool
  autoArrival : Bool
  nightlyFee : Bool
  occupant : Option Nat
  reservation : Option Reservation
  arrival : Option Nat
  checkOut : Option Nat
  feesPending : Nat
  overstay : Bool
  overdueSent : Bool
  deriving DecidableEq, Repr

/-- A post side as a berth is bound to it (R5). -/
structure SideRef where
  arm : Nat
  addr : Nat
  side : Nat
  deriving DecidableEq, Repr

/-! ### Accounts and Holds (R28) -/

inductive Standing where
  | closed | good | low | exhausted | barred
  deriving DecidableEq, Repr

inductive Funds where
  | good | low | exhausted
  deriving DecidableEq, Repr

/-- A hold entry (R28, R36). -/
structure Hold where
  id : Nat
  pump : Nat
  amount : Nat
  deriving DecidableEq, Repr

/-- An account record (R28). The funds standing is absent in CLOSED. -/
structure Account where
  standing : Standing
  funds : Option Funds
  balance : Int
  overdraft : Nat
  lowThreshold : Nat
  restartMin : Nat
  holds : List Hold
  uncollected : Nat
  deriving DecidableEq, Repr

/-- The source of a DEBIT (R33). -/
inductive DebitSource where
  | meter | nightFee | settle | office
  deriving DecidableEq, Repr

/-- The refusal reasons of HOLD (R37). -/
inductive HoldRefusal where
  | closed | barred | exhausted | holdsFull | insufficient
  deriving DecidableEq, Repr

/-! ### Credentials (R50, R51) -/

inductive TableState where
  | empty | valid | fault
  deriving DecidableEq, Repr

inductive CredKind where
  | crew | guest | staff | service
  deriving DecidableEq, Repr

/-- The fields of a credential row (R50), read from the row's bytes. -/
structure CredRow where
  enabled : Bool
  code : Card
  mask : Card
  kind : CredKind
  berth : Option Nat
  window : Option (Nat × Nat)
  pontoons : Nat
  antiPassback : Bool
  deriving DecidableEq, Repr

/-- The credential table (R51): its rows are held as the bytes they were loaded with (R208). -/
structure CredTable where
  state : TableState
  rows : Vector (List Byte) 512
  checksum : Option Check
  deriving DecidableEq, Repr

/-- The answer of a consultation (R53). -/
inductive MatchAnswer where
  | table
  | unknown
  | hit (row : Nat) (r : CredRow)
  deriving DecidableEq, Repr

/-- The window verdict of MATCH-TEST (R62). -/
inductive Verdict where
  | none | before | within | after
  deriving DecidableEq, Repr

/-! ### Gates and Pontoon Presence (R64, R80, R81) -/

inductive GateMode where
  | normal | locked | free
  deriving DecidableEq, Repr

inductive Monitor where
  | idle | released | held | forced
  deriving DecidableEq, Repr

inductive GateCmd where
  | strike | deny | holdRelease
  deriving DecidableEq, Repr

/-- A gate's command mark (R75) with whether it has been set since the frame of the exchange in flight was built (R76). -/
structure GateMark where
  cmd : GateCmd
  setAgain : Bool
  deriving DecidableEq, Repr

/-- Which expiry of R79 a RELEASED gate awaits. -/
inductive GateExpiry where
  | strikePending | holdPending | taken
  deriving DecidableEq, Repr

/-- A gate record (R64). The pontoon and the link are derived from the station. -/
structure Gate where
  station : Option (Nat × Nat)
  strikeTime : Option Nat
  holdGrace : Option Nat
  mode : GateMode
  doorOpen : Bool
  monitor : Monitor
  strikeEnd : Option Nat
  passageSeen : Bool
  mark : Option GateMark
  expiry : GateExpiry
  awaitsHeldEnd : Bool
  deriving DecidableEq, Repr

/-- The tracking state of a pontoon, in the order R81 names them. -/
inductive Tracking where
  | suspended | on
  deriving DecidableEq, Repr

/-- A pontoon record (R81). The count is derived from the presence list. -/
structure Pontoon where
  limit : Nat
  tracking : Tracking
  deriving DecidableEq, Repr

/-- A presence record (R80). -/
structure Presence where
  card : Card
  pontoon : Nat
  entry : Nat
  deriving DecidableEq, Repr

/-- The directions of a PASSAGE notice. -/
inductive Direction where
  | inward | outward | button | remote
  deriving DecidableEq, Repr

/-- The denial reasons of an IN read: LOCKED of R68, then those of R69 in its order. No rule lists them together: that LOCKED is numbered
first is a DESIGN CHOICE (log entry 7). -/
inductive Denial where
  | locked | table | unknown | time | pontoon | berth | barred | passback | full | listFull
  deriving DecidableEq, Repr

/-- The record outcomes of a PASSAGE notice. -/
inductive RecordOutcome where
  | added | moved | removed | crossed | frozen | none
  deriving DecidableEq, Repr

/-- What a gate's status reply carries (R67). -/
structure GateStatus where
  doorOpen : Bool
  button : Bool
  read : Option (Card × Bool)   -- card code; true for the pontoon-side reader (OUT)
  deriving DecidableEq, Repr

/-! ### Service Points (R89, R90, R106) -/

inductive Service where
  | power | water
  deriving DecidableEq, Repr

inductive PointState where
  | off | starting | live | suspended | tripped | closing | fault
  deriving DecidableEq, Repr

/-- The release causes (5.3), also the members of the release enable set. -/
inductive Cause where
  | credit | tap | office
  deriving DecidableEq, Repr

/-- The suspension reasons (5.3). -/
inductive SuspReason where
  | credit | barred | office
  deriving DecidableEq, Repr

inductive TripCause where
  | short | overload
  deriving DecidableEq, Repr

/-- The reasons of a close (R94, R96, R101, R104, R110). No rule lists them together: their order, which numbers them, is a DESIGN CHOICE
(log entry 7). -/
inductive CloseReason where
  | tap | office | checkout | unconfirmed | fault
  deriving DecidableEq, Repr

/-- The release enable set of a point (R89). -/
structure Enables where
  credit : Bool
  tap : Bool
  office : Bool
  deriving DecidableEq, Repr

/-- The last accepted counter reading with its marina time (R89). -/
structure Baseline where
  reading : Nat
  time : Nat
  deriving DecidableEq, Repr

/-- A session record (R90). -/
structure Session where
  account : Nat
  card : Option Card
  start : Nat
  billed : Nat
  unbilled : Nat
  cents : Nat
  residue : Nat
  peak : Nat
  suspension : Option SuspReason
  lastRelease : Option Cause
  tripCause : Option TripCause
  tripTime : Option Nat
  closeReason : Option CloseReason
  deriving DecidableEq, Repr

/-- A service point record (R89). The berth is the one the live row names for the side. -/
structure Point where
  state : PointState
  enables : Enables
  baseline : Option Baseline
  unattributed : Nat
  unconfirmed : Nat
  session : Option Session
  deriving DecidableEq, Repr

/-- The detector part of a protection record (R135). -/
structure Detector where
  run : Nat
  sum : Nat
  count : Nat
  latch : Bool
  last : Option Nat
  deriving DecidableEq, Repr

/-- A post's command mark (R106): the desired states, ON true, in the order of POST-SET (R173), its class, and whether it has been
set since the frame of the exchange in flight was built (R107). -/
structure PostMark where
  power0 : Bool
  water0 : Bool
  power1 : Bool
  water1 : Bool
  safety : Bool
  setAgain : Bool
  deriving DecidableEq, Repr

/-- The four service points of a POST station (R89), its two detector parts (R135) and its mark (R106). -/
structure Post where
  power0 : Point
  water0 : Point
  power1 : Point
  water1 : Point
  det0 : Detector
  det1 : Detector
  mark : Option PostMark
  deriving DecidableEq, Repr

/-- One service point. -/
structure PointRef where
  arm : Nat
  addr : Nat
  side : Nat
  svc : Service
  deriving DecidableEq, Repr

/-- One side of a post's status reply (5.2). -/
structure SideStatus where
  power : Nat
  water : Nat
  sample : Nat
  contactorOn : Bool
  valveOn : Bool
  deriving DecidableEq, Repr

/-- What a post's status reply carries (5.2). -/
structure PostStatus where
  side0 : SideStatus
  side1 : SideStatus
  read : Option (Card × Nat)   -- card code, side
  deriving DecidableEq, Repr

/-- The results of a tap (R100). -/
inductive TapResult where
  | started | stopped | released | refused
  deriving DecidableEq, Repr

/-- The refusal reasons of a tap (R100, R103). That R103's are numbered after R100's is a DESIGN CHOICE (log entry 7). -/
inductive TapRefusal where
  | table | unknown | ineligible | berth | held | nothing | rates | credit
  deriving DecidableEq, Repr

/-- The conditions of R98, in its order. -/
inductive ReleaseFailure where
  | state | enable | berth | account | suspension | trip
  deriving DecidableEq, Repr

/-! ### Metering (R117) -/

/-- The rate table (R117): its eight rows are held as the bytes they were loaded with (R208). -/
structure RateTable where
  state : TableState
  rows : Vector (List Byte) 8
  checksum : Option Check
  deriving DecidableEq, Repr

/-! ### Fuel Dock (R148, R149) -/

inductive PumpState where
  | offline | idle | ready | fuelling | stopping | suspect | blocked
  deriving DecidableEq, Repr

inductive Phase where
  | waiting | armed | delivering | stopped
  deriving DecidableEq, Repr

/-- The stop causes of a pump status (9.2). -/
inductive StopCause where
  | none | preset | hung | command | noFlow | pumpFault
  deriving DecidableEq, Repr

inductive EndReason where
  | limit | hung | abort | timeout | linkLost | fault
  deriving DecidableEq, Repr

inductive SaleSource where
  | account | attendant
  deriving DecidableEq, Repr

/-- A sale record (R149). -/
structure Sale where
  source : SaleSource
  account : Option Nat
  card : Option Card
  nozzle : Nat
  grade : Nat
  price : Nat
  limit : Nat
  holdId : Option Nat
  preset : Nat
  volume : Nat
  amount : Nat
  abortTaken : Bool
  start : Nat
  endTime : Option Nat
  endReason : Option EndReason
  deriving DecidableEq, Repr

/-- What a pump's mark commands (R153). -/
inductive PumpCmd where
  | auth (nozzle grade preset : Nat)
  | stop
  deriving DecidableEq, Repr

/-- A pump's mark (R153). -/
structure PumpMark where
  cmd : PumpCmd
  setAgain : Bool
  deriving DecidableEq, Repr

/-- A pump record (R148). -/
structure Pump where
  station : Option (Nat × Nat)
  grade0 : Nat
  grade1 : Nat
  protect : Bool
  state : PumpState
  suspendedFrom : Option PumpState
  suspectSince : Option Nat
  sale : Option Sale
  slots : List Sale
  lost : Nat
  closedVolume : Option Nat
  mark : Option PumpMark
  deriving DecidableEq, Repr

/-- What a pump's status reply carries (8.2). -/
structure PumpStatus where
  lifted0 : Bool
  lifted1 : Bool
  phase : Phase
  cause : StopCause
  volume : Nat
  read : Option (Card × Nat)   -- card code, nozzle
  deriving DecidableEq, Repr

/-- The refusal reasons of a card at a pump (R154). -/
inductive PumpRefusal where
  | blocked | busy | table | unknown | time | kind | berth | rates
  | hold (r : HoldRefusal)
  deriving DecidableEq, Repr

/-! ### Pontoon Arm Buses -/

inductive ArmState where
  | disabled | active | degraded | isolated
  deriving DecidableEq, Repr

inductive Link where
  | unseen | present | silent
  deriving DecidableEq, Repr

inductive RowKind where
  | none | post | gate | pump
  deriving DecidableEq, Repr

/-- A live station table row (R176): the values in force, defaults applied. -/
inductive Row where
  | none
  | post (berth0 berth1 : Option Nat) (offset shift fullScale shortN window : Nat)
  | gate (number strike grace : Nat)
  | pump (number grade0 grade1 : Nat)
  deriving DecidableEq, Repr

/-- A station record (9.4): link state and missed count. -/
structure Station where
  link : Link
  missed : Nat
  deriving DecidableEq, Repr

/-- One address of an arm: its live row, its station record (kind other than NONE), its post record (kind POST). -/
structure Slot where
  row : Row
  station : Option Station
  post : Option Post
  deriving DecidableEq, Repr

/-- A request on an arm bus (R173). -/
inductive ArmRequest where
  | poll
  | pollPump (amount volume : Nat)
  | postSet (power0 water0 power1 water1 : Bool)
  | gateStrike (v : Nat)
  | pumpAuth (nozzle preset : Nat)
  | pumpStop
  | relayWrite (sub : Nat) (data : List Byte)
  | relayRead (sub count : Nat)
  | probe
  deriving DecidableEq, Repr

/-- The work an exchange carries (R189). -/
inductive Work where
  | priorityPoll | regularPoll | mark | relay | probe
  deriving DecidableEq, Repr

/-- An exchange in flight (R174): chosen, then begun when its frame has been sent; the window in force is read then. -/
structure Exchange where
  addr : Nat
  req : ArmRequest
  work : Work
  begun : Bool
  window : Nat
  deriving DecidableEq, Repr

/-- What a good reply delivers (R174, R190). -/
inductive ReplyContent where
  | post (st : PostStatus)
  | gate (st : GateStatus)
  | pump (st : PumpStatus)
  | ack
  | data (bs : List Byte)
  deriving DecidableEq, Repr

/-- The cause of an ARM-STATE notice. -/
inductive ArmCause where
  | errors | probes | office
  deriving DecidableEq, Repr

/-- An Arm Bus Master (chapter 9). -/
structure Arm where
  state : ArmState
  errors : Nat
  probes : Nat
  period : Nat
  slotInterval : Nat
  window : Nat
  silence : Nat
  anchor : Nat
  autoRestore : Bool
  slots : Vector Slot 30
  checksum : Option Check
  pointer : Nat
  sweep : Option (List Nat)
  sweepWaiting : Bool
  pollDue : Bool
  probeDue : Bool
  periodRunning : Option Nat
  slotRunning : Option Nat
  probeTimer : Bool
  inFlight : Option Exchange
  deriving DecidableEq, Repr

/-! ### Relayed Station Transfers (R194) -/

inductive EndCause where
  | complete | failed | degraded | disabled | restart
  deriving DecidableEq, Repr

/-- One arm's transfer of a relay request (R194). -/
structure Transfer where
  arm : Nat
  total : Nat
  done : Nat
  buffer : List Byte
  endCause : Option EndCause
  deriving DecidableEq, Repr

/-- The content of a relay request: the bytes of a WRITE, the count of a READ (R193). -/
inductive RelayData where
  | write (data : List Byte)
  | read (count : Nat)
  deriving DecidableEq, Repr

/-- A relay request with a transfer in flight (R193, R194, R196). The address is that of the target as translated. -/
structure RelayRequest where
  tag : Nat
  wait : Bool
  addr : Nat
  sub : Nat
  group : Nat
  data : RelayData
  transfers : List Transfer
  deriving DecidableEq, Repr

/-! ### Trunk, Tables and Notices -/

inductive TrunkLink where
  | awaiting | connected | autonomous
  deriving DecidableEq, Repr

/-- The tables the staging area can hold (R204). -/
inductive TableId where
  | credentials
  | rates
  | stations (arm : Nat)
  deriving DecidableEq, Repr

/-- The staging area with a load open (R204). -/
structure Load where
  table : TableId
  rows : List (List Byte)
  deriving DecidableEq, Repr

/-- The position and running check of the integrity scan (R209). -/
structure Scan where
  inRates : Bool
  row : Nat
  crc : Check
  deriving DecidableEq, Repr

/-- The result codes, in the order of their numbers (11.5). -/
inductive Result where
  | done | accepted | busy | state | range | denied | tooLate | checksum | unknown
  deriving DecidableEq, Repr

end Sys2Proof.Machine
end

