-- ==== Sys2Proof/Machine/Notices.lean ====
section
/-! DEFINITION. What the part sends: notices (R213 and the notice table of each chapter) and replies (R201 and the rule of each
request), as data with the fields their rules name, in their rules' order. The bytes of both are in Frames.lean. -/

namespace Sys2Proof.Machine

/-- The source of an ARRIVED notice (R7). -/
inductive ArrivalSource where
  | checkIn | gate | post
  deriving DecidableEq, Repr

/-- The request kind of an ACCOUNT-MISMATCH notice. -/
inductive MismatchKind where
  | debit | settle | release
  deriving DecidableEq, Repr

/-- The end of a relay request as R196 reports it: one entry of `results` for each targeted arm. -/
structure RelayReport where
  isRead : Bool
  arms : Nat
  addr : Nat
  results : List (Nat × Nat × Nat × Option EndCause)   -- arm, groups done, groups total, end cause
  bytes : List Byte
  deriving DecidableEq, Repr

/-- The class of a notice (R213). -/
inductive NoticeClass where
  | routine | urgent
  deriving DecidableEq, Repr

/-- The notices with their subject fields. -/
inductive NoticeBody where
  | arrived (berth account : Nat) (source : ArrivalSource) (card : Option Card) (late : Bool)
  | overdue (berth account deadline : Nat)
  | lapsed (berth account deadline : Nat)
  | overstay (berth account planned : Nat)
  | departed (berth account : Nat) (arrival checkOut : Nat) (forced : Nat) (overstay : Bool)
  | feesUnpriced (berth account nights : Nat)
  | low (account : Nat) (available : Int) (threshold : Nat)
  | exhausted (account : Nat) (available balance : Int) (holds : Nat)
  | barred (account : Nat) (balance : Int)
  | restored (account : Nat) (standing : Standing) (available : Int)
  | accountMismatch (account : Nat) (kind : MismatchKind) (amount holdId : Option Nat) (source : Option DebitSource)
  | tableFault (rates : Bool) (stored found : Check)
  | passage (gate pontoon : Nat) (dir : Direction) (card : Option Card) (kind : Option CredKind) (berth : Option Nat)
      (granted : Bool) (reason : Option Denial) (outcome : RecordOutcome) (crossedFrom : Option Nat)
  | forced (gate pontoon : Nat)
  | heldOpen (gate pontoon strikeEnd : Nat)
  | doorSecure (gate pontoon : Nat) (left : Monitor)
  | tracking (pontoon : Nat) (state : Tracking) (count : Nat)
  | tap (arm addr side : Nat) (berth : Option Nat) (card : Card) (kind : Option CredKind) (result : TapResult)
      (reason : Option TapRefusal) (points : List Service)
  | sessionClosed (point : PointRef) (berth : Option Nat) (session : Session) (closeTime : Nat) (reason : CloseReason)
  | startFailed (point : PointRef) (berth : Option Nat) (account : Nat)
  | supplyDropped (point : PointRef) (berth : Option Nat) (account : Nat)
  | cutUnconfirmed (point : PointRef) (berth : Option Nat) (state : PointState)
  | leak (point : PointRef) (berth : Option Nat) (pulses : Nat)
  | meterFault (point : PointRef) (berth : Option Nat) (baseline : Baseline) (reading delta elapsed limit : Nat)
  | trip (arm addr side : Nat) (berth : Option Nat) (account : Nat) (cause : TripCause) (left : PointState) (raw current : Nat)
      (run : Option (Nat × Nat)) (mean : Option (Nat × Nat)) (time : Nat)
  | overloadWarn (arm addr side : Nat) (berth : Option Nat) (account mean warn rating : Nat)
  | pumpDenied (pump nozzle : Nat) (card : Card) (reason : PumpRefusal)
  | pumpAuthorized (pump : Nat) (sale : Sale)
  | authExpired (pump : Nat) (sale : Sale)
  | abortDone (pump volume amount : Nat)
  | saleComplete (pump : Nat) (sale : Sale)
  | saleLost (pump : Nat) (sale : Sale)
  | linkLost (pump : Nat) (account : Option Nat) (volume amount : Nat)
  | lateVolume (pump closed reported : Nat) (phase : Phase)
  | stationSilent (arm addr : Nat) (kind : RowKind) (missed : Nat)
  | stationPresent (arm addr : Nat) (kind : RowKind) (left : Link)
  | armWarning (arm count : Nat)
  | armState (arm : Nat) (left entered : ArmState) (cause : ArmCause) (count : Nat)
  | armIsolated (arm : Nat) (left : ArmState) (silenced : Nat)
  | armReachable (arm anchor : Nat)
  | relayDone (tag : Nat) (report : RelayReport)
  | autonomous (silenceTime : Nat)
  deriving DecidableEq, Repr

/-- A notice as stamped at its posting (R213). Its class is that of its kind. -/
structure Notice where
  number : Nat
  time : Nat
  body : NoticeBody
  deriving DecidableEq, Repr

/-- The notice queue with its counters (R213). -/
structure NoticeQueue where
  queue : List Notice
  next : Nat
  dropped : Nat
  deriving DecidableEq, Repr

/-- One service point as OUTLET-QUERY reports it (R108). -/
structure PointReport where
  point : PointRef
  berth : Option Nat
  record : Point
  deriving DecidableEq, Repr

/-- One point as OUTLET-RELEASE reports it (R111): its state after the request, and for a point not released the first
condition of R98 that failed. -/
structure ReleaseReport where
  state : PointState
  failed : Option ReleaseFailure
  deriving DecidableEq, Repr

/-- One address as ARM-QUERY reports it (R186): the row kind and, where a station record exists, the link, the missed count and
the mark, present or absent; a post's mark with its class. The owner's kind of a mark is the row kind. -/
structure AddressReport where
  kind : RowKind
  station : Option (Station × Bool × Option Bool)   -- mark present; for a post's mark, SAFETY
  deriving DecidableEq, Repr

/-- The fields a reply carries after its result byte, named by the rule of its request. -/
inductive ReplyBody where
  | empty
  | berth (number : Nat) (record : Berth) (bound : Option SideRef)
  | debited (balance : Int) (uncollected : Nat) (standing : Standing)
  | credited (balance available : Int) (standing : Standing)
  | standing (s : Standing)
  | closedAccount (balance : Int) (uncollected : Nat)
  | account (record : Account) (available : Option Int)
  | credential (state : TableState) (row : CredRow)
  | matched (table : TableState) (answer : MatchAnswer) (verdict : Verdict)
  | gate (number : Nat) (record : Gate) (online : Bool) (pontoon : Option (Tracking × Nat))
  | count (n : Nat)
  | presence (pontoons : List (Nat × Nat × Tracking)) (matching : Nat) (records : List Presence)
  | removed (pontoon entry : Nat)
  | points (states : List PointState)
  | releases (reports : List ReleaseReport)
  | outlets (reports : List PointReport) (mark : Option PostMark)
  | rates (state : TableState) (checksum : Option Check) (rows : List (List Byte))
  | quoteAmount (price amount volume : Nat)
  | quoteStop (price stop amount : Nat) (clamped : Bool)
  | protection (offset shift fullScale shortN window rating warn : Nat) (det : Detector) (delay : Nat) (tapAt : Option Nat)
  | holdRefused (r : HoldRefusal)
  | authorized (price limit preset : Nat)
  | sale (s : Sale) (left : Nat)
  | pump (number : Nat) (record : Pump)
  | station (addr : Nat)
  | arm (state : ArmState) (errors period slot window silence anchor : Nat) (autoRestore : Bool) (anchorInForce : Option Nat)
      (probes pointer : Nat) (sweep : Option (List Nat)) (checksum : Option Check) (addresses : List AddressReport)
  | groups (n : Nat)
  | relayed (r : RelayReport)
  | refusals (pairs : List (Nat × Nat))
  | relays (pairs : List (Nat × Nat)) (perArm : List (Option (RelayRequest × Transfer)))
  | rowCount (n : Nat)
  | found (c : Check)
  | failedRow (table : TableId) (row : Nat) (clash : Option (Nat × Nat))
  | times (old new : Nat)
  | status (link : TrunkLink) (silence clock : Nat) (creds rates : TableState) (load : Option TableId) (scan : Scan)
      (routine urgent dropped discarded nextNumber : Nat) (arms : List (ArmState × Nat))
  deriving DecidableEq, Repr

/-- A made reply (R201): the request's tag and kind code, the result, and the fields. -/
structure Reply where
  tag : Nat
  kind : Nat
  result : Result
  body : ReplyBody
  deriving DecidableEq, Repr

/-- A frame being sent (R202). -/
inductive SentFrame where
  | reply (r : Reply)
  | notice (n : Notice)
  deriving DecidableEq, Repr

/-- The trunk link, the reply list and the send side (R200 to R203). -/
structure Trunk where
  link : TrunkLink
  silenceTime : Nat
  silenceCount : Nat
  replies : List Reply
  sending : Option SentFrame
  discarded : Nat
  rx : List Byte
  deriving DecidableEq, Repr

end Sys2Proof.Machine
end

