-- ==== Sys2Proof/Machine/State.lean ====
section
/-! DEFINITION. The state of the part: every record of every block as plain data, and the queue of commands that wait. -/

namespace Sys2Proof.Machine

/-- The part. Each field is the state of one block's chapter; INVENTORY.md lists the rule of each. -/
structure State where
  /-- the commands that wait, first in, first out -/
  pending : List Instr
  /-- berth records 1..200 at places 0..199 (R3) -/
  berths : Vector Berth 200
  /-- reservation grace in minutes (R19) -/
  grace : Nat
  /-- deadline scanner pointer, a berth number (R20) -/
  scanPtr : Nat
  /-- account records 1..256 at places 0..255 (R28) -/
  accounts : Vector Account 256
  /-- credential table (R51) -/
  creds : CredTable
  /-- gate records (R64) -/
  gates : Vector Gate 8
  /-- pontoon records (R81) -/
  pontoons : Vector Pontoon 6
  /-- presence list, oldest first (R80) -/
  presence : List Presence
  /-- the six Arm Bus Masters with their stations, posts and exchanges (R173 to R192, R89, R135) -/
  arms : Vector Arm 6
  /-- rate table (R117) -/
  rates : RateTable
  /-- trip reset delay in seconds (R136) -/
  tripDelay : Nat
  /-- pump records (R148) -/
  pumps : Vector Pump 4
  /-- READY timeout in seconds (R148) -/
  readyTimeout : Nat
  /-- sale link-loss window in seconds (R148) -/
  linkLossWindow : Nat
  /-- relay refusal list (R198) -/
  refusals : List (Nat × Nat)
  /-- relay requests with a transfer in flight, in the order they were accepted (R194) -/
  relays : List RelayRequest
  /-- trunk link, reply list and send side (R200 to R203) -/
  trunk : Trunk
  /-- staging area with the open load (R204) -/
  staging : Option Load
  /-- integrity scan (R209) -/
  scan : Scan
  /-- marina time (R211) -/
  clock : Nat
  /-- notice queue (R213) -/
  notices : NoticeQueue
  deriving DecidableEq, Repr

/-- The faults of a step. The part has none: it reports everything by results and notices and no rule of the manual stops it, so this
type has no constructor, nothing raises it, and its absence is neither safe nor unsafe beyond the log entries on the rules themselves. -/
inductive Fault where
  deriving DecidableEq, Repr

/-- The refusals of a step. -/
inductive Refusal where
  /-- Raised by an arm of `exec` whose command has no meaning yet. Safe: nothing is claimed of such a command. No arm raises it. -/
  | notModelled (mnemonic : String)
  deriving DecidableEq, Repr

/-- R26. -/
def Berth.reset : Berth :=
  { state := .closed, lengthClass := 0, powerClass := .none, water := false, autoArrival := false, nightlyFee := false,
    occupant := none, reservation := none, arrival := none, checkOut := none, feesPending := 0, overstay := false,
    overdueSent := false }

/-- The values of a CLOSED account (R28, R48). -/
def Account.reset : Account :=
  { standing := .closed, funds := none, balance := 0, overdraft := 0, lowThreshold := 0, restartMin := 1, holds := [],
    uncollected := 0 }

/-- R63: EMPTY, with the bytes of the empty row (R204: all zero). -/
def CredTable.reset : CredTable :=
  { state := .empty, rows := Vector.replicate 512 (List.replicate 22 0#8), checksum := none }

/-- R87. Strike time and hold grace have no value before a row names the gate (DESIGN CHOICE, log entry 12); the expiry stage and the
held-release flag are the model's reset values (DESIGN CHOICE, log entry 13). -/
def Gate.reset : Gate :=
  { station := none, strikeTime := none, holdGrace := none, mode := .normal, doorOpen := false, monitor := .idle,
    strikeEnd := none, passageSeen := false, mark := none, expiry := .taken, awaitsHeldEnd := false }

/-- R87. -/
def Pontoon.reset : Pontoon :=
  { limit := 0, tracking := .on }

/-- An address without a station (R191). -/
def Slot.reset : Slot :=
  { row := .none, station := none, post := none }

/-- R191, with the power-on settings of R185. -/
def Arm.reset : Arm :=
  { state := .disabled, errors := 0, probes := 0, period := 250, slotInterval := 200, window := 12, silence := 4, anchor := 0,
    autoRestore := true, slots := Vector.replicate 30 Slot.reset, checksum := none, pointer := 1, sweep := none,
    sweepWaiting := false, pollDue := false, probeDue := false, periodRunning := none, slotRunning := none,
    probeTimer := false, inFlight := none }

/-- R134: EMPTY, every field 0, each row of its layout length (11.5). -/
def RateTable.reset : RateTable :=
  { state := .empty,
    rows := ⟨#[List.replicate 8 0#8, List.replicate 8 0#8, List.replicate 8 0#8, List.replicate 6 0#8, List.replicate 4 0#8,
      List.replicate 18 0#8, List.replicate 8 0#8, List.replicate 12 0#8], rfl⟩,
    checksum := none }

/-- R171. The grades of an unconfigured pump: DESIGN CHOICE 0 (log entry 14). -/
def Pump.reset : Pump :=
  { station := none, grade0 := 0, grade1 := 0, protect := true, state := .offline, suspendedFrom := none, suspectSince := none,
    sale := none, slots := [], lost := 0, closedVolume := none, mark := none }

/-- R216. The silence count, the send side and the receive side: DESIGN CHOICE 0, idle, empty (log entry 15). -/
def Trunk.reset : Trunk :=
  { link := .awaiting, silenceTime := 30, silenceCount := 0, replies := [], sending := none, discarded := 0, rx := [] }

/-- R216. -/
def NoticeQueue.reset : NoticeQueue :=
  { queue := [], next := 0, dropped := 0 }

/-- R209: credential row 0 with the running check at all ones. -/
def Scan.reset : Scan :=
  { inRates := false, row := 0, crc := 0xFFFF#16 }

/-- The part right after power-on: R26, R48, R63, R87, R115, R134, R136, R171, R191, R199, R216. -/
def State.reset : State :=
  { pending := []
    berths := Vector.replicate 200 Berth.reset
    grace := 120
    scanPtr := 1
    accounts := Vector.replicate 256 Account.reset
    creds := CredTable.reset
    gates := Vector.replicate 8 Gate.reset
    pontoons := Vector.replicate 6 Pontoon.reset
    presence := []
    arms := Vector.replicate 6 Arm.reset
    rates := RateTable.reset
    tripDelay := 60
    pumps := Vector.replicate 4 Pump.reset
    readyTimeout := 120
    linkLossWindow := 600
    refusals := []
    relays := []
    trunk := Trunk.reset
    staging := none
    scan := Scan.reset
    clock := 0
    notices := NoticeQueue.reset }

end Sys2Proof.Machine
end

