-- ==== Sys2Proof/Machine/Ops.lean ====
section
/-! DEFINITION. The named reads and writes of the records by their numbers, marina-time sums, posting a notice (R213), and the trunk's
reply list and send side (R201 to R203). -/

namespace Sys2Proof.Machine

/-! ### Tables of records -/

/-- The record at a place of a table; `d` where the table has no such place. -/
def tabGet {α : Type} {n : Nat} (v : Vector α n) (d : α) (i : Nat) : α :=
  (v[i]?).getD d

/-- A table with one record replaced; unchanged where the table has no such place. -/
def tabSet {α : Type} {n : Nat} (v : Vector α n) (i : Nat) (x : α) : Vector α n :=
  v.setIfInBounds i x

/-- A table numbered from 1, as berths, accounts and station addresses are (Introduction, "Numbering"). -/
def numGet {α : Type} {n : Nat} (v : Vector α n) (d : α) : Nat → α
  | 0 => d
  | k + 1 => tabGet v d k

/-- A table numbered from 1 with one record replaced; number 0 names none. -/
def numSet {α : Type} {n : Nat} (v : Vector α n) : Nat → α → Vector α n
  | 0, _ => v
  | k + 1, x => tabSet v k x

/-! ### Records of the state -/

/-- The berth record of a number (R3). -/
def State.berth (s : State) (n : Nat) : Berth :=
  numGet s.berths Berth.reset n

/-- Replaces a berth record. -/
def State.setBerth (s : State) (n : Nat) (b : Berth) : State :=
  { s with berths := numSet s.berths n b }

/-- The account record of a number (R28); account 0 names none and reads as CLOSED. -/
def State.account (s : State) (n : Nat) : Account :=
  numGet s.accounts Account.reset n

/-- Replaces an account record. -/
def State.setAccount (s : State) (n : Nat) (a : Account) : State :=
  { s with accounts := numSet s.accounts n a }

/-- The gate record of a number (R64). -/
def State.gate (s : State) (g : Nat) : Gate :=
  tabGet s.gates Gate.reset g

/-- Replaces a gate record. -/
def State.setGate (s : State) (g : Nat) (x : Gate) : State :=
  { s with gates := tabSet s.gates g x }

/-- The pontoon record of a number (R81). -/
def State.pontoon (s : State) (p : Nat) : Pontoon :=
  tabGet s.pontoons Pontoon.reset p

/-- Replaces a pontoon record. -/
def State.setPontoon (s : State) (p : Nat) (x : Pontoon) : State :=
  { s with pontoons := tabSet s.pontoons p x }

/-- The number of presence records naming a pontoon (R81). -/
def State.count (s : State) (p : Nat) : Nat :=
  s.presence.countP (fun r => r.pontoon == p)

/-- The presence record of a card, if any (R80). -/
def State.presenceOf (s : State) (c : Card) : Option Presence :=
  s.presence.find? (fun r => r.card == c)

/-- Replaces the presence list. -/
def State.setPresence (s : State) (l : List Presence) : State :=
  { s with presence := l }

/-- The pump record of a number (R148). -/
def State.pump (s : State) (p : Nat) : Pump :=
  tabGet s.pumps Pump.reset p

/-- Replaces a pump record. -/
def State.setPump (s : State) (p : Nat) (x : Pump) : State :=
  { s with pumps := tabSet s.pumps p x }

/-- The Arm Bus Master of an arm. -/
def State.arm (s : State) (a : Nat) : Arm :=
  tabGet s.arms Arm.reset a

/-- Replaces an Arm Bus Master. -/
def State.setArm (s : State) (a : Nat) (x : Arm) : State :=
  { s with arms := tabSet s.arms a x }

/-- The slot of a station address 1..30. -/
def Arm.slot (A : Arm) (addr : Nat) : Slot :=
  numGet A.slots Slot.reset addr

/-- Replaces a slot. -/
def Arm.setSlot (A : Arm) (addr : Nat) (x : Slot) : Arm :=
  { A with slots := numSet A.slots addr x }

/-- The slot of an address of an arm. -/
def State.slot (s : State) (a addr : Nat) : Slot :=
  (s.arm a).slot addr

/-- Replaces the slot of an address of an arm. -/
def State.setSlot (s : State) (a addr : Nat) (x : Slot) : State :=
  s.setArm a ((s.arm a).setSlot addr x)

/-- The live row of an address of an arm (R176). -/
def State.row (s : State) (a addr : Nat) : Row :=
  (s.slot a addr).row

/-- The kind of a row (R176). -/
def Row.kind : Row → RowKind
  | .none => .none
  | .post .. => .post
  | .gate .. => .gate
  | .pump .. => .pump

/-- The station addresses of an arm, in address order. -/
def addresses : List Nat :=
  (List.range 30).map (· + 1)

/-- The link of a station; an address without a station record is UNSEEN. -/
def State.link (s : State) (a addr : Nat) : Link :=
  match (s.slot a addr).station with
  | some st => st.link
  | none => .unseen

/-- Whether the station at an address of an arm is PRESENT. -/
def State.isPresent (s : State) (a addr : Nat) : Bool :=
  s.link a addr == .present

/-- Replaces the rate table. -/
def State.setRates (s : State) (r : RateTable) : State :=
  { s with rates := r }

/-- Replaces the credential table. -/
def State.setCreds (s : State) (c : CredTable) : State :=
  { s with creds := c }

/-- Replaces the list of relay requests. -/
def State.setRelays (s : State) (l : List RelayRequest) : State :=
  { s with relays := l }

/-- Replaces the trunk's own state. -/
def State.setTrunk (s : State) (t : Trunk) : State :=
  { s with trunk := t }

/-- Replaces the notice queue. -/
def State.setNotices (s : State) (q : NoticeQueue) : State :=
  { s with notices := q }

/-! ### Marina time (R211) -/

/-- The largest marina time. -/
def timeMax : Nat := 4294967295

/-- An expiry: a stored marina time plus a duration, a sum above the largest marina time taken as the largest (R211). -/
def expiryAt (t d : Nat) : Nat :=
  min (t + d) timeMax

/-- Whether an expiry formed from a stored time and a duration has come (R211). -/
def expired (now t d : Nat) : Bool :=
  decide (expiryAt t d ≤ now)

/-- A count that stays at its bound once there. -/
def satAdd (bound n d : Nat) : Nat :=
  min (n + d) bound

/-! ### The notice queue (R213) -/

/-- The class of a notice kind (the table of notice kinds in 11.8). -/
def NoticeBody.cls : NoticeBody → NoticeClass
  | .tableFault .. => .urgent
  | .forced .. => .urgent
  | .heldOpen .. => .urgent
  | .cutUnconfirmed .. => .urgent
  | .meterFault .. => .urgent
  | .trip .. => .urgent
  | .lateVolume .. => .urgent
  | .armIsolated .. => .urgent
  | .autonomous .. => .urgent
  | _ => .routine

/-- The queue without the notice that an URGENT notice displaces: its oldest ROUTINE notice, or its oldest where all are URGENT
(R213). -/
def dropForUrgent (q : List Notice) : List Notice :=
  if q.any (fun n => n.body.cls == .routine) then q.eraseP (fun n => n.body.cls == .routine) else q.tail

/-- A notice is stamped and joins the queue under its overflow rule (R213). -/
def NoticeQueue.post (q : NoticeQueue) (now : Nat) (b : NoticeBody) : NoticeQueue :=
  let n : Notice := { number := q.next, time := now, body := b }
  let next := (q.next + 1) % 65536
  if q.queue.length < 64 then
    { q with queue := q.queue ++ [n], next := next }
  else
    match b.cls with
    | .routine => { q with next := next, dropped := satAdd 65535 q.dropped 1 }
    | .urgent => { queue := dropForUrgent q.queue ++ [n], next := next, dropped := satAdd 65535 q.dropped 1 }

/-- A block posts a notice (R213). -/
def State.post (s : State) (b : NoticeBody) : State :=
  s.setNotices (s.notices.post s.clock b)

/-- Posts a notice where there is one to post. -/
def State.postIf (s : State) (c : Bool) (b : NoticeBody) : State :=
  if c then s.post b else s

/-! ### The trunk (R201 to R203) -/

/-- The number of withheld replies: those of relay requests with the wait flag that have not completed (R196, R201). -/
def State.withheld (s : State) : Nat :=
  s.relays.countP (·.wait)

/-- A valid frame moves the link to CONNECTED and sets the silence count to 0 (R203). -/
def State.frameTaken (s : State) : State :=
  s.setTrunk { s.trunk with link := .connected, silenceCount := 0, rx := [] }

/-- Whether the reply list has room: it holds up to 16 replies, withheld ones included (R201). -/
def State.replyRoom (s : State) : Bool :=
  decide (s.trunk.replies.length + s.withheld < 16)

/-- Places a made reply at the end of the reply list (R201). -/
def State.pushReply (s : State) (r : Reply) : State :=
  s.setTrunk { s.trunk with replies := s.trunk.replies ++ [r] }

/-- A request that is not taken (R201). -/
def State.discardRequest (s : State) : State :=
  s.setTrunk { s.trunk with discarded := satAdd 65535 s.trunk.discarded 1 }

/-- The send side, where it is free, chooses the next frame (R202). -/
def State.sendNext (s : State) : State :=
  match s.trunk.sending with
  | some _ => s
  | none =>
    match s.trunk.replies with
    | r :: rs => s.setTrunk { s.trunk with sending := some (.reply r), replies := rs }
    | [] =>
      if 0 < s.withheld then s
      else if s.trunk.link = .connected then
        match s.notices.queue with
        | [] => s
        | n :: ns =>
          (s.setTrunk { s.trunk with sending := some (.notice n) }).setNotices { s.notices with queue := ns }
      else s

/-- A result with its fields, as a block's judgement of a request gives it. -/
structure Answer where
  result : Result
  body : ReplyBody
  deriving DecidableEq, Repr

/-- An answer that carries nothing but its result. -/
def Answer.plain (r : Result) : Answer :=
  { result := r, body := .empty }

/-- A block's judgement of a request: the state it leaves and the answer, or no answer now where the reply is withheld (R201). -/
abbrev Judged := State × Option Answer

/-- A request refused, or answered, without changing anything. -/
def refuse (s : State) (r : Result) : Judged :=
  (s, some (Answer.plain r))

/-- A request carried out, with the answer DONE and no further field. -/
def doneWith (s : State) : Judged :=
  (s, some (Answer.plain .done))

/-- A request answered with fields. -/
def answer (s : State) (r : Result) (b : ReplyBody) : Judged :=
  (s, some { result := r, body := b })

/-- A request frame is received (R200, R201, R203): the link first, then room in the reply list, then the body's length, then the
owning block's judgement, then the reply, which comes after one that the judgement itself made (DESIGN CHOICE, log entry 36). `code` is the
kind code of 11.6. -/
def takeRequest {α : Type} (code tag : Nat) (b : Body α) (judge : State → α → Judged) (s : State) : State :=
  let s := s.frameTaken
  if s.replyRoom then
    match b with
    | .unsuited => s.pushReply { tag := tag, kind := code, result := .range, body := .empty }
    | .fields f =>
      match judge s f with
      | (s, some r) => s.pushReply { tag := tag, kind := code, result := r.result, body := r.body }
      | (s, none) => s
  else s.discardRequest

/-- The outcome of a command whose meaning is a next state, after the send side's choice (R202). -/
def finish (s : State) : Host.Outcome State Fault Refusal :=
  .next s.sendNext

end Sys2Proof.Machine
end

