-- ==== Sys2Proof/Machine/Operands.lean ====
section
/-! DEFINITION. How the numbers and bytes of a command name things: members of named lists (R210), ranges (Introduction,
"Numbering"), the layouts of credential, rate and station rows (11.5), and the selectors of R5 and R108. -/

namespace Sys2Proof.Machine

/-! ### Ranges (Introduction, "Numbering") -/

def isBerth (n : Nat) : Bool := decide (1 ≤ n ∧ n ≤ 200)
def isAccount (n : Nat) : Bool := decide (1 ≤ n ∧ n ≤ 256)
def isGate (n : Nat) : Bool := decide (n < 8)
def isPontoon (n : Nat) : Bool := decide (n < 6)
def isArm (n : Nat) : Bool := decide (n < 6)
def isAddr (n : Nat) : Bool := decide (1 ≤ n ∧ n ≤ 30)
def isPump (n : Nat) : Bool := decide (n < 4)

/-- A number in a range, both ends included (R2). -/
def inRange (lo hi n : Nat) : Bool := decide (lo ≤ n ∧ n ≤ hi)

/-! ### Named lists -/

/-- The power class of a number, NONE first (R3). -/
def powerClassOf : Nat → Option PowerClass
  | 0 => some .none
  | 1 => some .a16
  | 2 => some .a32
  | 3 => some .a63
  | 4 => some .a125
  | _ => none

/-- The gate mode of a number (R64). -/
def gateModeOf : Nat → Option GateMode
  | 0 => some .normal
  | 1 => some .locked
  | 2 => some .free
  | _ => none

/-- The services of POWER, WATER and BOTH (R108). -/
def servicesOf : Nat → Option (List Service)
  | 0 => some [.power]
  | 1 => some [.water]
  | 2 => some [.power, .water]
  | _ => none

/-- A release enable set, CREDIT in the lowest bit (R108, R210). A bit beyond the three members is out of range (DEDUCED, log
entry 5). -/
def enablesOf (n : Nat) : Option Enables :=
  if n < 8 then some { credit := n.testBit 0, tap := n.testBit 1, office := n.testBit 2 } else none

/-- The table of LOAD-OPEN: CREDENTIALS, RATES, STATIONS-0 to STATIONS-5 (R204). -/
def tableOf (n : Nat) : Option TableId :=
  if n = 0 then some .credentials
  else if n = 1 then some .rates
  else if n < 8 then some (.stations (n - 2))
  else none

/-- The arms of a mask, lowest first (R193). -/
def maskArms (mask : Nat) : List Nat :=
  (List.range 6).filter (fun a => mask.testBit a)

/-- The rating of a power class in deciamperes (Introduction, "Capacities"). -/
def PowerClass.rating : PowerClass → Nat
  | .none => 0
  | .a16 => 160
  | .a32 => 320
  | .a63 => 630
  | .a125 => 1250

/-- The place of a power class among the plausibility limits of rate row 3 (R117). -/
def PowerClass.place : PowerClass → Nat
  | .none => 0
  | .a16 => 1
  | .a32 => 2
  | .a63 => 3
  | .a125 => 4

/-! ### Credential rows (11.5) -/

/-- The kind in two bits of byte 0. -/
def credKindOf : Nat → CredKind
  | 0 => .crew
  | 1 => .guest
  | 2 => .staff
  | _ => .service

/-- The fields of a credential row's 22 bytes. -/
def credRowOf (bs : List Byte) : CredRow :=
  { enabled := bitAt bs 0 0
    antiPassback := bitAt bs 0 1
    kind := credKindOf (natAt bs 0 1 / 8 % 4)
    code := BitVec.ofNat 40 (natAt bs 1 5)
    mask := BitVec.ofNat 40 (natAt bs 6 5)
    berth := if natAt bs 11 2 = 0 then none else some (natAt bs 11 2)
    window := if bitAt bs 0 2 then some (natAt bs 13 4, natAt bs 17 4) else none
    pontoons := natAt bs 21 1 % 64 }

/-- The live credential row of a number. -/
def State.credRow (s : State) (r : Nat) : CredRow :=
  credRowOf (tabGet s.creds.rows [] r)

/-! ### Rate rows (11.5, R117): live or staged, as the eight rows' bytes in order -/

def rateRow (rows : List (List Byte)) (i : Nat) : List Byte := rows.getD i []

/-- Start of band `k`, in minutes of the day. -/
def bandStart (rows : List (List Byte)) (k : Nat) : Nat := natAt (rateRow rows 0) (2 * k) 2

/-- Rate of band `k` for a service, in millicents per pulse. -/
def bandRate (rows : List (List Byte)) (svc : Service) (k : Nat) : Nat :=
  match svc with
  | .power => natAt (rateRow rows 1) (2 * k) 2
  | .water => natAt (rateRow rows 2) (2 * k) 2

/-- Plausibility limit at place `i`: the five power classes, then water. -/
def limitAt (rows : List (List Byte)) (i : Nat) : Nat := natAt (rateRow rows 3) i 1

/-- Leak threshold of a service. -/
def leakThreshold (rows : List (List Byte)) (svc : Service) : Nat :=
  match svc with
  | .power => natAt (rateRow rows 4) 0 2
  | .water => natAt (rateRow rows 4) 2 2

/-- Night fee of a length class. -/
def nightFee (rows : List (List Byte)) (c : Nat) : Nat := natAt (rateRow rows 5) (3 * c) 3

/-- Fuel price of a grade. -/
def fuelPrice (rows : List (List Byte)) (g : Nat) : Nat := natAt (rateRow rows 6) (2 * g) 2

def minimumSale (rows : List (List Byte)) : Nat := natAt (rateRow rows 7) 0 3
def perSaleCap (rows : List (List Byte)) : Nat := natAt (rateRow rows 7) 3 3
def autonomousCap (rows : List (List Byte)) : Nat := natAt (rateRow rows 7) 6 3
def startMinimum (rows : List (List Byte)) : Nat := natAt (rateRow rows 7) 9 3

/-- The live rate rows in order. -/
def State.rateRows (s : State) : List (List Byte) := s.rates.rows.toList

/-- Whether the live rate table answers its readers (R120). -/
def State.ratesValid (s : State) : Bool := s.rates.state == .valid

/-! ### Station rows (11.5, R176) -/

/-- An optional berth of a station row: 0 is absent. -/
def berthField (n : Nat) : Option Nat := if n = 0 then none else some n

/-- The fields of a staged station row's 12 bytes as written, defaults not applied; none where the kind byte is above 3. -/
def stagedRow (bs : List Byte) : Option Row :=
  match natAt bs 0 1 with
  | 0 => some .none
  | 1 => some (.post (berthField (natAt bs 1 2)) (berthField (natAt bs 3 2)) (natAt bs 5 2) (natAt bs 7 1) (natAt bs 8 2)
      (natAt bs 10 1) (natAt bs 11 1))
  | 2 => some (.gate (natAt bs 1 1) (natAt bs 2 1) (natAt bs 3 2))
  | 3 => some (.pump (natAt bs 1 1) (natAt bs 2 1) (natAt bs 3 1))
  | _ => none

/-- A field whose staged value 0 stands for a default (R135, R176). -/
def orDefault (d n : Nat) : Nat := if n = 0 then d else n

/-- A staged row's values in force, defaults applied (R176). -/
def Row.inForce : Row → Row
  | .post b0 b1 o s f n w => .post b0 b1 o s (orDefault 4000 f) (orDefault 2 n) (orDefault 16 w)
  | .gate g t h => .gate g (orDefault 5 t) (orDefault 30 h)
  | r => r

/-- The berth a POST row names for a side (R176). -/
def Row.berthOf : Row → Nat → Option Nat
  | .post b0 _ _ _ _ _ _, 0 => b0
  | .post _ b1 _ _ _ _ _, 1 => b1
  | _, _ => Option.none

/-- The berth the live row names for a side of a post (R89). -/
def State.sideBerth (s : State) (a addr side : Nat) : Option Nat :=
  (s.row a addr).berthOf side

/-! ### Places on the arms -/

/-- Every (arm, address), arms and addresses in rising order. -/
def places : List (Nat × Nat) :=
  (List.range 6).flatMap (fun a => addresses.map (fun d => (a, d)))

/-- The side of a row that names a berth. -/
def Row.sideOf (r : Row) (b : Nat) : Option Nat :=
  if r.berthOf 0 = some b then some 0
  else if r.berthOf 1 = some b then some 1
  else Option.none

/-- The bound post side of a berth, from the live station tables (R5). -/
def State.boundSide (s : State) (b : Nat) : Option SideRef :=
  places.findSome? (fun p => ((s.row p.1 p.2).sideOf b).map (fun d => { arm := p.1, addr := p.2, side := d }))

/-- The place whose live row names a gate (R64). -/
def State.gatePlace (s : State) (g : Nat) : Option (Nat × Nat) :=
  places.find? (fun p => match s.row p.1 p.2 with
    | .gate n _ _ => n == g
    | _ => false)

/-- The place whose live row names a pump (R148). -/
def State.pumpPlace (s : State) (g : Nat) : Option (Nat × Nat) :=
  places.find? (fun p => match s.row p.1 p.2 with
    | .pump n _ _ => n == g
    | _ => false)

end Sys2Proof.Machine
end

