-- ==== Sys2Proof/Machine/Flags.lean ====
section
/-! DEFINITION. The states and flags the part computes rather than stores: available amount and standing (R29, R31), a held berth, a
provisioned point (R89), desired states (R91), the window of a row (R54), links of gates (R65), tracking (R81). -/

namespace Sys2Proof.Machine

/-! ### Accounts -/

/-- The sum of the amounts on a hold list. -/
def heldSum (hs : List Hold) : Nat :=
  (hs.map (·.amount)).sum

/-- The available amount (R29). -/
def Account.available (a : Account) : Int :=
  a.balance + a.overdraft - heldSum a.holds

/-- The funds standing after a recomputation (R31), by the funds standing before and the available amount. -/
def fundsAfter (before : Funds) (avail : Int) (low restart : Nat) : Funds :=
  match before with
  | .exhausted =>
    if avail < restart then .exhausted
    else if avail < low then .low
    else .good
  | _ =>
    if avail ≤ 0 then .exhausted
    else if avail < low then .low
    else .good

/-- The standing that equals a funds standing. -/
def Funds.standing : Funds → Standing
  | .good => .good
  | .low => .low
  | .exhausted => .exhausted

/-- An open account: any standing but CLOSED. -/
def Account.isOpen (a : Account) : Bool :=
  a.standing != .closed

/-- GOOD or LOW: the standings that may start supply and take holds (2.2). -/
def Standing.inFunds : Standing → Bool
  | .good => true
  | .low => true
  | _ => false

/-- Whether an account stands in GOOD or LOW. -/
def State.inFunds (s : State) (n : Nat) : Bool :=
  (s.account n).standing.inFunds

/-! ### Berths -/

/-- RESERVED, OVERDUE, OCCUPIED or DEPARTING (R4). -/
def BerthState.isHeld : BerthState → Bool
  | .closed => false
  | .free => false
  | _ => true

/-- RESERVED or OVERDUE: awaiting the vessel (R7). -/
def BerthState.isAwaited : BerthState → Bool
  | .reserved => true
  | .overdue => true
  | _ => false

/-- Whether an optional berth is OCCUPIED. -/
def State.occupied (s : State) (b : Option Nat) : Bool :=
  match b with
  | some n => (s.berth n).state == .occupied
  | none => false

/-- A point is provisioned by its berth (R89). -/
def State.provisioned (s : State) (b : Option Nat) (svc : Service) : Bool :=
  match b, svc with
  | some n, .power => (s.berth n).powerClass != .none
  | some n, .water => (s.berth n).water
  | none, _ => false

/-! ### Service points -/

/-- The desired state of a point: ON in STARTING and LIVE (R91). -/
def PointState.desiredOn : PointState → Bool
  | .starting => true
  | .live => true
  | _ => false

/-- OFF or FAULT: the states without a session (R89). -/
def PointState.atRest : PointState → Bool
  | .off => true
  | .fault => true
  | _ => false

/-- The member of a release enable set that a cause needs (R98). -/
def Enables.allows (e : Enables) : Cause → Bool
  | .credit => e.credit
  | .tap => e.tap
  | .office => e.office

/-- The points of a post in the order of R93. -/
def Post.points (p : Post) : List Point :=
  [p.power0, p.water0, p.power1, p.water1]

/-- A point of a post. -/
def Post.point (p : Post) (side : Nat) (svc : Service) : Point :=
  match side, svc with
  | 0, .power => p.power0
  | 0, .water => p.water0
  | _, .power => p.power1
  | _, .water => p.water1

/-- Replaces a point of a post. -/
def Post.setPoint (p : Post) (side : Nat) (svc : Service) (x : Point) : Post :=
  match side, svc with
  | 0, .power => { p with power0 := x }
  | 0, .water => { p with water0 := x }
  | _, .power => { p with power1 := x }
  | _, .water => { p with water1 := x }

/-- The detector part of a POWER point of a post (R135). -/
def Post.det (p : Post) (side : Nat) : Detector :=
  match side with
  | 0 => p.det0
  | _ => p.det1

/-- Replaces a detector part. -/
def Post.setDet (p : Post) (side : Nat) (d : Detector) : Post :=
  match side with
  | 0 => { p with det0 := d }
  | _ => { p with det1 := d }

/-- The post record at an address. -/
def State.post? (s : State) (a addr : Nat) : Option Post :=
  (s.slot a addr).post

/-- Replaces the post record at an address. -/
def State.setPost (s : State) (a addr : Nat) (p : Post) : State :=
  s.setSlot a addr { s.slot a addr with post := some p }

/-- A service point record. -/
def State.point? (s : State) (r : PointRef) : Option Point :=
  (s.post? r.arm r.addr).map (fun p => p.point r.side r.svc)

/-- The berth of a service point (R89). -/
def State.pointBerth (s : State) (r : PointRef) : Option Nat :=
  s.sideBerth r.arm r.addr r.side

/-! ### Credentials -/

/-- A row covers a card code (R52). -/
def CredRow.covers (r : CredRow) (c : Card) : Bool :=
  r.enabled && decide ((c ^^^ r.code) &&& r.mask = 0#40)

/-- A matched row is within its window at a time (R54). -/
def CredRow.within (r : CredRow) (now : Nat) : Bool :=
  match r.window with
  | none => true
  | some (f, u) => decide (f ≤ now ∧ now < u)

/-- The window verdict of MATCH-TEST (R62). -/
def CredRow.verdict (r : CredRow) (now : Nat) : Verdict :=
  match r.window with
  | none => .none
  | some (f, u) => if now < f then .before else if now < u then .within else .after

/-- The row's flag for a pontoon (R50). -/
def CredRow.admits (r : CredRow) (p : Nat) : Bool :=
  r.pontoons.testBit p

/-! ### Gates -/

/-- The pontoon of a gate: the arm of its station (R64). -/
def Gate.pontoon (g : Gate) : Option Nat :=
  g.station.map (·.1)

/-- A gate is ONLINE while its station is PRESENT (R65). -/
def State.gateOnline (s : State) (g : Nat) : Bool :=
  match (s.gate g).station with
  | some (a, d) => s.isPresent a d
  | none => false

/-- The tracking of a pontoon as its gates' modes give it (R81). -/
def State.trackingJudged (s : State) (p : Nat) : Tracking :=
  if s.gates.toList.any (fun g => g.pontoon == some p && g.mode == .free) then .suspended else .on

/-- Whether the stored tracking of a pontoon is ON. -/
def State.tracks (s : State) (p : Nat) : Bool :=
  (s.pontoon p).tracking == .on

/-! ### Pumps -/

/-- Whether a pump's mark holds AUTH (R152, R167). -/
def Pump.markAuth (p : Pump) : Bool :=
  match p.mark with
  | some { cmd := .auth .., .. } => true
  | _ => false

/-- READY, FUELLING or STOPPING: the states a lost link takes to SUSPECT (R150). -/
def PumpState.isRunning : PumpState → Bool
  | .ready => true
  | .fuelling => true
  | .stopping => true
  | _ => false

/-- The grade of a nozzle of a pump (R148). -/
def Pump.gradeOf (p : Pump) (nozzle : Nat) : Nat :=
  if nozzle = 0 then p.grade0 else p.grade1

end Sys2Proof.Machine
end

