-- ==== Sys2Proof/Machine/BerthOps.lean ====
section
/-! DEFINITION. What the Credential Matcher answers (R52, R53) and what other blocks' events do to a berth record: arrivals (R7, R9, R10),
the release of a berth, and the completion of a departure (R13, R14). -/

namespace Sys2Proof.Machine

/-- The covering row with the lowest number (R52). -/
def State.matchRow (s : State) (c : Card) : Option (Nat × CredRow) :=
  (List.range 512).findSome? (fun r => if (s.credRow r).covers c then some (r, s.credRow r) else none)

/-- A consultation (R53). -/
def State.consult (s : State) (c : Card) : MatchAnswer :=
  if s.creds.state = .valid then
    match s.matchRow c with
    | some (r, row) => .hit r row
    | none => .unknown
  else .table

/-- An arrival (R7): it acts on a berth in RESERVED or OVERDUE and changes nothing else. -/
def State.arrive (s : State) (b : Nat) (src : ArrivalSource) (card : Option Card) : State :=
  let x := s.berth b
  if x.state.isAwaited then
    (s.setBerth b { x with state := .occupied, arrival := some s.clock }).post
      (.arrived b (x.occupant.getD 0) src card x.overdueSent)
  else s

/-- An arrival sent by a gate or a post is applied where auto-arrival is set (R9, R10). -/
def State.autoArrive (s : State) (b : Nat) (src : ArrivalSource) (card : Card) : State :=
  if (s.berth b).autoArrival then s.arrive b src (some card) else s

/-- A berth record returned to FREE: occupant, reservation part, arrival and check-out time removed, both flags cleared (R12, R13,
R22). -/
def Berth.freed (b : Berth) : Berth :=
  { b with state := .free, occupant := none, reservation := none, arrival := none, checkOut := none, overstay := false,
           overdueSent := false }

/-- The end of a departure with its DEPARTED notice (R13, R14). -/
def State.endDeparture (s : State) (b : Nat) (forced : Nat) : State :=
  let x := s.berth b
  (s.setBerth b x.freed).post
    (.departed b (x.occupant.getD 0) (x.arrival.getD 0) (x.checkOut.getD 0) forced x.overstay)

/-- The report that a berth's last point has reached OFF or FAULT: a DEPARTING berth completes its departure (R13). -/
def State.pointsAtRest (s : State) (b : Nat) : State :=
  if (s.berth b).state = .departing then s.endDeparture b 0 else s

end Sys2Proof.Machine
end

