-- ==== Sys2Proof/Machine/PointOps.lean ====
section
/-! DEFINITION. Changing a service point with the effects of R91 and R106, suspension orders (R97) and releases (R98, R99). -/

namespace Sys2Proof.Machine

/-- The sides and services of a post in the order of R93. -/
def postPoints : List (Nat × Service) :=
  [(0, .power), (0, .water), (1, .power), (1, .water)]

/-- The post's command mark is set with the desired states as they stand (R106): class SAFETY where the setting is made by a trip or
the mark already has it, CONTROL otherwise. -/
def Post.setMark (p : Post) (safety : Bool) : Post :=
  let already := match p.mark with
    | some m => m.safety
    | none => false
  let m : PostMark :=
    { power0 := p.power0.state.desiredOn, water0 := p.water0.state.desiredOn, power1 := p.power1.state.desiredOn,
      water1 := p.water1.state.desiredOn, safety := safety || already, setAgain := true }
  { p with mark := some m }

/-- A point takes a new record; a change of its desired state sets its unconfirmed count to 0 and the post's mark (R91). -/
def Post.change (p : Post) (side : Nat) (svc : Service) (x : Point) : Post :=
  if (p.point side svc).state.desiredOn = x.state.desiredOn then p.setPoint side svc x
  else (p.setPoint side svc { x with unconfirmed := 0 }).setMark false

/-- Applies a change to the four points of a post in turn. -/
def Post.eachPoint (p : Post) (f : Post → Nat → Service → Post) : Post :=
  postPoints.foldl (fun q k => f q k.1 k.2) p

/-- Applies a change to the post of every POST station, given its live row. -/
def State.mapPosts (s : State) (f : Row → Post → Post) : State :=
  { s with arms := s.arms.map (fun A =>
      { A with slots := A.slots.map (fun x => { x with post := x.post.map (f x.row) }) }) }

/-- A session with a suspension reason stored. -/
def Session.suspend (ses : Session) (r : SuspReason) : Session :=
  { ses with suspension := some r }

/-- A suspension order on one point (R97): LIVE or STARTING with a session naming the account. -/
def Post.suspendPoint (account : Nat) (r : SuspReason) (p : Post) (side : Nat) (svc : Service) : Post :=
  let x := p.point side svc
  match x.session with
  | some ses =>
    if x.state.desiredOn && ses.account == account then
      p.change side svc { x with state := .suspended, session := some (ses.suspend r) }
    else p
  | none => p

/-- The Account Unit's suspension order (R97). -/
def State.suspendAccount (s : State) (account : Nat) (r : SuspReason) : State :=
  s.mapPosts (fun _ p => p.eachPoint (Post.suspendPoint account r))

/-- The first condition of R98 that a release fails, none where it succeeds. `occupied` and `inFunds` are the berth's and the
session's account's part. -/
def Point.releaseFailure (x : Point) (cause : Cause) (occupied inFunds : Bool) (now delay : Nat) : Option ReleaseFailure :=
  match x.session with
  | none => some .state
  | some ses =>
    if ¬ (x.state = .suspended ∨ x.state = .tripped) then some .state
    else if x.enables.allows cause = false then some .enable
    else if occupied = false then some .berth
    else if inFunds = false then some .account
    else if ses.suspension = some .office ∧ cause ≠ .office then some .suspension
    else if x.state = .tripped ∧ cause ≠ .office ∧ ¬ (cause = .tap ∧ ses.tripTime.getD 0 + delay ≤ now) then some .trip
    else none

/-- The session of a point that is released (R98). -/
def Session.release (ses : Session) (cause : Cause) : Session :=
  { ses with suspension := none, tripCause := none, tripTime := none, lastRelease := some cause }

/-- A cleared detector part (R147). -/
def Detector.cleared : Detector :=
  { run := 0, sum := 0, count := 0, latch := false, last := none }

/-- A detector part with its window and run count cleared, the latch and the last current kept (R143, R145). -/
def Detector.restarted (d : Detector) : Detector :=
  { d with run := 0, sum := 0, count := 0 }

/-- A successful release takes the point to STARTING (R98). A POWER point released from TRIPPED starts with an empty window and a run
count of 0 (R145), whatever the samples taken since its trip have left (DEDUCED, log entry 38). -/
def Post.releasePoint (p : Post) (side : Nat) (svc : Service) (cause : Cause) : Post :=
  let x := p.point side svc
  match x.session with
  | some ses =>
    let q := if x.state = .tripped ∧ svc = .power then p.setDet side (p.det side).restarted else p
    q.change side svc { x with state := .starting, session := some (ses.release cause) }
  | none => p

/-- The credit-release event on one point (R99). -/
def Post.creditReleasePoint (account : Nat) (occupied : Nat → Bool) (inFunds : Bool) (now delay : Nat) (p : Post) (side : Nat)
    (svc : Service) : Post :=
  let x := p.point side svc
  match x.session with
  | some ses =>
    if x.state = .suspended ∧ ses.account = account ∧ (ses.suspension = some .credit ∨ ses.suspension = some .barred)
        ∧ x.releaseFailure .credit (occupied side) inFunds now delay = none then
      p.releasePoint side svc .credit
    else p
  | none => p

/-- The Account Unit's credit-release event (R99). -/
def State.creditRelease (s : State) (account : Nat) : State :=
  s.mapPosts (fun row p => p.eachPoint
    (Post.creditReleasePoint account (fun side => s.occupied (row.berthOf side)) (s.inFunds account) s.clock s.tripDelay))

/-- Whether every point of a side of a post stands in OFF or FAULT (R91). -/
def State.sideAtRest (s : State) (a addr side : Nat) : Bool :=
  match s.post? a addr with
  | some p => (p.point side .power).state.atRest && (p.point side .water).state.atRest
  | none => true

/-- The report of R91 to the Berth Register after a point has entered OFF or FAULT. -/
def State.reportAtRest (s : State) (r : PointRef) : State :=
  match s.pointBerth r with
  | some b => if s.sideAtRest r.arm r.addr r.side then s.pointsAtRest b else s
  | none => s

/-- A point takes a new record with the effects of R91, without the report (R105). -/
def State.changeQuiet (s : State) (r : PointRef) (x : Point) : State :=
  match s.post? r.arm r.addr with
  | some p => s.setPost r.arm r.addr (p.change r.side r.svc x)
  | none => s

/-- A point takes a new record with the effects of R91. -/
def State.changePoint (s : State) (r : PointRef) (x : Point) : State :=
  match s.point? r with
  | some old =>
    if x.state.atRest && old.state != x.state then (s.changeQuiet r x).reportAtRest r else s.changeQuiet r x
  | none => s

/-- A point's fields other than its state are stored. -/
def State.storePoint (s : State) (r : PointRef) (x : Point) : State :=
  match s.post? r.arm r.addr with
  | some p => s.setPost r.arm r.addr (p.setPoint r.side r.svc x)
  | none => s

/-- A post's mark is set by a rule of its own (R96, R144). -/
def State.markPost (s : State) (a addr : Nat) (safety : Bool) : State :=
  match s.post? a addr with
  | some p => s.setPost a addr (p.setMark safety)
  | none => s

/-- A release of a point with a cause (R98), and whether it succeeded. -/
def State.releaseFailure (s : State) (r : PointRef) (cause : Cause) : Option ReleaseFailure :=
  match s.point? r with
  | some x =>
    x.releaseFailure cause (s.occupied (s.pointBerth r))
      (match x.session with
        | some ses => s.inFunds ses.account
        | none => false)
      s.clock s.tripDelay
  | none => some .state

/-- Takes a point that R98 releases to STARTING. -/
def State.releasePoint (s : State) (r : PointRef) (cause : Cause) : State :=
  match s.post? r.arm r.addr with
  | some p => s.setPost r.arm r.addr (p.releasePoint r.side r.svc cause)
  | none => s

end Sys2Proof.Machine
end

