-- ==== Sys2Proof/Machine/AccountOps.lean ====
section
/-! DEFINITION. What the Account Unit does to one account: recomputation and standing changes (R31, R32), debits (R33, R35), holds,
settlements and releases (R37 to R39). -/

namespace Sys2Proof.Machine

/-- The action of R32 on a change of standing. The account record already stands as changed. -/
def State.onStanding (s : State) (n : Nat) (old new : Standing) : State :=
  let a := s.account n
  if old = new then s
  else
    match new with
    | .closed => s
    | .good =>
      if old = .low then s
      else (s.creditRelease n).post (.restored n .good a.available)
    | .low =>
      if old = .good then s.post (.low n a.available a.lowThreshold)
      else (s.creditRelease n).post (.restored n .low a.available)
    | .exhausted => (s.suspendAccount n .credit).post (.exhausted n a.available a.balance a.holds.length)
    | .barred => (s.suspendAccount n .barred).post (.barred n a.balance)

/-- The account with its funds standing recomputed (R31); a barred account stays BARRED. -/
def Account.recomputed (a : Account) : Account :=
  match a.funds with
  | none => a
  | some f =>
    let f' := fundsAfter f a.available a.lowThreshold a.restartMin
    { a with funds := some f', standing := if a.standing = .barred then .barred else f'.standing }

/-- The recomputation after a request's own change, with the action on a standing change (R31, R32). -/
def State.recompute (s : State) (n : Nat) : State :=
  let a := s.account n
  (s.setAccount n a.recomputed).onStanding n a.standing a.recomputed.standing

/-- The lowest balance (R29). -/
def balanceFloor : Int := -9999999

/-- The account after a forced debit, before the recomputation (R33). -/
def Account.charged (a : Account) (d : Nat) : Account :=
  if balanceFloor ≤ a.balance - d then { a with balance := a.balance - d }
  else
    { a with
      balance := balanceFloor
      uncollected := satAdd 999999999 a.uncollected (d - (a.balance - balanceFloor)).toNat }

/-- DEBIT (R33); one that reaches a CLOSED account is dropped with a notice (R35). -/
def State.debit (s : State) (n d : Nat) (src : DebitSource) : State :=
  let a := s.account n
  if a.isOpen then (s.setAccount n (a.charged d)).recompute n
  else s.post (.accountMismatch n .debit (some d) none (some src))

/-- The lowest hold id 0..3 that no entry of the list holds (R37). -/
def freeHoldId (hs : List Hold) : Nat :=
  ((List.range 4).find? (fun i => hs.all (fun h => h.id != i))).getD 0

/-- The first check of R37 that a HOLD fails. -/
def Account.holdRefusal (a : Account) (wanted minimum : Nat) : Option HoldRefusal :=
  match a.standing with
  | .closed => some .closed
  | .barred => some .barred
  | .exhausted => some .exhausted
  | _ =>
    if 4 ≤ a.holds.length then some .holdsFull
    else if min (wanted : Int) a.available < minimum then some .insufficient
    else none

/-- HOLD (R37): a refusal reason with nothing changed, or the hold id and the amount set aside. -/
def State.hold (s : State) (n pump wanted minimum : Nat) : State × Except HoldRefusal (Nat × Nat) :=
  let a := s.account n
  match a.holdRefusal wanted minimum with
  | some r => (s, .error r)
  | none =>
    let amount := (min (wanted : Int) a.available).toNat
    let id := freeHoldId a.holds
    ((s.setAccount n { a with holds := a.holds ++ [{ id := id, pump := pump, amount := amount }] }).recompute n,
      .ok (id, amount))

/-- The account without a hold entry; the others keep their order (R38, R39). -/
def Account.withoutHold (a : Account) (id : Nat) : Account :=
  { a with holds := a.holds.filter (fun h => h.id != id) }

/-- Whether a hold id is on the list. -/
def Account.hasHold (a : Account) (id : Nat) : Bool :=
  a.holds.any (fun h => h.id == id)

/-- SETTLE (R38): the hold is removed, the actual is debited, and the standing is recomputed once. That ACCOUNT-MISMATCH is posted after
the notice of a change of standing (R32) is a DESIGN CHOICE (log entry 31). -/
def State.settle (s : State) (n id actual : Nat) : State :=
  let a := s.account n
  if a.isOpen then
    ((s.setAccount n ((a.withoutHold id).charged actual)).recompute n).postIf (!a.hasHold id)
      (.accountMismatch n .settle (some actual) (some id) none)
  else s.post (.accountMismatch n .settle (some actual) (some id) none)

/-- RELEASE (R39). -/
def State.release (s : State) (n id : Nat) : State :=
  let a := s.account n
  if a.isOpen && a.hasHold id then (s.setAccount n (a.withoutHold id)).recompute n
  else s.post (.accountMismatch n .release none (some id) none)

end Sys2Proof.Machine
end

