-- ==== Sys2Proof/Machine/SessionOps.lean ====
section
/-! DEFINITION. The close of a session (R92, R128), the five metering stages (R94, R122 to R128), fuel arithmetic and display digits
(R129 to R131), the current detectors and trips (R135 to R147). -/

namespace Sys2Proof.Machine

/-! ### Close of a session -/

/-- The detector part of a POWER point is cleared (R147). WATER points have none. -/
def State.clearDetector (s : State) (r : PointRef) : State :=
  match r.svc, s.post? r.arm r.addr with
  | .power, some p => s.setPost r.arm r.addr (p.setDet r.side Detector.cleared)
  | _, _ => s

/-- The session after the final rounding: one more cent when the residue is 500 or more, the residue 0 (R128). -/
def Session.rounded (ses : Session) : Session :=
  if 500 ≤ ses.residue then { ses with cents := ses.cents + 1, residue := 0 } else { ses with residue := 0 }

/-- The final rounding of a point's session, with its DEBIT of 1 cent (R92, R128). -/
def State.roundSession (s : State) (r : PointRef) (x : Point) (ses : Session) : State :=
  let s1 := s.storePoint r { x with session := some ses.rounded }
  if 500 ≤ ses.residue then s1.debit ses.account 1 .meter else s1

/-- The session is removed and the point enters the named state, after the notice (R92). `report` is false for the force-close of a
departure (R91, R105). -/
def State.endSession (s : State) (r : PointRef) (reason : CloseReason) (next : PointState) (report : Bool) : State :=
  match s.point? r with
  | some y =>
    match y.session with
    | some t =>
      let s1 := s.post (.sessionClosed r (s.pointBerth r) { t with closeReason := some reason } s.clock reason)
      let y' := { y with state := next, session := none }
      (if report then s1.changePoint r y' else s1.changeQuiet r y').clearDetector r
    | none => s
  | none => s

/-- A session is closed with a close reason and a next state (R92). -/
def State.closeSession (s : State) (r : PointRef) (reason : CloseReason) (next : PointState) (report : Bool) : State :=
  match s.point? r with
  | some x =>
    match x.session with
    | some ses => (s.roundSession r x ses).endSession r reason next report
    | none => s
  | none => s

/-! ### Metering -/

/-- Stage 1: the pulses since the baseline (R122). -/
def meterDelta (reading base : Nat) : Nat :=
  (reading + 65536 - base) % 65536

/-- The elapsed time of stage 2, clamped to 1..3600 (R123). -/
def meterElapsed (now t : Nat) : Nat :=
  max 1 (min 3600 (now - t))

/-- The plausibility limit of a point in pulses per second (R120). -/
def State.pulseLimit (s : State) (r : PointRef) : Nat :=
  if s.ratesValid then
    match r.svc with
    | .water => limitAt s.rateRows 5
    | .power =>
      match s.pointBerth r with
      | some b => limitAt s.rateRows (s.berth b).powerClass.place
      | none => limitAt s.rateRows 0
  else 255

/-- Stage 3: the largest band whose start is at or below the time of day (R125). -/
def bandAt (rows : List (List Byte)) (now : Nat) : Nat :=
  (List.range 4).foldl (fun k i => if bandStart rows i * 60 ≤ now % 86400 then i else k) 0

/-- The largest cents debited of a session (R127). -/
def centsMax : Nat := 281474976710655

/-- Stage 4 at a rate: the session after an accepted delta (R126). -/
def Session.accrued (ses : Session) (d rate : Nat) : Session :=
  let t := ses.residue + d * rate
  { ses with cents := ses.cents + t / 1000, residue := t % 1000, billed := satAdd 4294967295 ses.billed d }

/-- A meter fault (R124). -/
def State.meterFault (s : State) (r : PointRef) (b : Baseline) (reading delta elapsed limit : Nat) : State :=
  match s.point? r with
  | some x =>
    let s1 := match x.session with
      | some _ => s.closeSession r .fault .fault true
      | none => s.changePoint r { x with state := .fault }
    let s2 := match s1.point? r with
      | some y => s1.storePoint r { y with baseline := none }
      | none => s1
    s2.post (.meterFault r (s.pointBerth r) b reading delta elapsed limit)
  | none => s

/-- An accepted delta on a point with a session (R126); an accrual past the bound of R127 is a meter fault instead. -/
def State.accrue (s : State) (r : PointRef) (x : Point) (ses : Session) (b : Baseline) (reading d : Nat) : State :=
  let moved : Baseline := { reading := reading, time := s.clock }
  if s.ratesValid then
    let rate := bandRate s.rateRows r.svc (bandAt s.rateRows s.clock)
    let ses' := ses.accrued d rate
    if centsMax < ses'.cents then
      s.meterFault r b reading d (meterElapsed s.clock b.time) (s.pulseLimit r * meterElapsed s.clock b.time)
    else
      let s1 := s.storePoint r { x with baseline := some moved, session := some ses' }
      if ses'.cents = ses.cents then s1 else s1.debit ses.account (ses'.cents - ses.cents) .meter
  else
    s.storePoint r { x with baseline := some moved, session := some { ses with unbilled := satAdd 4294967295 ses.unbilled d } }

/-- An accepted delta on a point without a session: unattributed pulses and the leak check (R94). -/
def State.addUnattributed (s : State) (r : PointRef) (x : Point) (reading d : Nat) : State :=
  let moved : Baseline := { reading := reading, time := s.clock }
  let u := satAdd 65535 x.unattributed d
  if d = 0 then s.storePoint r { x with baseline := some moved }
  else if s.ratesValid ∧ leakThreshold s.rateRows r.svc < u then
    (s.storePoint r { x with baseline := some moved, unattributed := 0 }).post (.leak r (s.pointBerth r) u)
  else s.storePoint r { x with baseline := some moved, unattributed := u }

/-- A counter reading of a point (R94, R122, R123). -/
def State.takeReading (s : State) (r : PointRef) (reading : Nat) : State :=
  match s.point? r with
  | none => s
  | some x =>
    match x.baseline with
    | none => s.storePoint r { x with baseline := some { reading := reading, time := s.clock } }
    | some b =>
      let d := meterDelta reading b.reading
      let e := meterElapsed s.clock b.time
      let limit := s.pulseLimit r * e
      if limit < d then s.meterFault r b reading d e limit
      else
        match x.session with
        | some ses => s.accrue r x ses b reading d
        | none => s.addUnattributed r x reading d

/-! ### Fuel arithmetic and display digits -/

/-- The fuel amount of a volume at a price, in cents (R129). -/
def fuelAmount (v p : Nat) : Nat :=
  (v * p + 500) / 1000

/-- The stop volume of a limit at a price, in centilitres (R130). -/
def stopVolume (h p : Nat) : Nat :=
  min 999999 ((1000 * h + 499) / p)

/-- The six display digits of a value, most significant first; above 999,999 all nines (R131). -/
def displayDigits (v : Nat) : List Nat :=
  let w := min v 999999
  [w / 100000 % 10, w / 10000 % 10, w / 1000 % 10, w / 100 % 10, w / 10 % 10, w % 10]

/-- Six digits as three packed-decimal bytes, the more significant digit in the upper four bits (R131). -/
def packDigits : List Nat → List Byte
  | a :: b :: rest => BitVec.ofNat 8 (16 * a + b) :: packDigits rest
  | _ => []

/-! ### Current detectors -/

/-- A raw sample converted to deciamperes (R137). -/
def convertSample (c offset shift : Nat) : Nat :=
  let d := c - offset
  let h := if shift = 0 then 0 else 2 ^ (shift - 1)
  min 2047 ((d + h) / 2 ^ shift)

/-- The rating of a POWER point: that of its berth's power class, 0 without a berth (R135). -/
def State.rating (s : State) (b : Option Nat) : Nat :=
  match b with
  | some n => (s.berth n).powerClass.rating
  | none => 0

/-- The warn level of a rating (R140). -/
def warnLevel (rating : Nat) : Nat :=
  rating * 9 / 10

/-- The figures of the detector that fired (R143): run count and short count, or mean and rating, with the sample. -/
structure TripFigures where
  cause : TripCause
  raw : Nat
  current : Nat
  run : Option (Nat × Nat)
  mean : Option (Nat × Nat)

/-- Replaces the detector part of a POWER point. -/
def State.setDetector (s : State) (a addr side : Nat) (d : Detector) : State :=
  match s.post? a addr with
  | some p => s.setPost a addr (p.setDet side d)
  | none => s

/-- The detector part of a POWER point. -/
def State.detector (s : State) (a addr side : Nat) : Detector :=
  match s.post? a addr with
  | some p => p.det side
  | none => Detector.cleared

/-- The Service Point Controller takes a trip request that acts (R143, R144): the point's new record, the SAFETY mark, the notice. -/
def State.tripTo (s : State) (r : PointRef) (x : Point) (ses : Session) (next : PointState) (f : TripFigures) : State :=
  let x' := { x with state := next, session := some { ses with tripCause := some f.cause, tripTime := some s.clock } }
  ((s.changePoint r x').markPost r.arm r.addr true).post
    (.trip r.arm r.addr r.side (s.pointBerth r) ses.account f.cause x.state f.raw f.current f.run f.mean s.clock)

/-- A trip request (R143); the run count and the window are cleared whether or not it acts. -/
def State.trip (s : State) (r : PointRef) (f : TripFigures) : State :=
  let s1 := match s.point? r with
    | some x =>
      match x.session with
      | some ses =>
        match x.state with
        | .live => s.tripTo r x ses .tripped f
        | .starting => s.tripTo r x ses .tripped f
        | .suspended => s.tripTo r x ses .tripped f
        | .closing => if ses.tripCause = none then s.tripTo r x ses .closing f else s
        | _ => s
      | none => s
    | none => s
  s1.setDetector r.arm r.addr r.side (s1.detector r.arm r.addr r.side).restarted

/-- The short detector (R139): the run count after a raw sample, and a trip when it reaches N. -/
def State.shortDetector (s : State) (r : PointRef) (raw current fullScale n : Nat) : State :=
  let d := s.detector r.arm r.addr r.side
  let run := if fullScale ≤ raw then d.run + 1 else 0
  if n ≤ run then
    s.trip r { cause := .short, raw := raw, current := current, run := some (run, n), mean := none }
  else s.setDetector r.arm r.addr r.side { d with run := run }

/-- A full window is judged (R140, R141). -/
def State.judgeWindow (s : State) (r : PointRef) (raw current mean : Nat) : State :=
  let rating := s.rating (s.pointBerth r)
  let d := s.detector r.arm r.addr r.side
  if rating < mean then
    s.trip r { cause := .overload, raw := raw, current := current, run := none, mean := some (mean, rating) }
  else if warnLevel rating < mean then
    if d.latch then s
    else
      let account := match s.point? r with
        | some x => (x.session.map (·.account)).getD 0
        | none => 0
      (s.setDetector r.arm r.addr r.side { d with latch := true }).post
        (.overloadWarn r.arm r.addr r.side (s.pointBerth r) account mean (warnLevel rating) rating)
  else s.setDetector r.arm r.addr r.side { d with latch := false }

/-- The overload detector (R140): the sample joins the window, and a full window is judged and cleared. -/
def State.overloadDetector (s : State) (r : PointRef) (raw current w : Nat) : State :=
  let d := s.detector r.arm r.addr r.side
  let sum := d.sum + current
  let count := d.count + 1
  if w ≤ count then
    let s1 := s.judgeWindow r raw current (sum / w)
    let d1 := s1.detector r.arm r.addr r.side
    s1.setDetector r.arm r.addr r.side { d1 with sum := 0, count := 0 }
  else s.setDetector r.arm r.addr r.side { d with sum := sum, count := count }

/-- The session's peak current and the point's last current after a sample (R137, R142). -/
def State.recordCurrent (s : State) (r : PointRef) (x : Point) (ses : Session) (current : Nat) : State :=
  let s1 := s.storePoint r { x with session := some { ses with peak := max ses.peak current } }
  s1.setDetector r.arm r.addr r.side { s1.detector r.arm r.addr r.side with last := some current }

/-- A raw current sample of a POWER point (R138). -/
def State.takeSample (s : State) (a addr side raw : Nat) : State :=
  let r : PointRef := { arm := a, addr := addr, side := side, svc := .power }
  match s.row a addr, s.point? r with
  | .post _ _ offset shift fullScale n w, some x =>
    match x.session with
    | some ses =>
      let current := convertSample raw offset shift
      ((s.recordCurrent r x ses current).shortDetector r raw current fullScale n).overloadDetector r raw current w
    | none =>
      s.setDetector a addr side { (s.detector a addr side).restarted with last := none }
  | _, _ => s

end Sys2Proof.Machine
end

