-- ==== Sys2Proof/Machine/ArmFrames.lean ====
section
/-! DEFINITION. Arm frames (R173): the bytes of a request, and the conditions under which a reply's bytes make a good exchange (R174,
R175). -/

namespace Sys2Proof.Machine

/-- The kind byte of a request (R173). -/
def ArmRequest.code : ArmRequest → Nat
  | .poll => 0x01
  | .pollPump .. => 0x01
  | .postSet .. => 0x02
  | .gateStrike _ => 0x03
  | .pumpAuth .. => 0x04
  | .pumpStop => 0x05
  | .relayWrite .. => 0x06
  | .relayRead .. => 0x07
  | .probe => 0x08

/-- The payload of a request (R173). -/
def ArmRequest.payload : ArmRequest → List Byte
  | .poll => []
  | .pollPump amount volume => packDigits (displayDigits amount) ++ packDigits (displayDigits volume)
  | .postSet p0 w0 p1 w1 => natBytes 1 (setBits [p0, w0, p1, w1])
  | .gateStrike v => natBytes 1 v
  | .pumpAuth nozzle preset => natBytes 1 nozzle ++ natBytes 3 preset
  | .pumpStop => []
  | .relayWrite sub data => natBytes 2 sub ++ data
  | .relayRead sub count => natBytes 2 sub ++ natBytes 1 count
  | .probe => []

/-- An arm frame: address, kind, length, payload and the check over them (R173). -/
def armFrame (addr kind : Nat) (payload : List Byte) : List Byte :=
  let body := natBytes 1 addr ++ natBytes 1 kind ++ natBytes 1 payload.length ++ payload
  body ++ natBytes 2 (crc body).toNat

/-- The bytes of a request frame to an address (R173). -/
def ArmRequest.frame (r : ArmRequest) (addr : Nat) : List Byte :=
  armFrame addr r.code r.payload

/-- A card code in five bytes. -/
def cardAt (bs : List Byte) (i : Nat) : Card :=
  BitVec.ofNat 40 (natAt bs i 5)

/-- Whether a payload has one of its kind's two lengths, agreeing with its card read present bit (R175). -/
def lengthSuits (bs : List Byte) (plain : Nat) (card : Bool) : Bool :=
  bs.length == if card then plain + 5 else plain

/-- A POST status payload (9.2) that passes the checks of R175. -/
def postStatusOf (bs : List Byte) : Option PostStatus :=
  let card := bitAt bs 13 4
  let side (i : Nat) : SideStatus :=
    { power := natAt bs (1 + 6 * i) 2, water := natAt bs (3 + 6 * i) 2, sample := natAt bs (5 + 6 * i) 2,
      contactorOn := bitAt bs 13 (2 * i), valveOn := bitAt bs 13 (2 * i + 1) }
  if natAt bs 0 1 = 1 ∧ lengthSuits bs 14 card = true ∧ natAt bs 13 1 < 64 ∧ natAt bs 5 2 ≤ 4095 ∧ natAt bs 11 2 ≤ 4095 then
    some { side0 := side 0, side1 := side 1,
           read := if card then some (cardAt bs 14, if bitAt bs 13 5 then 1 else 0) else none }
  else none

/-- A GATE status payload (9.2) that passes the checks of R175. -/
def gateStatusOf (bs : List Byte) : Option GateStatus :=
  let card := bitAt bs 1 2
  if natAt bs 0 1 = 2 ∧ lengthSuits bs 2 card = true ∧ natAt bs 1 1 < 16 then
    some { doorOpen := bitAt bs 1 0, button := bitAt bs 1 1, read := if card then some (cardAt bs 2, bitAt bs 1 3) else none }
  else none

/-- The phase in two bits (9.2). -/
def phaseOf : Nat → Phase
  | 0 => .waiting
  | 1 => .armed
  | 2 => .delivering
  | _ => .stopped

/-- The stop cause of a byte (9.2). -/
def stopCauseOf : Nat → Option StopCause
  | 0 => some .none
  | 1 => some .preset
  | 2 => some .hung
  | 3 => some .command
  | 4 => some .noFlow
  | 5 => some .pumpFault
  | _ => none

/-- A PUMP status payload (9.2) that passes the checks of R175. -/
def pumpStatusOf (bs : List Byte) : Option PumpStatus :=
  let card := bitAt bs 1 4
  let ph := phaseOf (natAt bs 1 1 / 4 % 4)
  match stopCauseOf (natAt bs 2 1) with
  | some cause =>
    if natAt bs 0 1 = 3 ∧ lengthSuits bs 6 card = true ∧ natAt bs 1 1 < 64 ∧ (ph = .stopped ↔ cause ≠ .none) ∧ natAt bs 3 3 ≤ 999999 then
      some { lifted0 := bitAt bs 1 0, lifted1 := bitAt bs 1 1, phase := ph, cause := cause, volume := natAt bs 3 3,
             read := if card then some (cardAt bs 6, if bitAt bs 1 5 then 1 else 0) else none }
    else none
  | none => none

/-- A STATUS payload judged against the kind the live table gives the address (R175). -/
def statusOf (kind : RowKind) (bs : List Byte) : Option ReplyContent :=
  match kind with
  | .post => (postStatusOf bs).map .post
  | .gate => (gateStatusOf bs).map .gate
  | .pump => (pumpStatusOf bs).map .pump
  | .none => none

/-- The content of a reply that answers a request, by kind byte and payload (R174: kind, length, content). -/
def contentOf (kind : RowKind) (req : ArmRequest) (replyKind : Nat) (payload : List Byte) : Option ReplyContent :=
  match req with
  | .poll => if replyKind = 0x81 then statusOf kind payload else none
  | .pollPump .. => if replyKind = 0x81 then statusOf kind payload else none
  | .relayRead _ count => if replyKind = 0x83 ∧ payload.length = count then some (.data payload) else none
  | _ => if replyKind = 0x82 ∧ payload.length = 0 then some .ack else none

/-- A reply frame received within the window judged for a good exchange (R174): its check, address, kind, length and content; none where
the exchange is bad. -/
def judgeReply (kind : RowKind) (addr : Nat) (req : ArmRequest) (bs : List Byte) : Option ReplyContent :=
  let len := natAt bs 2 1
  let payload := slice bs 3 len
  if bs.length = len + 5 ∧ len ≤ 24 ∧ natAt bs (len + 3) 2 = (crc (bs.take (len + 3))).toNat ∧ natAt bs 0 1 = addr then
    contentOf kind req (natAt bs 1 1) payload
  else none

end Sys2Proof.Machine
end

