-- ==== Sys2Proof/Machine/FuelOps.lean ====
section
/-! DEFINITION. The Fuel Dock Controller: marks (R153), authorization (R154 to R156), progress and end of a sale (R157 to R162), link loss
(R164 to R166), the closed volume (R167), the display (R168). -/

namespace Sys2Proof.Machine

/-- A new AUTH or STOP replaces whatever the mark holds (R153). -/
def Pump.want (p : Pump) (c : PumpCmd) : Pump :=
  { p with mark := some { cmd := c, setAgain := true } }

/-- Whether a pump's station is PRESENT. -/
def State.pumpPresent (s : State) (p : Nat) : Bool :=
  match (s.pump p).station with
  | some (a, d) => s.isPresent a d
  | none => false

/-- IDLE where the pump's station is PRESENT, OFFLINE otherwise (R150). -/
def State.restState (s : State) (p : Nat) : PumpState :=
  if s.pumpPresent p then .idle else .offline

/-- A pump at rest: no active sale, not suspect. -/
def Pump.atRest (x : Pump) (st : PumpState) : Pump :=
  { x with state := st, sale := none, suspendedFrom := none, suspectSince := none }

/-- The closed volume at a completion or a discard: the sale's volume, unless the mark holds AUTH (R167). -/
def Pump.closeVolume (x : Pump) (v : Nat) : Pump :=
  if x.markAuth then x else { x with closedVolume := some v }

/-! ### Opening a sale -/

/-- A sale record as an authorization opens it (R155, R156). -/
def Sale.opened (account : Option Nat) (card : Option Card) (nozzle grade price limit : Nat) (holdId : Option Nat) (now : Nat) :
    Sale :=
  { source := if account.isSome then .account else .attendant
    account := account, card := card, nozzle := nozzle, grade := grade, price := price, limit := limit, holdId := holdId
    preset := stopVolume limit price, volume := 0, amount := 0, abortTaken := false, start := now, endTime := none
    endReason := none }

/-- The sale becomes the pump's active sale: READY, mark AUTH, PUMP-AUTHORIZED (R155). -/
def State.openSale (s : State) (p : Nat) (sale : Sale) : State :=
  let x := s.pump p
  (s.setPump p ({ x with state := .ready, sale := some sale }.want (.auth sale.nozzle sale.grade sale.preset))).post
    (.pumpAuthorized p sale)

/-- The price captured for a nozzle's grade (R155). -/
def State.nozzlePrice (s : State) (p nozzle : Nat) : Nat :=
  fuelPrice s.rateRows ((s.pump p).gradeOf nozzle)

/-- The wanted amount of a card authorization: the per-sale cap, capped in AUTONOMOUS at the autonomous cap (R154). -/
def State.wantedHold (s : State) : Nat :=
  if s.trunk.link = .autonomous then min (perSaleCap s.rateRows) (autonomousCap s.rateRows) else perSaleCap s.rateRows

/-- Checks 1 to 7 of R154. -/
def State.pumpRefusal (s : State) (p : Nat) (ans : MatchAnswer) : Option PumpRefusal :=
  match (s.pump p).state with
  | .idle =>
    match ans with
    | .table => some .table
    | .unknown => some .unknown
    | .hit _ row =>
      if row.within s.clock = false then some .time
      else if row.kind ≠ .crew then some .kind
      else if s.occupied row.berth = false then some .berth
      else if s.ratesValid = false then some .rates
      else none
  | .blocked => some .blocked
  | _ => some .busy

/-- The occupant account of the berth of an answer's row (R154). -/
def State.crewAccount (s : State) (ans : MatchAnswer) : Nat :=
  match ans with
  | .hit _ { berth := some b, .. } => (s.berth b).occupant.getD 0
  | _ => 0

/-- A card read at a pump (R154, R155). -/
def State.cardAtPump (s : State) (p nozzle : Nat) (card : Card) : State :=
  let ans := s.consult card
  match s.pumpRefusal p ans with
  | some r => s.post (.pumpDenied p nozzle card r)
  | none =>
    let account := s.crewAccount ans
    match s.hold account p s.wantedHold (minimumSale s.rateRows) with
    | (t, .error r) => t.post (.pumpDenied p nozzle card (.hold r))
    | (t, .ok (id, amount)) =>
      t.openSale p (Sale.opened (some account) (some card) nozzle ((s.pump p).gradeOf nozzle) (s.nozzlePrice p nozzle) amount
        (some id) s.clock)

/-! ### Placing and completing a sale -/

/-- A full pump's oldest completed sale is dropped for a new one, with SALE-LOST (R162). -/
def State.overwriteSlot (s : State) (p : Nat) (sale : Sale) : State :=
  let x := s.pump p
  let y := { (x.atRest (s.restState p)) with slots := x.slots.tail ++ [sale], lost := satAdd 65535 x.lost 1 }
  match x.slots with
  | old :: _ => (s.setPump p y).post (.saleLost p old)
  | [] => s.setPump p y

/-- A completed sale is placed (R162). -/
def State.placeSale (s : State) (p : Nat) (sale : Sale) : State :=
  let x := s.pump p
  if x.slots.length < 2 then
    s.setPump p { (x.atRest (s.restState p)) with slots := x.slots ++ [sale] }
  else if x.protect then
    s.setPump p { (x.atRest .blocked) with sale := some sale }
  else s.overwriteSlot p sale

/-- A completed sale's record (R161, first step). -/
def Sale.ended (sale : Sale) (now : Nat) (reason : EndReason) : Sale :=
  { sale with endTime := some now, endReason := some reason, amount := fuelAmount sale.volume sale.price }

/-- The settlement of an ACCOUNT sale (R161, second step). -/
def State.settleSale (s : State) (sale : Sale) : State :=
  match sale.source, sale.account with
  | .account, some n => s.settle n (sale.holdId.getD 0) sale.amount
  | _, _ => s

/-- A STOP is cleared when the completion comes from a reply (R161, third step). -/
def Pump.clearStop (x : Pump) : Pump :=
  match x.mark with
  | some { cmd := .stop, .. } => { x with mark := none }
  | _ => x

/-- The completion of a pump's active sale (R161, R162). -/
def State.completeSale (s : State) (p : Nat) (reason : EndReason) (fromReply : Bool) : State :=
  match (s.pump p).sale with
  | none => s
  | some sale0 =>
    let sale := sale0.ended s.clock reason
    let s1 := s.settleSale sale
    let x := s1.pump p
    let s2 := s1.setPump p ((if fromReply then x.clearStop else x).closeVolume sale.volume)
    let s3 := (s2.post (.saleComplete p sale)).postIf (reason == .abort) (.abortDone p sale.volume sale.amount)
    s3.placeSale p sale

/-- A READY sale is discarded: its hold released, the closed volume set, the mark STOP, the notice given (R158, R159). -/
def State.discardSale (s : State) (p : Nat) (notice : Sale → NoticeBody) : State :=
  match (s.pump p).sale with
  | none => s
  | some sale =>
    let s1 := match sale.source, sale.account with
      | .account, some n => s.release n (sale.holdId.getD 0)
      | _, _ => s
    let x := s1.pump p
    (s1.setPump p (((x.closeVolume sale.volume).want .stop).atRest (s1.restState p))).post (notice sale)

/-- The READY timeout of a pump's sale, where it has come (R158). -/
def State.readyExpiry (s : State) (p : Nat) : State :=
  let x := s.pump p
  match x.state, x.sale with
  | .ready, some sale =>
    if expired s.clock sale.start s.readyTimeout then s.discardSale p (.authExpired p) else s
  | _, _ => s

/-- The link-loss window of a SUSPECT pump, where it has come (R166). That the sale is placed, with SALE-LOST where it overwrites a slot (R161,
R162), before the STOP mark and LINK-LOST is a DESIGN CHOICE (log entry 45). -/
def State.linkLossExpiry (s : State) (p : Nat) : State :=
  let x := s.pump p
  match x.state, x.sale with
  | .suspect, some sale =>
    if expired s.clock (x.suspectSince.getD 0) s.linkLossWindow then
      let s1 := s.completeSale p .linkLost false
      (s1.setPump p ((s1.pump p).want .stop)).post (.linkLost p sale.account sale.volume (fuelAmount sale.volume sale.price))
    else s
  | _, _ => s

/-! ### Status replies -/

/-- The reported volume is taken into the active sale (R157). -/
def Pump.takeVolume (x : Pump) (v : Nat) : Pump :=
  match x.sale with
  | some sale => if sale.volume ≤ v then { x with sale := some { sale with volume := v, amount := fuelAmount v sale.price } } else x
  | none => x

/-- The end reason of a delivery reported over in READY or FUELLING (R160). -/
def endReasonOf (ph : Phase) (c : StopCause) : EndReason :=
  match ph, c with
  | .stopped, .preset => .limit
  | .stopped, .hung => .hung
  | .stopped, .noFlow => .timeout
  | _, _ => .fault

/-- A phase that reports the delivery over (R157). -/
def Phase.isOver : Phase → Bool
  | .stopped => true
  | .waiting => true
  | _ => false

/-- Whether a nozzle is reported LIFTED. -/
def PumpStatus.lifted (st : PumpStatus) (nozzle : Nat) : Bool :=
  if nozzle = 0 then st.lifted0 else st.lifted1

/-- A judged reply of a READY pump (R157, R160). -/
def State.judgeReady (s : State) (p : Nat) (st : PumpStatus) : State :=
  let x := s.pump p
  let nozzle := (x.sale.map (·.nozzle)).getD 0
  if st.phase.isOver then
    (s.setPump p ({ x with state := .fuelling }.takeVolume st.volume)).completeSale p (endReasonOf st.phase st.cause) true
  else if st.lifted nozzle ∨ st.phase = .delivering then s.setPump p ({ x with state := .fuelling }.takeVolume st.volume)
  else s

/-- A judged reply of a FUELLING or STOPPING pump (R157, R160). -/
def State.judgeDelivery (s : State) (p : Nat) (st : PumpStatus) : State :=
  let x := s.pump p
  let s1 := s.setPump p (x.takeVolume st.volume)
  if st.phase.isOver then
    s1.completeSale p (if x.state = .stopping then .abort else endReasonOf st.phase st.cause) true
  else s1

/-- The first good reply of a SUSPECT pump (R165). -/
def State.suspectReturn (s : State) (p : Nat) (st : PumpStatus) : State :=
  let x := s.pump p
  let was := x.suspendedFrom.getD .ready
  let back (y : Pump) (q : PumpState) : Pump := { y with state := q, suspendedFrom := none, suspectSince := none }
  if x.markAuth then (s.setPump p (back x .ready)).readyExpiry p
  else
    let y := x.takeVolume st.volume
    match st.phase with
    | .armed => (s.setPump p (back y was)).readyExpiry p
    | .delivering => s.setPump p (back y (if was = .stopping then .stopping else .fuelling))
    | _ =>
      (s.setPump p (back y (if was = .stopping then .stopping else .fuelling))).completeSale p
        (if was = .stopping then .abort else endReasonOf st.phase st.cause) true

/-- A judged reply of an IDLE or BLOCKED pump compares its volume with the closed volume (R167). -/
def State.judgeClosed (s : State) (p : Nat) (st : PumpStatus) : State :=
  let x := s.pump p
  match x.closedVolume with
  | none => s.setPump p { x with closedVolume := some st.volume }
  | some v =>
    if v = st.volume then s
    else (s.setPump p { x with closedVolume := some st.volume }).post (.lateVolume p v st.volume st.phase)

/-- The phase and volume of a reply judged against the pump's state (R152, first step). -/
def State.judgePump (s : State) (p : Nat) (st : PumpStatus) : State :=
  let x := s.pump p
  match x.state with
  | .suspect => s.suspectReturn p st
  | .ready => if x.markAuth then s else s.judgeReady p st
  | .fuelling => if x.markAuth then s else s.judgeDelivery p st
  | .stopping => if x.markAuth then s else s.judgeDelivery p st
  | .idle => if x.markAuth then s else s.judgeClosed p st
  | .blocked => if x.markAuth then s else s.judgeClosed p st
  | .offline => s

/-- A pump's status reply (R152). -/
def State.pumpStatus (s : State) (p : Nat) (st : PumpStatus) : State :=
  let s1 := s.judgePump p st
  match st.read with
  | some (card, nozzle) => s1.cardAtPump p nozzle card
  | none => s1

/-! ### Links, acknowledgements, display -/

/-- A pump's station goes to SILENT or UNSEEN (R150, R164, R172). -/
def Pump.linkLost (x : Pump) (now : Nat) : Pump :=
  if x.state.isRunning then { x with state := .suspect, suspendedFrom := some x.state, suspectSince := some now }
  else if x.state = .idle then { x with state := .offline }
  else x

/-- A pump's station becomes PRESENT (R150). -/
def Pump.linkBack (x : Pump) : Pump :=
  if x.state = .offline then { x with state := .idle } else x

/-- A good ACK of PUMP-AUTH or PUMP-STOP (R153): of PUMP-AUTH it also removes the closed volume. -/
def Pump.acked (x : Pump) (wasAuth : Bool) : Pump :=
  let y := if wasAuth then { x with closedVolume := none } else x
  match x.mark with
  | some { setAgain := false, .. } => { y with mark := none }
  | _ => y

/-- The amount and the volume a POLL to a pump displays (R168). -/
def Pump.display (x : Pump) : Nat × Nat :=
  match x.sale with
  | some sale => (sale.amount, sale.volume)
  | none => (0, 0)

end Sys2Proof.Machine
end

