-- ==== Sys2Proof/Machine/PostReply.lean ====
section
/-! DEFINITION. A post's status reply (R93): readings, samples, confirmations (R95), settled replies (R96) and the tap (R100 to R103);
with the opening of a session (R90) and the orders that close points (R104, R105). -/

namespace Sys2Proof.Machine

/-- The two points of a side of a post. -/
def sideRefs (a addr side : Nat) : List PointRef :=
  [{ arm := a, addr := addr, side := side, svc := .power }, { arm := a, addr := addr, side := side, svc := .water }]

/-- A session as it is opened (R90). -/
def Session.opened (account : Nat) (card : Option Card) (now : Nat) : Session :=
  { account := account, card := card, start := now, billed := 0, unbilled := 0, cents := 0, residue := 0, peak := 0,
    suspension := none, lastRelease := none, tripCause := none, tripTime := none, closeReason := none }

/-- A point opens a session and enters STARTING (R90). -/
def State.openSession (s : State) (r : PointRef) (account : Nat) (card : Option Card) : State :=
  match s.point? r with
  | some x => s.changePoint r { x with state := .starting, session := some (Session.opened account card s.clock) }
  | none => s

/-- A point goes to CLOSING with a close reason (R101, R104, R110); its session keeps everything else. -/
def State.startClosing (s : State) (r : PointRef) (reason : CloseReason) : State :=
  match s.point? r with
  | some x =>
    match x.session with
    | some ses => s.changePoint r { x with state := .closing, session := some { ses with closeReason := some reason } }
    | none => s
  | none => s

/-- The state of a point, none where there is no record. -/
def State.stateOf (s : State) (r : PointRef) : Option PointState :=
  (s.point? r).map (·.state)

/-- LIVE, STARTING, SUSPENDED or TRIPPED: the states a check-out order and OUTLET-STOP close (R104, R110). -/
def PointState.closable : PointState → Bool
  | .live => true
  | .starting => true
  | .suspended => true
  | .tripped => true
  | _ => false

/-- A condition on the state of a point; false where there is no record. -/
def State.pointIs (s : State) (r : PointRef) (p : PointState → Bool) : Bool :=
  match s.stateOf r with
  | some x => p x
  | none => false

/-- Applies a change in turn to each of a list of points that meets a condition when its turn comes. -/
def State.forPoints (s : State) (rs : List PointRef) (p : State → PointRef → Bool) (f : State → PointRef → State) : State :=
  rs.foldl (fun t r => if p t r then f t r else t) s

/-! ### Reported states -/

/-- A reported state confirms a pending change (R95). -/
def State.confirm (s : State) (r : PointRef) (on : Bool) : State :=
  match s.point? r with
  | none => s
  | some x =>
    match x.state with
    | .starting => if on then s.changePoint r { x with state := .live, unconfirmed := 0 } else s
    | .closing =>
      if on then s
      else
        match x.session with
        | some ses => s.closeSession r (ses.closeReason.getD .unconfirmed) .off true
        | none => s
    | _ => s

/-- A reported state is judged against the desired state in a settled reply (R96). -/
def State.judgeSettled (s : State) (r : PointRef) (on : Bool) : State :=
  match s.point? r with
  | none => s
  | some x =>
    let account := (x.session.map (·.account)).getD 0
    if x.state.desiredOn = on then s.storePoint r { x with unconfirmed := 0 }
    else
      match x.state with
      | .starting =>
        if 3 ≤ x.unconfirmed + 1 then
          (s.closeSession r .unconfirmed .off true).post (.startFailed r (s.pointBerth r) account)
        else s.storePoint r { x with unconfirmed := x.unconfirmed + 1 }
      | .live =>
        ((s.changePoint r { x with state := .starting, unconfirmed := 0 }).markPost r.arm r.addr false).post
          (.supplyDropped r (s.pointBerth r) account)
      | st =>
        if 3 ≤ x.unconfirmed + 1 then
          ((s.storePoint r { x with unconfirmed := 0 }).markPost r.arm r.addr false).post (.cutUnconfirmed r (s.pointBerth r) st)
        else s.storePoint r { x with unconfirmed := x.unconfirmed + 1 }

/-- One reported state (R93, third step): R95, then R96 where the reply is settled and the point still stands as the first two steps
left it (`before`; DEDUCED, log entry 8). -/
def State.takeReported (s : State) (r : PointRef) (on settled : Bool) (before : Option PointState) : State :=
  let s1 := s.confirm r on
  if settled && s.stateOf r == before then s1.judgeSettled r on else s1

/-- Whether a post has no command mark, so that a reply taken now is settled (R96). -/
def State.settledAt (s : State) (a addr : Nat) : Bool :=
  match s.post? a addr with
  | some p => p.mark.isNone
  | none => true

/-! ### Taps -/

/-- What a tap comes to (R100). -/
inductive TapOutcome where
  | refused (reason : TapRefusal)
  | stopped (points : List Service)
  | released (points : List Service)
  | started (points : List Service)
  deriving DecidableEq, Repr

/-- A release with a cause on each of a list of points in SUSPENDED or TRIPPED; the services of those released (R102). -/
def State.tryReleases (s : State) (rs : List PointRef) (cause : Cause) : State × List Service :=
  rs.foldl (fun t r =>
    if t.1.releaseFailure r cause = none then (t.1.releasePoint r cause, t.2 ++ [r.svc]) else t) (s, [])

/-- A tap that is a start (R103): the reason that refuses it, if any. -/
def State.startRefusal (s : State) (rs : List PointRef) (b : Option Nat) : Option TapRefusal :=
  let account := match b with
    | some n => (s.berth n).occupant.getD 0
    | none => 0
  if s.occupied b = false then some .berth
  else if rs.any (fun r => s.provisioned b r.svc && s.pointIs r (· == .off)) = false then some .nothing
  else if s.ratesValid = false then some .rates
  else if s.inFunds account = false ∨ (s.account account).available < startMinimum s.rateRows then some .credit
  else none

/-- The points of a list that a start opens: provisioned and OFF (R103, R109). -/
def State.startable (s : State) (rs : List PointRef) (b : Option Nat) : List PointRef :=
  rs.filter (fun r => s.provisioned b r.svc && s.pointIs r (· == .off))

/-- The occupant account of an optional berth; 0 where there is none. -/
def State.occupantOf (s : State) (b : Option Nat) : Nat :=
  match b with
  | some n => (s.berth n).occupant.getD 0
  | none => 0

/-- Steps 2 to 8 of R100, after the arrival of step 1. -/
def State.judgeTap (s : State) (a addr side : Nat) (card : Card) (ans : MatchAnswer) : State × TapOutcome :=
  let b := s.sideBerth a addr side
  let rs := sideRefs a addr side
  match ans with
  | .table => (s, .refused .table)
  | .unknown => (s, .refused .unknown)
  | .hit _ row =>
    if ¬ (row.within s.clock = true ∧ (row.kind = .staff ∨ (row.kind = .crew ∧ row.berth.isSome ∧ row.berth = b))) then
      (s, .refused .ineligible)
    else if b = none then (s, .refused .berth)
    else if rs.any (fun r => s.pointIs r PointState.desiredOn) then
      let hit := rs.filter (fun r => s.pointIs r PointState.desiredOn)
      (hit.foldl (fun t r => t.startClosing r .tap) s, .stopped (hit.map (·.svc)))
    else if rs.all (fun r => s.pointIs r PointState.atRest) then
      match s.startRefusal rs b with
      | some reason => (s, .refused reason)
      | none =>
        let hit := s.startable rs b
        (hit.foldl (fun t r => t.openSession r (s.occupantOf b) (some card)) s, .started (hit.map (·.svc)))
    else
      match s.tryReleases rs .tap with
      | (_, []) => (s, .refused .held)
      | (t, pts) => (t, .released pts)

/-- The arrival that a tap sends first (R10, R100 step 1). -/
def State.tapArrival (s : State) (a addr side : Nat) (card : Card) (ans : MatchAnswer) : State :=
  match ans, s.sideBerth a addr side with
  | .hit _ row, some b =>
    if row.kind = .crew ∧ row.berth = some b ∧ row.within s.clock = true then s.autoArrive b .post card else s
  | _, _ => s

/-- The matched row of an answer, if a row was matched. -/
def MatchAnswer.row? : MatchAnswer → Option CredRow
  | .hit _ r => some r
  | _ => none

/-- A card read in a post's status reply is a tap at the side it names (R100). -/
def State.tap (s : State) (a addr side : Nat) (card : Card) : State :=
  let ans := s.consult card
  let kind := ans.row?.map (·.kind)
  match (s.tapArrival a addr side card ans).judgeTap a addr side card ans with
  | (t, .refused reason) => t.post (.tap a addr side (s.sideBerth a addr side) card kind .refused (some reason) [])
  | (t, .stopped pts) => t.post (.tap a addr side (s.sideBerth a addr side) card kind .stopped none pts)
  | (t, .released pts) => t.post (.tap a addr side (s.sideBerth a addr side) card kind .released none pts)
  | (t, .started pts) => t.post (.tap a addr side (s.sideBerth a addr side) card kind .started none pts)

/-! ### The reply -/

/-- The four counter readings (R93, first step). -/
def State.takeReadings (s : State) (a addr : Nat) (st : PostStatus) : State :=
  let s1 := s.takeReading { arm := a, addr := addr, side := 0, svc := .power } st.side0.power
  let s2 := s1.takeReading { arm := a, addr := addr, side := 0, svc := .water } st.side0.water
  let s3 := s2.takeReading { arm := a, addr := addr, side := 1, svc := .power } st.side1.power
  s3.takeReading { arm := a, addr := addr, side := 1, svc := .water } st.side1.water

/-- The two current samples (R93, second step). -/
def State.takeSamples (s : State) (a addr : Nat) (st : PostStatus) : State :=
  (s.takeSample a addr 0 st.side0.sample).takeSample a addr 1 st.side1.sample

/-- The four reported states (R93, third step). -/
def State.takeReports (s : State) (a addr : Nat) (st : PostStatus) : State :=
  let settled := s.settledAt a addr
  let r (side : Nat) (svc : Service) : PointRef := { arm := a, addr := addr, side := side, svc := svc }
  let s1 := s.takeReported (r 0 .power) st.side0.contactorOn settled (s.stateOf (r 0 .power))
  let s2 := s1.takeReported (r 0 .water) st.side0.valveOn settled (s.stateOf (r 0 .water))
  let s3 := s2.takeReported (r 1 .power) st.side1.contactorOn settled (s.stateOf (r 1 .power))
  s3.takeReported (r 1 .water) st.side1.valveOn settled (s.stateOf (r 1 .water))

/-- A post's status reply (R93). -/
def State.postStatus (s : State) (a addr : Nat) (st : PostStatus) : State :=
  let s1 := ((s.takeReadings a addr st).takeSamples a addr st).takeReports a addr st
  match st.read with
  | some (card, side) => s1.tap a addr side card
  | none => s1

/-! ### Departure -/

/-- The points of a berth: those of its bound post side (R5). -/
def State.berthPoints (s : State) (b : Nat) : List PointRef :=
  match s.boundSide b with
  | some d => sideRefs d.arm d.addr d.side
  | none => []

/-- The check-out order (R104). -/
def State.checkOutOrder (s : State) (b : Nat) : State :=
  s.forPoints (s.berthPoints b) (fun t r => t.pointIs r PointState.closable) (fun t r => t.startClosing r .checkout)

/-- Whether a point has a session that a force-close ends: it stands neither in OFF nor in FAULT (R105). -/
def State.forceClosable (s : State) (r : PointRef) : Bool :=
  s.pointIs r (fun x => !x.atRest)

/-- The force-close order of the departure close timeout, with the number of points closed (R105). -/
def State.forceClose (s : State) (b : Nat) : State × Nat :=
  let n := (s.berthPoints b).countP (fun r => s.forceClosable r)
  (s.forPoints (s.berthPoints b) (fun t r => t.forceClosable r)
    (fun t r => t.closeSession r .unconfirmed .off false), n)

/-- The expiry of a berth's departure close timeout, where it has come (R14). -/
def State.departureTimeout (s : State) (b : Nat) : State :=
  let x := s.berth b
  if x.state = .departing ∧ expired s.clock (x.checkOut.getD 0) 60 = true then
    let (t, n) := s.forceClose b
    t.endDeparture b n
  else s

end Sys2Proof.Machine
end

