-- ==== Sys2Proof/Machine/GateOps.lean ====
section
/-! DEFINITION. The Gate Controller: command marks (R75, R76), the door monitor (R77 to R79), card reads and the exit button (R67 to
R73), modes (R66), tracking (R81). -/

namespace Sys2Proof.Machine

/-! ### Marks and releases -/

/-- A STRIKE is wanted (R75). -/
def Gate.wantStrike (g : Gate) : Gate :=
  { g with mark := some { cmd := .strike, setAgain := true } }

/-- A HOLD-RELEASE is wanted (R75). -/
def Gate.wantHoldRelease (g : Gate) : Gate :=
  { g with mark := some { cmd := .holdRelease, setAgain := true } }

/-- A DENY is wanted (R75): it never takes the place of a release that has been granted and not yet sent. -/
def Gate.wantDeny (g : Gate) : Gate :=
  match g.mark with
  | some { cmd := .strike, .. } => g
  | some { cmd := .holdRelease, .. } => g
  | _ => { g with mark := some { cmd := .deny, setAgain := true } }

/-- The strike time of a configured gate. An unconfigured gate starts no release. -/
def Gate.strikeSeconds (g : Gate) : Nat :=
  g.strikeTime.getD 0

/-- A release starts (R77). -/
def Gate.startRelease (g : Gate) (now : Nat) : Gate :=
  match g.monitor with
  | .idle =>
    { g with monitor := .released, strikeEnd := some (expiryAt now g.strikeSeconds), passageSeen := false,
             expiry := .strikePending }
  | .released => { g with strikeEnd := some (expiryAt now g.strikeSeconds), expiry := .strikePending }
  | _ => g

/-- The monitor is set to IDLE: strike end removed, passage seen no (R64, R66, R88). That it is no after the returns of
R78 and R79 too is a DESIGN CHOICE (log entry 34). -/
def Gate.toIdle (g : Gate) : Gate :=
  { g with monitor := .idle, strikeEnd := none, passageSeen := false, expiry := .taken }

/-- A release in NORMAL or LOCKED: the mark is STRIKE and the monitor takes a release (R70, R72, R73, R85). -/
def State.releaseGate (s : State) (g : Nat) : State :=
  s.setGate g ((s.gate g).wantStrike.startRelease s.clock)

/-- The number of the gate's pontoon. -/
def State.gatePontoon (s : State) (g : Nat) : Nat :=
  (s.gate g).pontoon.getD 0

/-! ### Presence -/

/-- The presence list without a card's record. -/
def withoutCard (l : List Presence) (c : Card) : List Presence :=
  l.filter (fun r => r.card != c)

/-- The record outcome of a granted IN read on pontoon `p` (the table of R70). -/
def State.inOutcome (s : State) (p : Nat) (c : Card) : RecordOutcome :=
  if s.tracks p = false then .frozen
  else
    match s.presenceOf c with
    | none => .added
    | some r => if s.tracks r.pontoon = false then .frozen else .moved

/-- The presence list after a granted IN read (R70). -/
def State.presenceIn (s : State) (p : Nat) (c : Card) : List Presence :=
  match s.inOutcome p c with
  | .added => s.presence ++ [{ card := c, pontoon := p, entry := s.clock }]
  | .moved => withoutCard s.presence c ++ [{ card := c, pontoon := p, entry := s.clock }]
  | _ => s.presence

/-- Whether the presence change of a grant adds a record naming `p` that was not there before (checks 8 and 9 of R69). -/
def State.addsTo (s : State) (p : Nat) (c : Card) : Bool :=
  match s.inOutcome p c with
  | .added => true
  | .moved => (s.presenceOf c).any (fun r => r.pontoon != p)
  | _ => false

/-- The record outcome of a granted OUT read, with the pontoon a crossed record named (R72). A card without a record has NONE at a FREE
gate too, where the decisions gathered by mode say FROZEN (DESIGN CHOICE, log entry 33). -/
def State.outOutcome (s : State) (p : Nat) (c : Card) : RecordOutcome × Option Nat :=
  match s.presenceOf c with
  | none => (.none, none)
  | some r =>
    if s.tracks p = false ∨ s.tracks r.pontoon = false then (.frozen, none)
    else if r.pontoon = p then (.removed, none)
    else (.crossed, some r.pontoon)

/-- The presence list after a granted OUT read (R72). -/
def State.presenceOut (s : State) (p : Nat) (c : Card) : List Presence :=
  match (s.outOutcome p c).1 with
  | .removed => withoutCard s.presence c
  | .crossed => withoutCard s.presence c
  | _ => s.presence

/-! ### Entry checks -/

/-- CREW and GUEST rows are bound to a berth (R69, checks 5 and 6). -/
def CredKind.hasBerth : CredKind → Bool
  | .crew => true
  | .guest => true
  | _ => false

/-- Check 5 of R69 for a berth: bound on the arm, and held. -/
def State.berthAdmits (s : State) (p : Nat) (b : Option Nat) : Bool :=
  match b with
  | some n => (s.boundSide n).any (fun d => d.arm == p) && (s.berth n).state.isHeld
  | none => false

/-- Check 6 of R69 for a berth: its occupant account is not BARRED. -/
def State.occupantBarred (s : State) (b : Option Nat) : Bool :=
  (s.account (s.occupantOf b)).standing == .barred

/-- The first check of R69 that an IN read on pontoon `p` fails. -/
def State.entryDenial (s : State) (p : Nat) (c : Card) (ans : MatchAnswer) : Option Denial :=
  match ans with
  | .table => some .table
  | .unknown => some .unknown
  | .hit _ row =>
    if row.within s.clock = false then some .time
    else if row.admits p = false then some .pontoon
    else if row.kind.hasBerth = true ∧ s.berthAdmits p row.berth = false then some .berth
    else if row.kind.hasBerth = true ∧ s.occupantBarred row.berth = true then some .barred
    else if row.antiPassback = true ∧ (s.presenceOf c).isSome = true then some .passback
    else if s.addsTo p c = true ∧ (s.pontoon p).limit < s.count p + 1 then some .full
    else if s.inOutcome p c = .added ∧ 256 < s.presence.length + 1 then some .listFull
    else none

/-! ### Reads -/

/-- The PASSAGE notice of an IN read with the matched row, if any. -/
def inPassage (g p : Nat) (c : Card) (row : Option CredRow) (granted : Bool) (reason : Option Denial) (o : RecordOutcome) :
    NoticeBody :=
  .passage g p .inward (some c) (row.map (·.kind)) (row.bind (·.berth)) granted reason o none

/-- A denied IN read (R71). That its notice carries the record outcome NONE is a DESIGN CHOICE (log entry 32). -/
def State.denyIn (s : State) (g : Nat) (c : Card) (row : Option CredRow) (reason : Denial) : State :=
  (s.setGate g (s.gate g).wantDeny).post (inPassage g (s.gatePontoon g) c row false (some reason) .none)

/-- The arrival a grant sends for a CREW row (R9, R70). -/
def State.gateArrival (s : State) (row : CredRow) (c : Card) : State :=
  match row.kind, row.berth with
  | .crew, some b => s.autoArrive b .gate c
  | _, _ => s

/-- A granted IN read at a NORMAL gate (R70). -/
def State.grantIn (s : State) (g : Nat) (c : Card) (row : CredRow) : State :=
  let p := s.gatePontoon g
  (((s.setPresence (s.presenceIn p c)).releaseGate g).gateArrival row c).post
    (inPassage g p c (some row) true none (s.inOutcome p c))

/-- A card read IN (R68, R69). -/
def State.readIn (s : State) (g : Nat) (c : Card) : State :=
  match (s.gate g).mode with
  | .locked => s.denyIn g c none .locked
  | .free => s.post (inPassage g (s.gatePontoon g) c none true none .frozen)
  | .normal =>
    let ans := s.consult c
    match s.entryDenial (s.gatePontoon g) c ans, ans with
    | none, .hit _ row => s.grantIn g c row
    | some reason, _ => s.denyIn g c ans.row? reason
    | none, _ => s

/-- A release where the gate is in NORMAL or LOCKED; in FREE nothing (R72, R73). -/
def State.releaseUnlessFree (s : State) (g : Nat) : State :=
  if (s.gate g).mode = .free then s else s.releaseGate g

/-- A card read OUT (R72). -/
def State.readOut (s : State) (g : Nat) (c : Card) : State :=
  let p := s.gatePontoon g
  let o := s.outOutcome p c
  ((s.setPresence (s.presenceOut p c)).releaseUnlessFree g).post
    (.passage g p .outward (some c) none none true none o.1 o.2)

/-- An exit-button press (R73). -/
def State.exitButton (s : State) (g : Nat) : State :=
  (s.releaseUnlessFree g).post (.passage g (s.gatePontoon g) .button none none none true none .none none)

/-- A door report (R78). -/
def State.doorReport (s : State) (g : Nat) (isOpen : Bool) : State :=
  let x := { s.gate g with doorOpen := isOpen }
  if x.mode = .free then s.setGate g x
  else
    match x.monitor, isOpen with
    | .idle, true => (s.setGate g { x with monitor := .forced }).post (.forced g (s.gatePontoon g))
    | .released, true => s.setGate g { x with passageSeen := true }
    | .released, false => s.setGate g (if x.passageSeen then x.toIdle else x)
    | .held, false => (s.setGate g x.toIdle).post (.doorSecure g (s.gatePontoon g) .held)
    | .forced, false => (s.setGate g x.toIdle).post (.doorSecure g (s.gatePontoon g) .forced)
    | _, _ => s.setGate g x

/-- A gate's status reply: the card read, the exit button, the door state (R67). -/
def State.gateStatus (s : State) (g : Nat) (st : GateStatus) : State :=
  let s1 := match st.read with
    | some (c, false) => s.readIn g c
    | some (c, true) => s.readOut g c
    | none => s
  let s2 := if st.button then s1.exitButton g else s1
  s2.doorReport g st.doorOpen

/-! ### Expiries -/

/-- The strike-end expiry's clearing of a stale STRIKE mark (R76). -/
def Gate.dropStale (g : Gate) : Gate :=
  match g.mark with
  | some { cmd := .strike, .. } => if g.awaitsHeldEnd then g else { g with mark := none }
  | _ => g

/-- Whether a RELEASED gate's strike end has come and has not been taken (R79). -/
def Gate.strikeDue (g : Gate) (now : Nat) : Bool :=
  g.monitor == .released && g.expiry == .strikePending && decide (g.strikeEnd.getD 0 ≤ now)

/-- The strike-end expiry (R79): a SHUT gate goes to IDLE, an OPEN one awaits the hold expiry. -/
def State.strikeExpiry (s : State) (g : Nat) : State :=
  let x := s.gate g
  if x.strikeDue s.clock then
    let y := x.dropStale
    s.setGate g (if x.doorOpen then { y with expiry := .holdPending } else y.toIdle)
  else s

/-- Whether a gate's hold expiry has come and has not been taken (R79). -/
def Gate.holdDue (g : Gate) (now : Nat) : Bool :=
  g.monitor == .released && g.expiry == .holdPending && expired now (g.strikeEnd.getD 0) (g.holdGrace.getD 0)

/-- The hold expiry (R79). That HELD keeps passage seen as it was is a DESIGN CHOICE (log entry 34). -/
def State.holdExpiry (s : State) (g : Nat) : State :=
  let x := s.gate g
  if x.holdDue s.clock then
    if x.doorOpen then
      (s.setGate g { x with monitor := .held, strikeEnd := none, expiry := .taken }).post
        (.heldOpen g (s.gatePontoon g) (x.strikeEnd.getD 0))
    else s.setGate g { x with expiry := .taken }
  else s

/-! ### Modes, tracking, links, acknowledgements -/

/-- The tracking of a pontoon is judged afresh, with a TRACKING notice when it changes (R81). -/
def State.judgeTracking (s : State) (p : Nat) : State :=
  let t := s.trackingJudged p
  if (s.pontoon p).tracking = t then s
  else (s.setPontoon p { s.pontoon p with tracking := t }).post (.tracking p t (s.count p))

/-- The gate record after a change of mode (R66). On an unconfigured gate the mark and the monitor are not set. From a change out of
FREE on, configured or not, the gate awaits the end of its held release (R76). -/
def Gate.changeMode (g : Gate) (m : GateMode) (now : Nat) : Gate :=
  let x := { g with mode := m, awaitsHeldEnd := g.awaitsHeldEnd || g.mode == .free }
  if g.station.isNone then x
  else
    match g.mode, m with
    | .free, _ =>
      { x.wantStrike with
        monitor := .released, strikeEnd := some (expiryAt now g.strikeSeconds), passageSeen := g.doorOpen,
        expiry := .strikePending }
    | _, .free => x.wantHoldRelease.toIdle
    | _, _ => x

/-- A change of a gate's mode (R66); one into or out of FREE makes the tracking of the gate's pontoon be judged afresh (R81). -/
def State.setGateMode (s : State) (g : Nat) (m : GateMode) : State :=
  let x := s.gate g
  if x.mode = m then s
  else
    let s1 := s.setGate g (x.changeMode m s.clock)
    match x.pontoon with
    | some p => if x.mode = .free ∨ m = .free then s1.judgeTracking p else s1
    | none => s1

/-- A gate goes from ONLINE to OFFLINE: a DENY mark is cleared (R65). -/
def Gate.goOffline (g : Gate) : Gate :=
  match g.mark with
  | some { cmd := .deny, .. } => { g with mark := none }
  | _ => g

/-- A good ACK of a GATE-STRIKE (R76). -/
def Gate.acked (g : Gate) : Gate :=
  let x := { g with awaitsHeldEnd := false }
  match g.mark with
  | some { setAgain := false, .. } => { x with mark := none }
  | _ => x

/-- The value a GATE-STRIKE carries for a mark (R75). -/
def Gate.strikeValue (g : Gate) : GateCmd → Nat
  | .strike => g.strikeSeconds
  | .deny => 0
  | .holdRelease => 255

end Sys2Proof.Machine
end

