-- ==== Sys2Proof/Machine/RelayOps.lean ====
section
/-! DEFINITION. The Relay Engine: groups (R194), progress and end of a transfer (R195, R197, R199), completion of a request (R196). -/

namespace Sys2Proof.Machine

/-- The length L of a relay request: its data bytes or its count (R193). -/
def RelayData.size : RelayData → Nat
  | .write d => d.length
  | .read n => n

/-- The number of groups of L bytes in groups of g (R194). -/
def groupCount (l g : Nat) : Nat :=
  (l + g - 1) / g

/-- A transfer as it is placed in flight (R194). -/
def Transfer.placed (arm total : Nat) : Transfer :=
  { arm := arm, total := total, done := 0, buffer := [], endCause := none }

/-- A transfer in flight on an arm. -/
def Transfer.runsOn (t : Transfer) (a : Nat) : Bool :=
  t.arm == a && t.endCause.isNone

/-- The transfer in flight on an arm with its request (R194). -/
def State.transferOn (s : State) (a : Nat) : Option (RelayRequest × Transfer) :=
  s.relays.findSome? (fun q => (q.transfers.find? (fun t => t.runsOn a)).map (fun t => (q, t)))

/-- The exchange of group `k` of a request (R194). -/
def RelayRequest.groupRequest (q : RelayRequest) (k : Nat) : ArmRequest :=
  let n := min q.group (q.data.size - k * q.group)
  match q.data with
  | .write d => .relayWrite (q.sub + k * q.group) ((d.drop (k * q.group)).take n)
  | .read _ => .relayRead (q.sub + k * q.group) n

/-- A request with a transfer of it still in flight. -/
def RelayRequest.inFlight (q : RelayRequest) : Bool :=
  q.transfers.any (fun t => t.endCause.isNone)

/-- What R196 reports of a request. -/
def RelayRequest.report (q : RelayRequest) : RelayReport :=
  { isRead := match q.data with
      | .read _ => true
      | .write _ => false
    arms := setBits ((List.range 6).map (fun a => q.transfers.any (fun t => t.arm == a)))
    addr := q.addr
    results := q.transfers.map (fun t => (t.arm, t.done, t.total, t.endCause))
    bytes := match q.data with
      | .read _ => q.transfers.flatMap (fun t => t.buffer.take (q.group * t.done))
      | .write _ => [] }

/-- The kind code of RELAY (11.6). -/
def relayCode : Nat := 0x58

/-- The result of a complete request (R196): the withheld reply becomes a made reply, or a RELAY-DONE notice is posted. -/
def State.sendRelayResult (s : State) (q : RelayRequest) : State :=
  if q.wait then s.pushReply { tag := q.tag, kind := relayCode, result := .done, body := .relayed q.report }
  else s.post (.relayDone q.tag q.report)

/-- Requests without a transfer in flight are complete: they leave the engine and their results go out (R196). -/
def State.completeRelays (s : State) : State :=
  (s.relays.filter (fun q => !q.inFlight)).foldl State.sendRelayResult
    (s.setRelays (s.relays.filter (fun q => q.inFlight)))

/-- Changes the transfer in flight on an arm. -/
def State.updateTransfer (s : State) (a : Nat) (f : Transfer → Transfer) : State :=
  s.setRelays (s.relays.map (fun q =>
    { q with transfers := q.transfers.map (fun t => if t.runsOn a then f t else t) }))

/-- The transfer in flight on an arm, if any, ends with a cause, and its request is judged (R195 to R197). -/
def State.endTransfer (s : State) (a : Nat) (c : EndCause) : State :=
  (s.updateTransfer a (fun t => { t with endCause := some c })).completeRelays

/-- A group has ended good (R195): groups done rises, READ bytes join the buffer, and the last group completes the transfer. -/
def Transfer.advanced (t : Transfer) (bs : List Byte) : Transfer :=
  { t with done := t.done + 1, buffer := t.buffer ++ bs, endCause := if t.done + 1 = t.total then some .complete else none }

/-- The end of a relay exchange on an arm: the bytes of a good one (none of them for an ACK), or a bad one (R195). -/
def State.relayEnd (s : State) (a : Nat) (good : Option (List Byte)) : State :=
  match good with
  | some bs => (s.updateTransfer a (fun t => t.advanced bs)).completeRelays
  | none => s.endTransfer a .failed

/-- A request with its transfers in flight ended by a RESTART (R199). -/
def RelayRequest.restarted (q : RelayRequest) : RelayRequest :=
  { q with transfers := q.transfers.map (fun t =>
      if t.endCause.isNone then { t with endCause := some .restart } else t) }

/-- A RESTART ends every transfer in flight and completes every request with a notice (R199). The notice is marked RESTART by the end causes
of the transfers ended so, and has no field of its own for the mark (DESIGN CHOICE, log entry 42). -/
def State.restartRelays (s : State) : State :=
  (s.relays.map RelayRequest.restarted).foldl (fun t q => t.post (.relayDone q.tag q.report)) (s.setRelays [])

end Sys2Proof.Machine
end

