-- ==== Sys2Proof/Machine/ArmOps.lean ====
section
/-! DEFINITION. The Arm Bus Masters: station links (R179, R180), the error count and isolation (R181, R182), probes (R183), sweeps (R187,
R188), the arbiter (R189) and the end of an exchange (R174, R190). -/

namespace Sys2Proof.Machine

/-! ### Stations and their owners -/

/-- Sets a station record at an address. -/
def State.setStation (s : State) (a addr : Nat) (st : Station) : State :=
  s.setSlot a addr { s.slot a addr with station := some st }

/-- The owning block is told that a PRESENT station has become unreachable (R65, R113, R150, R164, R180). A post keeps its points. -/
def State.tellUnreachable (s : State) (a addr : Nat) : State :=
  match s.row a addr with
  | .gate n _ _ => s.setGate n (s.gate n).goOffline
  | .pump n _ _ => s.setPump n ((s.pump n).linkLost s.clock)
  | _ => s

/-- The owning block is told that a station has returned (R150, R179). -/
def State.tellReturned (s : State) (a addr : Nat) : State :=
  match s.row a addr with
  | .pump n _ _ => s.setPump n (s.pump n).linkBack
  | _ => s

/-- A good exchange on a station's record (R179). -/
def State.stationGood (s : State) (a addr : Nat) : State :=
  match (s.slot a addr).station with
  | none => s
  | some st =>
    let s1 := s.setStation a addr { link := .present, missed := 0 }
    if st.link = .present then s1
    else (s1.post (.stationPresent a addr (s.row a addr).kind st.link)).tellReturned a addr

/-- A bad exchange on a station's record (R180). -/
def State.stationBad (s : State) (a addr : Nat) : State :=
  match (s.slot a addr).station with
  | none => s
  | some st =>
    let missed := satAdd 15 st.missed 1
    if st.link = .present ∧ (s.arm a).silence ≤ missed then
      ((s.setStation a addr { link := .silent, missed := missed }).post
        (.stationSilent a addr (s.row a addr).kind missed)).tellUnreachable a addr
    else s.setStation a addr { st with missed := missed }

/-- Every station of an arm takes a link and a missed count by a rule; the owner of each PRESENT one that leaves PRESENT is told. -/
def State.relinkStations (s : State) (a : Nat) (f : Station → Station) (tell : Bool) : State :=
  addresses.foldl (fun t addr =>
    match (t.slot a addr).station with
    | none => t
    | some st =>
      let t1 := t.setStation a addr (f st)
      if tell && st.link == .present && (f st).link != .present then t1.tellUnreachable a addr else t1) s

/-- Every station of an arm becomes UNSEEN with missed count 0 (R183, R184, R192). -/
def Station.unseen (_ : Station) : Station :=
  { link := .unseen, missed := 0 }

/-- A PRESENT station becomes SILENT (R182). -/
def Station.silenced (st : Station) : Station :=
  if st.link = .present then { st with link := .silent } else st

/-- The number of PRESENT stations of an arm. -/
def State.presentCount (s : State) (a : Nat) : Nat :=
  addresses.countP (fun addr => s.isPresent a addr)

/-! ### Sweeps -/

/-- The addresses of kind other than NONE, in address order. -/
def Arm.stations (A : Arm) : List Nat :=
  addresses.filter (fun d => (A.slot d).row.kind != .none)

/-- The lowest address of kind other than NONE, or 1 if there is none (R178). -/
def Arm.firstStation (A : Arm) : Nat :=
  A.stations.headD 1

/-- The next higher address of kind other than NONE after the pointer, wrapping to the lowest (R188). -/
def Arm.nextPointer (A : Arm) : Nat :=
  (A.stations.find? (fun d => decide (A.pointer < d))).getD A.firstStation

/-- A POST with a service point in a state other than OFF or FAULT (R187). -/
def Post.isDrawing (p : Post) : Bool :=
  p.points.any (fun x => !x.state.atRest)

/-- Whether a station belongs to a priority sweep that starts now (R187). -/
def State.inPriority (s : State) (a addr : Nat) : Bool :=
  match s.row a addr with
  | .gate .. => true
  | .pump n _ _ => (s.pump n).sale.isSome
  | .post .. => (s.post? a addr).any Post.isDrawing
  | .none => false

/-- The list of a priority sweep that starts now (R187). -/
def State.priorityList (s : State) (a : Nat) : List Nat :=
  addresses.filter (fun d => s.inPriority a d)

/-- A priority sweep starts: its list is fixed; an empty one ends at its start (R187). -/
def State.startSweep (s : State) (a : Nat) : State :=
  let l := s.priorityList a
  s.setArm a { s.arm a with sweep := if l.isEmpty then none else some l, sweepWaiting := false }

/-- A priority sweep falls due: it starts where none is in progress, and waits otherwise (R187). -/
def State.sweepDue (s : State) (a : Nat) : State :=
  if (s.arm a).sweep.isNone then s.startSweep a else s.setArm a { s.arm a with sweepWaiting := true }

/-- The slot interval in force for the next slot: doubled in DEGRADED (R181, R188). -/
def Arm.slotInForce (A : Arm) : Nat :=
  if A.state = .degraded then 2 * A.slotInterval else A.slotInterval

/-- Whether an arm runs its sweeps: ACTIVE or DEGRADED. -/
def ArmState.serves : ArmState → Bool
  | .active => true
  | .degraded => true
  | _ => false

/-- An arm's sweeps and probes stop: what was in progress, waiting or due is dropped (R182, R184). -/
def Arm.stopped (A : Arm) : Arm :=
  { A with sweep := none, sweepWaiting := false, pollDue := false, probeDue := false, periodRunning := none, slotRunning := none,
           probeTimer := false }

/-- An arm enters ACTIVE (R183, R184, R192): every station UNSEEN, the sweep timers started, a priority sweep due at once. -/
def State.activate (s : State) (a : Nat) (tell : Bool) : State :=
  let s1 := s.relinkStations a Station.unseen tell
  let A := { (s1.arm a).stopped with state := .active }
  (s1.setArm a { A with periodRunning := some A.period, slotRunning := some A.slotInterval }).startSweep a

/-! ### Error count, isolation, probes -/

/-- Isolation (R182). -/
def State.isolate (s : State) (a : Nat) : State :=
  let left := (s.arm a).state
  let n := s.presentCount a
  let s1 := s.relinkStations a Station.silenced true
  (s1.setArm a { (s1.arm a).stopped with state := .isolated, errors := 0, probes := 0, probeTimer := true }).post
    (.armIsolated a left n)

/-- A bad exchange on the error count (R181, R182). -/
def State.errorsBad (s : State) (a : Nat) : State :=
  let A := s.arm a
  if A.state.serves = false then s
  else if 255 < A.errors + 8 then s.isolate a
  else
    let n := A.errors + 8
    let s1 := (s.setArm a { A with errors := n }).postIf (decide (A.errors < 96 ∧ 96 ≤ n)) (.armWarning a n)
    if A.state = .active ∧ 128 ≤ n then
      (s1.setArm a { s1.arm a with state := .degraded }).post (.armState a .active .degraded .errors n)
    else s1

/-- A good exchange on the error count (R181). -/
def State.errorsGood (s : State) (a : Nat) : State :=
  let A := s.arm a
  if A.state.serves = false then s
  else
    let n := A.errors - 1
    let s1 := s.setArm a { A with errors := n }
    if A.state = .degraded ∧ n < 128 then
      (s1.setArm a { s1.arm a with state := .active }).post (.armState a .degraded .active .errors n)
    else s1

/-- The anchor in force (R183): the one set, or the lowest address of kind other than NONE; none on an empty table. -/
def Arm.anchorInForce (A : Arm) : Option Nat :=
  if A.anchor = 0 then A.stations.head? else some A.anchor

/-- The outcome of a probe (R183). It counts on every arm, so also for a probe in flight across a RESTORE (R184), and the sixteenth good
one decides on an ISOLATED arm alone. -/
def State.probeOutcome (s : State) (a : Nat) (good : Bool) : State :=
  let A := s.arm a
  if good = false then s.setArm a { A with probes := 0 }
  else
    let n := satAdd 16 A.probes 1
    let s1 := s.setArm a { A with probes := n }
    if A.state = .isolated ∧ 16 ≤ n then
      if A.autoRestore then (s1.activate a true).post (.armState a .isolated .active .probes A.errors)
      else s1.postIf (decide (A.probes < 16)) (.armReachable a (A.anchorInForce.getD 0))
    else s1

/-! ### The arbiter (R189) -/

/-- A POLL to an address, with a pump's display digits as they stand (R168, R173). -/
def State.pollRequest (s : State) (a addr : Nat) : ArmRequest :=
  match s.row a addr with
  | .pump n _ _ => .pollPump (s.pump n).display.1 (s.pump n).display.2
  | _ => .poll

/-- The frame of a post's mark of a class, where its station is PRESENT (R106, R189). -/
def State.postWork (s : State) (a : Nat) (safety : Bool) (addr : Nat) : Option (Nat × ArmRequest × Work) :=
  match s.isPresent a addr, s.post? a addr with
  | true, some { mark := some m, .. } =>
    if m.safety = safety then some (addr, .postSet m.power0 m.water0 m.power1 m.water1, .mark) else none
  | _, _ => none

/-- The frame of a gate's mark, where its station is PRESENT (R75, R189). -/
def State.gateWork (s : State) (a addr : Nat) : Option (Nat × ArmRequest × Work) :=
  match s.isPresent a addr, s.row a addr with
  | true, .gate n _ _ => (s.gate n).mark.map (fun m => (addr, .gateStrike ((s.gate n).strikeValue m.cmd), .mark))
  | _, _ => none

/-- The request that carries a pump's mark (R153). -/
def PumpCmd.request : PumpCmd → ArmRequest
  | .auth nozzle _ preset => .pumpAuth nozzle preset
  | .stop => .pumpStop

/-- The frame of a pump's mark, where its station is PRESENT (R153, R189). -/
def State.pumpWork (s : State) (a addr : Nat) : Option (Nat × ArmRequest × Work) :=
  match s.isPresent a addr, s.row a addr with
  | true, .pump n _ _ => (s.pump n).mark.map (fun m => (addr, m.cmd.request, .mark))
  | _, _ => none

/-- The next address of the priority sweep in progress. -/
def State.sweepWork (s : State) (a : Nat) : Option (Nat × ArmRequest × Work) :=
  match (s.arm a).sweep with
  | some (d :: _) => some (d, s.pollRequest a d, .priorityPoll)
  | _ => none

/-- The group the Relay Engine offers, on an ACTIVE arm (R194). -/
def State.relayWork (s : State) (a : Nat) : Option (Nat × ArmRequest × Work) :=
  if (s.arm a).state = .active then
    (s.transferOn a).map (fun x => (x.1.addr, x.1.groupRequest x.2.done, .relay))
  else none

/-- The due poll of the regular sweep (R188). -/
def State.regularWork (s : State) (a : Nat) : Option (Nat × ArmRequest × Work) :=
  let A := s.arm a
  if A.pollDue ∧ (A.slot A.pointer).row.kind ≠ .none then some (A.pointer, s.pollRequest a A.pointer, .regularPoll) else none

/-- The arbiter's order of work on an ACTIVE or DEGRADED arm (the table of R189). -/
def State.chooseWork (s : State) (a : Nat) : Option (Nat × ArmRequest × Work) :=
  (addresses.findSome? (s.postWork a true)).or <|
  (s.sweepWork a).or <|
  (addresses.findSome? (s.gateWork a)).or <|
  (addresses.findSome? (s.pumpWork a)).or <|
  (s.relayWork a).or <|
  (addresses.findSome? (s.postWork a false)).or <|
  s.regularWork a

/-- The mark of the station an exchange carries is, from its frame on, not set again (R76, R107, R153). -/
def State.markCarried (s : State) (a addr : Nat) : State :=
  match s.row a addr with
  | .gate n _ _ => s.setGate n { s.gate n with mark := (s.gate n).mark.map (fun m => { m with setAgain := false }) }
  | .pump n _ _ => s.setPump n { s.pump n with mark := (s.pump n).mark.map (fun m => { m with setAgain := false }) }
  | .post .. =>
    match s.post? a addr with
    | some p => s.setPost a addr { p with mark := p.mark.map (fun m => { m with setAgain := false }) }
    | none => s
  | .none => s

/-- What taking a piece of work changes besides the bus: the sweep's next address, the due poll and the pointer, the due probe, the
mark's bookkeeping. -/
def State.takeWork (s : State) (a addr : Nat) (w : Work) : State :=
  let A := s.arm a
  match w with
  | .priorityPoll => s.setArm a { A with sweep := A.sweep.map List.tail }
  | .regularPoll => s.setArm a { A with pollDue := false, pointer := A.nextPointer }
  | .probe => s.setArm a { A with probeDue := false }
  | .mark => s.markCarried a addr
  | .relay => s

/-- The master builds the frame and the exchange is in flight from here on (R173). -/
def State.launch (s : State) (a addr : Nat) (req : ArmRequest) (w : Work) : State :=
  let s1 := s.takeWork a addr w
  s1.setArm a { s1.arm a with
    inFlight := some { addr := addr, req := req, work := w, begun := false, window := (s1.arm a).window } }

/-- The probe an ISOLATED arm chooses when it falls due (R183, R189). -/
def State.probeWork (s : State) (a : Nat) : Option (Nat × ArmRequest × Work) :=
  if (s.arm a).probeDue then (s.arm a).anchorInForce.map (fun d => (d, .probe, .probe)) else none

/-- The arbiter of an arm: with no exchange in flight it chooses the next one, if there is one (R189). -/
def State.arbitrate (s : State) (a : Nat) : State :=
  if (s.arm a).inFlight.isSome then s
  else
    let w := match (s.arm a).state with
      | .active => s.chooseWork a
      | .degraded => s.chooseWork a
      | .isolated => s.probeWork a
      | .disabled => none
    match w with
    | some (addr, req, k) => s.launch a addr req k
    | none => s

/-- The six arbiters. They share no state (chapter 9). -/
def State.arbitrateAll (s : State) : State :=
  (List.range 6).foldl State.arbitrate s

/-- The outcome of a command that may make work ready on an arm: the arbiters choose, and the send side chooses. -/
def finishBus (s : State) : Host.Outcome State Fault Refusal :=
  finish s.arbitrateAll

/-! ### The end of an exchange (R174, R190) -/

/-- A good ACK of a POST-SET (R107). -/
def Post.acked (p : Post) : Post :=
  match p.mark with
  | some { setAgain := false, .. } => { p with mark := none }
  | _ => p

/-- The good outcome of an exchange goes to its owner (R190). -/
def State.deliver (s : State) (a : Nat) (ex : Exchange) (c : ReplyContent) : State :=
  match c, ex.req, s.row a ex.addr with
  | .post st, _, _ => s.postStatus a ex.addr st
  | .gate st, _, .gate n _ _ => s.gateStatus n st
  | .pump st, _, .pump n _ _ => s.pumpStatus n st
  | .ack, .postSet .., _ =>
    match s.post? a ex.addr with
    | some p => s.setPost a ex.addr p.acked
    | none => s
  | .ack, .gateStrike _, .gate n _ _ => s.setGate n (s.gate n).acked
  | .ack, .pumpAuth .., .pump n _ _ => s.setPump n ((s.pump n).acked true)
  | .ack, .pumpStop, .pump n _ _ => s.setPump n ((s.pump n).acked false)
  | .ack, .relayWrite .., _ => s.relayEnd a (some [])
  | .data bs, .relayRead .., _ => s.relayEnd a (some bs)
  | _, _, _ => s

/-- The bad outcome of an exchange: the block whose work it carried is told (R174, R190). -/
def State.failed (s : State) (a : Nat) (ex : Exchange) : State :=
  if ex.work = .relay then s.relayEnd a none else s

/-- The sweep in progress ends when its last poll's exchange has ended, and a waiting one then starts (R187). -/
def State.sweepEnd (s : State) (a : Nat) : State :=
  let A := s.arm a
  if A.sweep = some [] then
    if A.sweepWaiting then s.startSweep a else s.setArm a { A with sweep := none }
  else s

/-- The Relay Engine is told of the change of an arm from ACTIVE to DEGRADED (R181, R197). -/
def State.tellRelay (s : State) (a : Nat) (before after : ArmState) : State :=
  if before = .active ∧ after = .degraded then s.endTransfer a .degraded else s

/-- The outcome of an exchange, in the order of R174; `reply` is the content of a good one. -/
def State.exchangeEnd (s : State) (a : Nat) (ex : Exchange) (reply : Option ReplyContent) : State :=
  let s0 := s.setArm a { s.arm a with inFlight := none }
  if ex.req = .probe then s0.probeOutcome a reply.isSome
  else
    let before := (s.arm a).state
    let s2 := if reply.isSome then (s0.stationGood a ex.addr).errorsGood a else (s0.stationBad a ex.addr).errorsBad a
    let s3 := match reply with
      | some c => s2.deliver a ex c
      | none => s2.failed a ex
    (s3.tellRelay a before (s2.arm a).state).sweepEnd a

end Sys2Proof.Machine
end

