-- ==== Sys2Proof/Machine/Accounts.lean ====
section
/-! DEFINITION. The commands of the Account Unit (chapter 2). -/

namespace Sys2Proof.Machine

/-- ACCOUNT-DEBIT (R34). -/
def judgeAccountDebit (s : State) (f : AmountArgs) : Judged :=
  if ¬ (isAccount f.account = true ∧ inRange 1 999999 f.amount = true) then refuse s .range
  else if (s.account f.account).isOpen = false then refuse s .state
  else
    let t := s.debit f.account f.amount .office
    let a := t.account f.account
    answer t .done (.debited a.balance a.uncollected a.standing)

/-- ACCOUNT-DEBIT (R34). -/
def execAccountDebit (tag : Nat) (b : Body AmountArgs) (s : State) : Host.Outcome State Fault Refusal :=
  finishBus (takeRequest 0x20 tag b judgeAccountDebit s)

/-- The highest balance (R29, R41). -/
def balanceTop : Int := 9999999

/-- CREDIT (R41). -/
def judgeCredit (s : State) (f : AmountArgs) : Judged :=
  let a := s.account f.account
  if ¬ (isAccount f.account = true ∧ inRange 1 999999 f.amount = true) then refuse s .range
  else if a.isOpen = false then refuse s .state
  else if balanceTop < a.balance + f.amount then refuse s .range
  else
    let t := (s.setAccount f.account { a with balance := a.balance + f.amount }).recompute f.account
    let c := t.account f.account
    answer t .done (.credited c.balance c.available c.standing)

/-- CREDIT (R41). -/
def execCredit (tag : Nat) (b : Body AmountArgs) (s : State) : Host.Outcome State Fault Refusal :=
  finishBus (takeRequest 0x21 tag b judgeCredit s)

/-- The three values of ACCOUNT-OPEN and ACCOUNT-SET in range, with the account's number (R42, R43). -/
def limitsInRange (f : LimitsArgs) : Bool :=
  isAccount f.account && decide (f.overdraft ≤ 999999) && decide (f.lowThreshold ≤ 999999) && inRange 1 999999 f.restartMin

/-- The account ACCOUNT-OPEN leaves (R42). -/
def openedAccount (f : LimitsArgs) : Account :=
  let funds := fundsAfter .good f.overdraft f.lowThreshold f.restartMin
  { standing := funds.standing, funds := some funds, balance := 0, overdraft := f.overdraft, lowThreshold := f.lowThreshold,
    restartMin := f.restartMin, holds := [], uncollected := 0 }

/-- ACCOUNT-OPEN (R42). -/
def judgeAccountOpen (s : State) (f : LimitsArgs) : Judged :=
  if limitsInRange f = false then refuse s .range
  else if (s.account f.account).isOpen = true then refuse s .state
  else answer (s.setAccount f.account (openedAccount f)) .done (.standing (openedAccount f).standing)

/-- ACCOUNT-OPEN (R42). -/
def execAccountOpen (tag : Nat) (b : Body LimitsArgs) (s : State) : Host.Outcome State Fault Refusal :=
  finish (takeRequest 0x22 tag b judgeAccountOpen s)

/-- The account with its three values replaced (R43). -/
def Account.limited (a : Account) (f : LimitsArgs) : Account :=
  { a with overdraft := f.overdraft, lowThreshold := f.lowThreshold, restartMin := f.restartMin }

/-- ACCOUNT-SET (R43). -/
def judgeAccountSet (s : State) (f : LimitsArgs) : Judged :=
  let a := s.account f.account
  if limitsInRange f = false then refuse s .range
  else if a.isOpen = false then refuse s .state
  else
    let t := (s.setAccount f.account (a.limited f)).recompute f.account
    answer t .done (.standing (t.account f.account).standing)

/-- ACCOUNT-SET (R43). -/
def execAccountSet (tag : Nat) (b : Body LimitsArgs) (s : State) : Host.Outcome State Fault Refusal :=
  finishBus (takeRequest 0x23 tag b judgeAccountSet s)

/-- Whether a session of a post names an account. -/
def Post.names (p : Post) (n : Nat) : Bool :=
  p.points.any (fun x => x.session.any (fun ses => ses.account == n))

/-- Whether a service point session names an account (R44). -/
def State.sessionNames (s : State) (n : Nat) : Bool :=
  places.any (fun p => (s.post? p.1 p.2).any (fun x => x.names n))

/-- Whether a berth names an account as its occupant (R44). -/
def State.berthNames (s : State) (n : Nat) : Bool :=
  s.berths.toList.any (fun b => b.occupant == some n)

/-- ACCOUNT-CLOSE (R44). -/
def judgeAccountClose (s : State) (n : Nat) : Judged :=
  let a := s.account n
  if isAccount n = false then refuse s .range
  else if a.isOpen = false then refuse s .state
  else if a.holds ≠ [] then refuse s .state
  else if s.berthNames n then refuse s .state
  else if s.sessionNames n then refuse s .state
  else answer (s.setAccount n Account.reset) .done (.closedAccount a.balance a.uncollected)

/-- ACCOUNT-CLOSE (R44). -/
def execAccountClose (tag : Nat) (b : Body Nat) (s : State) : Host.Outcome State Fault Refusal :=
  finish (takeRequest 0x24 tag b judgeAccountClose s)

/-- ACCOUNT-QUERY (R45). -/
def judgeAccountQuery (s : State) (n : Nat) : Judged :=
  let a := s.account n
  if isAccount n = false then refuse s .range
  else answer s .done (.account a (if a.isOpen then some a.available else none))

/-- ACCOUNT-QUERY (R45). -/
def execAccountQuery (tag : Nat) (b : Body Nat) (s : State) : Host.Outcome State Fault Refusal :=
  finish (takeRequest 0x25 tag b judgeAccountQuery s)

/-- The account barred: the funds standing is kept (R46). -/
def State.barAccount (s : State) (n : Nat) : State :=
  let a := s.account n
  (s.setAccount n { a with standing := .barred }).onStanding n a.standing .barred

/-- BAR (R46). -/
def judgeBar (s : State) (n : Nat) : Judged :=
  let a := s.account n
  if isAccount n = false then refuse s .range
  else if a.isOpen = false ∨ a.standing = .barred then refuse s .state
  else doneWith (s.barAccount n)

/-- BAR (R46). -/
def execBar (tag : Nat) (b : Body Nat) (s : State) : Host.Outcome State Fault Refusal :=
  finishBus (takeRequest 0x26 tag b judgeBar s)

/-- The standing UNBAR returns an account to: its funds standing (R47). -/
def Account.unbarred (a : Account) : Standing :=
  match a.funds with
  | some f => f.standing
  | none => a.standing

/-- The account unbarred, with the action of R32 (R47). -/
def State.unbarAccount (s : State) (n : Nat) : State :=
  let a := s.account n
  (s.setAccount n { a with standing := a.unbarred }).onStanding n .barred a.unbarred

/-- UNBAR (R47). -/
def judgeUnbar (s : State) (n : Nat) : Judged :=
  let a := s.account n
  if isAccount n = false then refuse s .range
  else if a.standing ≠ .barred then refuse s .state
  else answer (s.unbarAccount n) .done (.standing a.unbarred)

/-- UNBAR (R47). -/
def execUnbar (tag : Nat) (b : Body Nat) (s : State) : Host.Outcome State Fault Refusal :=
  finishBus (takeRequest 0x27 tag b judgeUnbar s)

end Sys2Proof.Machine
end

