-- ==== Sys2Proof/Machine/Arms.lean ====
section
/-! DEFINITION. The commands of the Arm Bus Masters (chapter 9): their requests, the events of an exchange (R174), the probe, priority
period and slot timers (R183, R187, R188). -/

namespace Sys2Proof.Machine

/-! ### ARM-MODE (R184) -/

/-- An arm becomes ACTIVE by the office's word (R184): counts 0, stations UNSEEN, a priority sweep due at once, ARM-STATE. -/
def State.bringUp (s : State) (a : Nat) : State :=
  let left := (s.arm a).state
  ((s.setArm a { s.arm a with errors := 0, probes := 0 }).activate a true).post (.armState a left .active .office 0)

/-- ARM-MODE ENABLE (R184). -/
def judgeEnable (s : State) (a : Nat) : Judged :=
  if isArm a = false then refuse s .range
  else if (s.arm a).state ≠ .disabled then refuse s .state
  else doneWith (s.bringUp a)

/-- ARM-MODE ENABLE (R184). -/
def execArmModeEnable (tag : Nat) (b : Body Nat) (s : State) : Host.Outcome State Fault Refusal :=
  finishBus (takeRequest 0x50 tag b judgeEnable s)

/-- ARM-MODE RESTORE (R184). -/
def judgeRestore (s : State) (a : Nat) : Judged :=
  if isArm a = false then refuse s .range
  else if (s.arm a).state ≠ .isolated then refuse s .state
  else doneWith (s.bringUp a)

/-- ARM-MODE RESTORE (R184). -/
def execArmModeRestore (tag : Nat) (b : Body Nat) (s : State) : Host.Outcome State Fault Refusal :=
  finishBus (takeRequest 0x50 tag b judgeRestore s)

/-- Whether a station carries work that needs the bus (R184). -/
def State.needsBus (s : State) (a addr : Nat) : Bool :=
  match s.row a addr with
  | .post .. => (s.post? a addr).any (fun p => p.points.any (fun x => x.session.isSome))
  | .gate n _ _ => (s.gate n).monitor == .released
  | .pump n _ _ => (s.pump n).sale.isSome
  | .none => false

/-- An arm taken out of service (R184). The withheld RELAY reply that this completes (R197) stands in the reply list before the request's
own DONE (DESIGN CHOICE, log entry 36). -/
def State.takeDown (s : State) (a : Nat) : State :=
  let left := (s.arm a).state
  let s1 := (s.setArm a { s.arm a with inFlight := none }).relinkStations a Station.unseen true
  let s2 := s1.setArm a { (s1.arm a).stopped with state := .disabled, errors := 0 }
  (s2.endTransfer a .disabled).post (.armState a left .disabled .office 0)

/-- ARM-MODE DISABLE (R184). -/
def judgeDisable (s : State) (a : Nat) : Judged :=
  if isArm a = false then refuse s .range
  else if (s.arm a).state = .disabled then refuse s .state
  else
    match addresses.find? (s.needsBus a) with
    | some addr => answer s .state (.station addr)
    | none => doneWith (s.takeDown a)

/-- ARM-MODE DISABLE (R184). -/
def execArmModeDisable (tag : Nat) (b : Body Nat) (s : State) : Host.Outcome State Fault Refusal :=
  finishBus (takeRequest 0x50 tag b judgeDisable s)

/-! ### ARM-CONFIG and ARM-QUERY -/

/-- Whether the settings of ARM-CONFIG are in range, for an arm with a given table (R185). -/
def configInRange (A : Arm) (f : ArmConfigArgs) : Bool :=
  isArm f.arm && inRange 100 1000 f.period && inRange 50 1000 f.slot && inRange 4 40 f.window && inRange 1 15 f.silence &&
  (f.anchor == 0 || (isAddr f.anchor && (A.slot f.anchor).row.kind != .none))

/-- The arm with its settings replaced; a change of the anchor or the flag of an ISOLATED arm sets its probe count to 0 (R183, R185). -/
def Arm.configured (A : Arm) (f : ArmConfigArgs) : Arm :=
  { A with
    period := f.period, slotInterval := f.slot, window := f.window, silence := f.silence, anchor := f.anchor
    autoRestore := f.autoRestore
    probes := if A.state = .isolated ∧ (f.anchor ≠ A.anchor ∨ f.autoRestore ≠ A.autoRestore) then 0 else A.probes }

/-- ARM-CONFIG (R185). -/
def judgeArmConfig (s : State) (f : ArmConfigArgs) : Judged :=
  if configInRange (s.arm f.arm) f = false then refuse s .range
  else doneWith (s.setArm f.arm ((s.arm f.arm).configured f))

/-- ARM-CONFIG (R185). -/
def execArmConfig (tag : Nat) (b : Body ArmConfigArgs) (s : State) : Host.Outcome State Fault Refusal :=
  finish (takeRequest 0x51 tag b judgeArmConfig s)

/-- The mark of a station: whether it is present, and for a post whether it is SAFETY (R186). -/
def State.markAt (s : State) (a addr : Nat) : Bool × Option Bool :=
  match s.row a addr with
  | .post .. =>
    match (s.post? a addr).bind (·.mark) with
    | some m => (true, some m.safety)
    | none => (false, none)
  | .gate n _ _ => ((s.gate n).mark.isSome, none)
  | .pump n _ _ => ((s.pump n).mark.isSome, none)
  | .none => (false, none)

/-- One address of ARM-QUERY (R186). -/
def State.addressReport (s : State) (a addr : Nat) : AddressReport :=
  { kind := (s.row a addr).kind, station := (s.slot a addr).station.map (fun st => (st, s.markAt a addr)) }

/-- ARM-QUERY (R186). -/
def judgeArmQuery (s : State) (a : Nat) : Judged :=
  let A := s.arm a
  if isArm a = false then refuse s .range
  else
    answer s .done (.arm A.state A.errors A.period A.slotInterval A.window A.silence A.anchor A.autoRestore A.anchorInForce A.probes
      A.pointer A.sweep A.checksum (addresses.map (s.addressReport a)))

/-- ARM-QUERY (R186). -/
def execArmQuery (tag : Nat) (b : Body Nat) (s : State) : Host.Outcome State Fault Refusal :=
  finish (takeRequest 0x52 tag b judgeArmQuery s)

/-! ### The exchange (R174) -/

/-- The request frame in flight on an arm has been sent: the exchange begins, with the reply window in force (R174, R185). -/
def State.requestSent (s : State) (a : Nat) : State :=
  let A := s.arm a
  match A.inFlight with
  | some ex =>
    if ex.begun then s else s.setArm a { A with inFlight := some { ex with begun := true, window := A.window } }
  | none => s

/-- ARM-REQUEST-SENT (R174). -/
def execArmRequestSent (arm : Nat) (s : State) : Host.Outcome State Fault Refusal :=
  finish (s.requestSent arm)

/-- A reply frame received whole within the window ends the exchange, good or bad (R174). With no exchange begun it belongs to none and is
discarded. -/
def State.replyReceived (s : State) (a : Nat) (bs : List Byte) : State :=
  match (s.arm a).inFlight with
  | some ex =>
    if ex.begun then s.exchangeEnd a ex (judgeReply (s.row a ex.addr).kind ex.addr ex.req bs) else s
  | none => s

/-- EXCHANGE-REPLY (R174). -/
def execExchangeReply (arm : Nat) (bytes : List Byte) (s : State) : Host.Outcome State Fault Refusal :=
  finishBus (s.replyReceived arm bytes)

/-- The reply window of an exchange that has begun expires: the exchange is bad (R174). -/
def State.windowExpired (s : State) (a : Nat) : State :=
  match (s.arm a).inFlight with
  | some ex => if ex.begun then s.exchangeEnd a ex none else s
  | none => s

/-- REPLY-WINDOW-EXPIRY (R174). -/
def execReplyWindowExpiry (arm : Nat) (s : State) : Host.Outcome State Fault Refusal :=
  finishBus (s.windowExpired arm)

/-- LATE-REPLY (R174): a reply received after its window belongs to no exchange and is discarded. -/
def execLateReply (_arm : Nat) (_bytes : List Byte) (s : State) : Host.Outcome State Fault Refusal :=
  .next s

/-! ### Timers -/

/-- The probe timer of an ISOLATED arm ends (R183). -/
def State.probeFalls (s : State) (a : Nat) : State :=
  let A := s.arm a
  if A.state = .isolated ∧ A.probeTimer = true then s.setArm a { A with probeDue := true } else s

/-- PROBE-DUE (R183). -/
def execProbeDue (arm : Nat) (s : State) : Host.Outcome State Fault Refusal :=
  finishBus (s.probeFalls arm)

/-- A priority period ends: the next starts with the period then in force, and a sweep falls due (R185, R187). -/
def State.periodEnds (s : State) (a : Nat) : State :=
  let A := s.arm a
  if A.periodRunning.isSome then (s.setArm a { A with periodRunning := some A.period }).sweepDue a else s

/-- PRIORITY-SWEEP-DUE (R187). -/
def execPrioritySweepDue (arm : Nat) (s : State) : Host.Outcome State Fault Refusal :=
  finishBus (s.periodEnds arm)

/-- A slot interval ends: the next starts with the interval then in force, and a poll falls due where the arm has a station (R181,
R185, R188). -/
def State.slotEnds (s : State) (a : Nat) : State :=
  let A := s.arm a
  if A.slotRunning.isSome then
    s.setArm a { A with slotRunning := some A.slotInForce, pollDue := A.pollDue || !A.stations.isEmpty }
  else s

/-- REGULAR-SLOT (R188). -/
def execRegularSlot (arm : Nat) (s : State) : Host.Outcome State Fault Refusal :=
  finishBus (s.slotEnds arm)

end Sys2Proof.Machine
end

