-- ==== Sys2Proof/Machine/Berths.lean ====
section
/-! DEFINITION. The commands of the Berth Register (chapter 1): its nine requests, the deadline scanner's visit (R20 to R24), the
departure close timeout (R14) and the midnight event (R25). -/

namespace Sys2Proof.Machine

/-! ### Reservation and arrival -/

/-- Whether an account may take a berth: not CLOSED and not BARRED (R6, R8). -/
def State.accountAdmits (s : State) (n : Nat) : Bool :=
  (s.account n).standing != .closed && (s.account n).standing != .barred

/-- The berth a RESERVE leaves (R6). -/
def Berth.reserved (b : Berth) (f : ReserveArgs) : Berth :=
  { b with
    state := .reserved, occupant := some f.account
    reservation := some { deadline := f.deadline, enabled := f.deadlineEnable, planned := f.planned }
    overstay := false, overdueSent := false, feesPending := 0, arrival := none }

/-- RESERVE (R6). -/
def judgeReserve (s : State) (f : ReserveArgs) : Judged :=
  if ¬ (isBerth f.berth = true ∧ isAccount f.account = true) then refuse s .range
  else if (s.berth f.berth).state ≠ .free then refuse s .state
  else if s.accountAdmits f.account = false then refuse s .denied
  else doneWith (s.setBerth f.berth ((s.berth f.berth).reserved f))

/-- RESERVE (R6). -/
def execReserve (tag : Nat) (b : Body ReserveArgs) (s : State) : Host.Outcome State Fault Refusal :=
  finish (takeRequest 0x10 tag b judgeReserve s)

/-- The berth with its planned departure replaced. -/
def Berth.plan (b : Berth) (planned : Option Nat) : Berth :=
  { b with reservation := b.reservation.map (fun r => { r with planned := planned }) }

/-- CHECK-IN on an awaited berth: an arrival, then the planned departure where one is given (R8). -/
def State.checkInAwaited (s : State) (f : CheckInArgs) : State :=
  let s1 := s.arrive f.berth .checkIn none
  match f.planned with
  | some t => s1.setBerth f.berth ((s1.berth f.berth).plan (some t))
  | none => s1

/-- The berth a walk-in leaves (R8). -/
def Berth.walkedIn (b : Berth) (f : CheckInArgs) (now : Nat) : Berth :=
  { b with
    state := .occupied, occupant := some f.account
    reservation := some { deadline := now, enabled := false, planned := f.planned }
    arrival := some now, overstay := false, overdueSent := false }

/-- CHECK-IN on a FREE berth (R8). -/
def State.walkIn (s : State) (f : CheckInArgs) : State :=
  (s.setBerth f.berth ((s.berth f.berth).walkedIn f s.clock)).post (.arrived f.berth f.account .checkIn none false)

/-- CHECK-IN (R8). -/
def judgeCheckIn (s : State) (f : CheckInArgs) : Judged :=
  let b := s.berth f.berth
  if ¬ (isBerth f.berth = true ∧ f.account ≤ 256) then refuse s .range
  else if b.state = .free then
    if f.account = 0 then refuse s .range
    else if s.accountAdmits f.account = false then refuse s .denied
    else doneWith (s.walkIn f)
  else if b.state.isAwaited then
    if f.account = 0 ∨ b.occupant = some f.account then doneWith (s.checkInAwaited f) else refuse s .range
  else refuse s .state

/-- CHECK-IN (R8). -/
def execCheckIn (tag : Nat) (b : Body CheckInArgs) (s : State) : Host.Outcome State Fault Refusal :=
  finish (takeRequest 0x11 tag b judgeCheckIn s)

/-- RESERVED, OVERDUE or OCCUPIED: the states DEPARTURE-SET takes (R11). -/
def BerthState.takesPlan : BerthState → Bool
  | .reserved => true
  | .overdue => true
  | .occupied => true
  | _ => false

/-- DEPARTURE-SET (R11). -/
def judgeDepartureSet (s : State) (f : DepartureArgs) : Judged :=
  if isBerth f.berth = false then refuse s .range
  else if (s.berth f.berth).state.takesPlan = false then refuse s .state
  else doneWith (s.setBerth f.berth { (s.berth f.berth).plan f.planned with overstay := false })

/-- DEPARTURE-SET (R11). -/
def execDepartureSet (tag : Nat) (b : Body DepartureArgs) (s : State) : Host.Outcome State Fault Refusal :=
  finish (takeRequest 0x12 tag b judgeDepartureSet s)

/-! ### Departure -/

/-- The price of a number of nights at a berth (R12, R24). -/
def State.nightsPrice (s : State) (b : Nat) : Nat :=
  (s.berth b).feesPending * nightFee s.rateRows (s.berth b).lengthClass

/-- One DEBIT of the pending nights to the occupant account, where the product is above 0 (R12, R24). -/
def State.debitNights (s : State) (b : Nat) : State :=
  if 0 < s.nightsPrice b then s.debit (s.occupantOf (some b)) (s.nightsPrice b) .nightFee else s

/-- Fees pending becomes 0. -/
def State.clearFees (s : State) (b : Nat) : State :=
  s.setBerth b { s.berth b with feesPending := 0 }

/-- CHECK-OUT's first step (R12): the pending nights are debited, or discarded with a notice. -/
def State.settleFees (s : State) (b : Nat) : State :=
  let n := (s.berth b).feesPending
  if n = 0 then s
  else if s.ratesValid then (s.debitNights b).clearFees b
  else (s.post (.feesUnpriced b (s.occupantOf (some b)) n)).clearFees b

/-- CHECK-OUT's second and third steps (R12). -/
def State.startDeparture (s : State) (b : Nat) : State :=
  (s.setBerth b { s.berth b with state := .departing, checkOut := some s.clock }).checkOutOrder b

/-- Whether every service point of a berth is OFF or FAULT, or it has none (R12). -/
def State.berthAtRest (s : State) (b : Nat) : Bool :=
  (s.berthPoints b).all (fun r => s.pointIs r PointState.atRest)

/-- CHECK-OUT of an OCCUPIED berth (R12). -/
def State.checkOutOccupied (s : State) (b : Nat) : Judged :=
  let s1 := (s.settleFees b).startDeparture b
  if s1.berthAtRest b then doneWith (s1.endDeparture b 0) else answer s1 .accepted .empty

/-- CHECK-OUT (R12). -/
def judgeCheckOut (s : State) (b : Nat) : Judged :=
  if isBerth b = false then refuse s .range
  else
    match (s.berth b).state with
    | .reserved => doneWith (s.setBerth b (s.berth b).freed)
    | .overdue => doneWith (s.setBerth b (s.berth b).freed)
    | .occupied => s.checkOutOccupied b
    | _ => refuse s .state

/-- CHECK-OUT (R12). -/
def execCheckOut (tag : Nat) (b : Body Nat) (s : State) : Host.Outcome State Fault Refusal :=
  finishBus (takeRequest 0x13 tag b judgeCheckOut s)

/-- The departure close timeout of a berth (R14); it acts where it has come (log entry 2). -/
def execDepartureCloseTimeout (berth : Nat) (s : State) : Host.Outcome State Fault Refusal :=
  finishBus (s.departureTimeout berth)

/-! ### Configuration -/

/-- The berth with its five configuration fields replaced (R16). -/
def Berth.configured (b : Berth) (f : BerthSetArgs) (p : PowerClass) : Berth :=
  { b with
    lengthClass := f.lengthClass, powerClass := p, water := f.water, autoArrival := f.autoArrival, nightlyFee := f.nightlyFee }

/-- BERTH-SET (R16). -/
def judgeBerthSet (s : State) (f : BerthSetArgs) : Judged :=
  let b := s.berth f.berth
  match powerClassOf f.powerClass with
  | none => refuse s .range
  | some p =>
    if ¬ (isBerth f.berth = true ∧ f.lengthClass ≤ 5) then refuse s .range
    else if b.state.isHeld = true ∧ (p ≠ b.powerClass ∨ f.water ≠ b.water) then refuse s .denied
    else doneWith (s.setBerth f.berth (b.configured f p))

/-- BERTH-SET (R16). -/
def execBerthSet (tag : Nat) (b : Body BerthSetArgs) (s : State) : Host.Outcome State Fault Refusal :=
  finish (takeRequest 0x14 tag b judgeBerthSet s)

/-- A move of a berth from one state to another, refused elsewhere (R17). -/
def moveBerth (source target : BerthState) (s : State) (b : Nat) : Judged :=
  if isBerth b = false then refuse s .range
  else if (s.berth b).state ≠ source then refuse s .state
  else doneWith (s.setBerth b { s.berth b with state := target })

/-- CLOSE (R17). -/
def execClose (tag : Nat) (b : Body Nat) (s : State) : Host.Outcome State Fault Refusal :=
  finish (takeRequest 0x15 tag b (moveBerth .free .closed) s)

/-- OPEN (R17). -/
def execOpen (tag : Nat) (b : Body Nat) (s : State) : Host.Outcome State Fault Refusal :=
  finish (takeRequest 0x16 tag b (moveBerth .closed .free) s)

/-- BERTH-QUERY (R18). -/
def judgeBerthQuery (s : State) (b : Nat) : Judged :=
  if isBerth b = false then refuse s .range
  else answer s .done (.berth b (s.berth b) (s.boundSide b))

/-- BERTH-QUERY (R18). -/
def execBerthQuery (tag : Nat) (b : Body Nat) (s : State) : Host.Outcome State Fault Refusal :=
  finish (takeRequest 0x17 tag b judgeBerthQuery s)

/-- GRACE-SET (R19). -/
def judgeGraceSet (s : State) (minutes : Nat) : Judged :=
  if 720 < minutes then refuse s .range else doneWith { s with grace := minutes }

/-- GRACE-SET (R19). -/
def execGraceSet (tag : Nat) (b : Body Nat) (s : State) : Host.Outcome State Fault Refusal :=
  finish (takeRequest 0x18 tag b judgeGraceSet s)

/-! ### The deadline scanner -/

/-- A visit of a RESERVED berth (R21). -/
def State.visitReserved (s : State) (b : Nat) (r : Reservation) : State :=
  let x := s.berth b
  if r.enabled = true ∧ r.deadline ≤ s.clock then
    (s.setBerth b { x with state := .overdue, overdueSent := true }).post (.overdue b (x.occupant.getD 0) r.deadline)
  else s

/-- A visit of an OVERDUE berth (R22). The sum is exact, so one above the largest marina time is never reached. -/
def State.visitOverdue (s : State) (b : Nat) (r : Reservation) : State :=
  let x := s.berth b
  if r.deadline + s.grace * 60 ≤ s.clock then
    (s.setBerth b x.freed).post (.lapsed b (x.occupant.getD 0) r.deadline)
  else s

/-- A visit of an OCCUPIED berth, first part (R23). -/
def State.visitStay (s : State) (b : Nat) (r : Reservation) : State :=
  let x := s.berth b
  match r.planned with
  | some t =>
    if x.overstay = false ∧ t ≤ s.clock then
      (s.setBerth b { x with overstay := true }).post (.overstay b (x.occupant.getD 0) t)
    else s
  | none => s

/-- A visit of an OCCUPIED berth, second part (R24). -/
def State.visitFees (s : State) (b : Nat) : State :=
  if 0 < (s.berth b).feesPending ∧ s.ratesValid = true then (s.debitNights b).clearFees b else s

/-- What a visit does to the berth's reservation or stay (R21 to R23). -/
def State.visitStep (s : State) (b : Nat) : State :=
  let x := s.berth b
  match x.state, x.reservation with
  | .reserved, some r => s.visitReserved b r
  | .overdue, some r => s.visitOverdue b r
  | .occupied, some r => s.visitStay b r
  | _, _ => s

/-- A visit of a berth (R20). -/
def State.visit (s : State) (b : Nat) : State :=
  let s1 := s.visitStep b
  if (s1.berth b).state = .occupied then s1.visitFees b else s1

/-- The pointer's next berth (R20). -/
def nextBerth (p : Nat) : Nat :=
  if 200 ≤ p then 1 else p + 1

/-- SCANNER-VISIT (R20): the berth at the pointer is visited and the pointer advances. -/
def execScannerVisit (s : State) : Host.Outcome State Fault Refusal :=
  finishBus { s.visit s.scanPtr with scanPtr := nextBerth s.scanPtr }

/-! ### The midnight event -/

/-- A night is counted (R25). -/
def Berth.midnight (b : Berth) : Berth :=
  if b.state = .occupied ∧ b.nightlyFee = true then { b with feesPending := satAdd 255 b.feesPending 1 } else b

/-- The midnight event (R25). -/
def State.midnight (s : State) : State :=
  { s with berths := s.berths.map Berth.midnight }

end Sys2Proof.Machine
end

