-- ==== Sys2Proof/Machine/Credentials.lean ====
section
/-! DEFINITION. The commands of the Credential Matcher (chapter 3). Its table is replaced by LOAD-COMMIT (Tables.lean). -/

namespace Sys2Proof.Machine

/-- CREDENTIAL-READ (R61). -/
def judgeCredentialRead (s : State) (row : Nat) : Judged :=
  if 512 ≤ row then refuse s .range
  else if s.creds.state = .empty then refuse s .state
  else answer s .done (.credential s.creds.state (s.credRow row))

/-- CREDENTIAL-READ (R61). -/
def execCredentialRead (tag : Nat) (b : Body Nat) (s : State) : Host.Outcome State Fault Refusal :=
  finish (takeRequest 0x28 tag b judgeCredentialRead s)

/-- The window verdict of an answer (R62). -/
def MatchAnswer.verdict (now : Nat) : MatchAnswer → Verdict
  | .hit _ r => r.verdict now
  | _ => .none

/-- MATCH-TEST (R62). Its reply reports the table state too (R51); that it stands before the answer is a DESIGN CHOICE (log entry 35). -/
def judgeMatchTest (s : State) (card : Card) : Judged :=
  answer s .done (.matched s.creds.state (s.consult card) ((s.consult card).verdict s.clock))

/-- MATCH-TEST (R62). -/
def execMatchTest (tag : Nat) (b : Body Card) (s : State) : Host.Outcome State Fault Refusal :=
  finish (takeRequest 0x29 tag b judgeMatchTest s)

end Sys2Proof.Machine
end

