-- ==== Sys2Proof/Machine/Fuel.lean ====
section
/-! DEFINITION. The commands of the Fuel Dock Controller (chapter 8): its six requests, the READY timeout (R158) and the link-loss
window (R166). -/

namespace Sys2Proof.Machine

/-- Whether the numbers of an authorization are in range (R156). -/
def fuelAuthInRange (f : FuelAuthArgs) : Bool :=
  isPump f.pump && decide (f.nozzle ≤ 1) && decide (1 ≤ f.limit ∧ f.limit ≤ 999999) && decide (f.account ≤ 256)

/-- The sale FUEL-AUTHORIZE opens, with its account and hold or without (R156). -/
def State.officeSale (s : State) (f : FuelAuthArgs) (account : Option Nat) (limit : Nat) (holdId : Option Nat) : Sale :=
  Sale.opened account none f.nozzle ((s.pump f.pump).gradeOf f.nozzle) (s.nozzlePrice f.pump f.nozzle) limit holdId s.clock

/-- The sale opened, with the DONE reply (R156). -/
def State.authorize (s : State) (p : Nat) (sale : Sale) : Judged :=
  answer (s.openSale p sale) .done (.authorized sale.price sale.limit sale.preset)

/-- FUEL-AUTHORIZE (R156). -/
def judgeFuelAuthorize (s : State) (f : FuelAuthArgs) : Judged :=
  if fuelAuthInRange f = false then refuse s .range
  else if (s.pump f.pump).state ≠ .idle then refuse s .state
  else if s.ratesValid = false then refuse s .state
  else if f.account = 0 then s.authorize f.pump (s.officeSale f none f.limit none)
  else
    match s.hold f.account f.pump f.limit (minimumSale s.rateRows) with
    | (t, .error r) => answer t .denied (.holdRefused r)
    | (t, .ok (id, amount)) => t.authorize f.pump (s.officeSale f (some f.account) amount (some id))

/-- FUEL-AUTHORIZE (R156). -/
def execFuelAuthorize (tag : Nat) (b : Body FuelAuthArgs) (s : State) : Host.Outcome State Fault Refusal :=
  finishBus (takeRequest 0x48 tag b judgeFuelAuthorize s)

/-- FUEL-ABORT of a FUELLING pump (R159). -/
def Pump.aborted (x : Pump) : Pump :=
  { x.want .stop with state := .stopping, sale := x.sale.map (fun sale => { sale with abortTaken := true }) }

/-- FUEL-ABORT (R159). -/
def judgeFuelAbort (s : State) (p : Nat) : Judged :=
  if isPump p = false then refuse s .range
  else
    match (s.pump p).state with
    | .ready => doneWith (s.discardSale p (fun sale => .abortDone p sale.volume sale.amount))
    | .fuelling => answer (s.setPump p (s.pump p).aborted) .accepted .empty
    | _ => refuse s .tooLate

/-- FUEL-ABORT (R159). -/
def execFuelAbort (tag : Nat) (b : Body Nat) (s : State) : Host.Outcome State Fault Refusal :=
  finishBus (takeRequest 0x49 tag b judgeFuelAbort s)

/-- A BLOCKED pump's held sale moves into the freed slot as the newest (R163). -/
def State.unblock (s : State) (p : Nat) : State :=
  let x := s.pump p
  match x.state, x.sale with
  | .blocked, some sale => s.setPump p { (x.atRest (s.restState p)) with slots := x.slots ++ [sale] }
  | _, _ => s

/-- SALE-COLLECT (R163). -/
def judgeSaleCollect (s : State) (p : Nat) : Judged :=
  if isPump p = false then refuse s .range
  else
    match (s.pump p).slots with
    | [] => refuse s .state
    | sale :: rest => answer ((s.setPump p { s.pump p with slots := rest }).unblock p) .done (.sale sale rest.length)

/-- SALE-COLLECT (R163). -/
def execSaleCollect (tag : Nat) (b : Body Nat) (s : State) : Host.Outcome State Fault Refusal :=
  finish (takeRequest 0x4A tag b judgeSaleCollect s)

/-- The held sale of a BLOCKED pump whose protect flag is clear is placed by the overwrite row of R162 (R169). -/
def State.placeHeld (s : State) (p : Nat) : State :=
  let x := s.pump p
  match x.state, x.sale with
  | .blocked, some sale => if x.protect then s else s.overwriteSlot p sale
  | _, _ => s

/-- PUMP-PROTECT (R169). -/
def judgePumpProtect (s : State) (f : ProtectArgs) : Judged :=
  if isPump f.pump = false then refuse s .range
  else doneWith ((s.setPump f.pump { s.pump f.pump with protect := f.flag }).placeHeld f.pump)

/-- PUMP-PROTECT (R169). -/
def execPumpProtect (tag : Nat) (b : Body ProtectArgs) (s : State) : Host.Outcome State Fault Refusal :=
  finish (takeRequest 0x4B tag b judgePumpProtect s)

/-- The READY timeout and the link-loss window of every pump are judged (R158, R166, R169), pumps in number order (log entry 10). -/
def State.judgePumpTimers (s : State) : State :=
  (List.range 4).foldl (fun t p => (t.readyExpiry p).linkLossExpiry p) s

/-- FUEL-TIMERS-SET (R169). -/
def judgeFuelTimersSet (s : State) (f : TimersArgs) : Judged :=
  if ¬ (inRange 30 600 f.ready = true ∧ inRange 60 3600 f.window = true) then refuse s .range
  else doneWith { s with readyTimeout := f.ready, linkLossWindow := f.window }.judgePumpTimers

/-- FUEL-TIMERS-SET (R169). -/
def execFuelTimersSet (tag : Nat) (b : Body TimersArgs) (s : State) : Host.Outcome State Fault Refusal :=
  finishBus (takeRequest 0x4C tag b judgeFuelTimersSet s)

/-- PUMP-QUERY (R169). -/
def judgePumpQuery (s : State) (p : Nat) : Judged :=
  if isPump p = false then refuse s .range else answer s .done (.pump p (s.pump p))

/-- PUMP-QUERY (R169). -/
def execPumpQuery (tag : Nat) (b : Body Nat) (s : State) : Host.Outcome State Fault Refusal :=
  finish (takeRequest 0x4D tag b judgePumpQuery s)

/-- READY-TIMEOUT of a pump (R158); it acts where it has come (log entry 2). -/
def execReadyTimeout (pump : Nat) (s : State) : Host.Outcome State Fault Refusal :=
  finishBus (s.readyExpiry pump)

/-- LINK-LOSS-WINDOW of a pump (R166); it acts where it has come (log entry 2). -/
def execLinkLossWindow (pump : Nat) (s : State) : Host.Outcome State Fault Refusal :=
  finishBus (s.linkLossExpiry pump)

end Sys2Proof.Machine
end

