-- ==== Sys2Proof/Machine/Gates.lean ====
section
/-! DEFINITION. The commands of the Gate Controller (chapter 4): its six requests and the two expiries of R79. -/

namespace Sys2Proof.Machine

/-- GATE-MODE (R66). -/
def judgeGateMode (s : State) (f : GateModeArgs) : Judged :=
  match gateModeOf f.mode with
  | none => refuse s .range
  | some m => if isGate f.gate = false then refuse s .range else doneWith (s.setGateMode f.gate m)

/-- GATE-MODE (R66). -/
def execGateMode (tag : Nat) (b : Body GateModeArgs) (s : State) : Host.Outcome State Fault Refusal :=
  finishBus (takeRequest 0x30 tag b judgeGateMode s)

/-- A remote grant (R85). -/
def State.remoteGrant (s : State) (g : Nat) : State :=
  (s.releaseGate g).post (.passage g (s.gatePontoon g) .remote none none none true none .none none)

/-- GATE-OPEN (R85). -/
def judgeGateOpen (s : State) (g : Nat) : Judged :=
  if isGate g = false then refuse s .range
  else if (s.gate g).station.isNone then refuse s .state
  else if s.gateOnline g = false then refuse s .busy
  else if (s.gate g).mode = .free then doneWith s
  else doneWith (s.remoteGrant g)

/-- GATE-OPEN (R85). -/
def execGateOpen (tag : Nat) (b : Body Nat) (s : State) : Host.Outcome State Fault Refusal :=
  finishBus (takeRequest 0x31 tag b judgeGateOpen s)

/-- GATE-QUERY (R86). -/
def judgeGateQuery (s : State) (g : Nat) : Judged :=
  if isGate g = false then refuse s .range
  else
    answer s .done (.gate g (s.gate g) (s.gateOnline g)
      ((s.gate g).pontoon.map (fun p => ((s.pontoon p).tracking, s.count p))))

/-- GATE-QUERY (R86). -/
def execGateQuery (tag : Nat) (b : Body Nat) (s : State) : Host.Outcome State Fault Refusal :=
  finish (takeRequest 0x32 tag b judgeGateQuery s)

/-- PONTOON-SET (R82). -/
def judgePontoonSet (s : State) (f : PontoonSetArgs) : Judged :=
  if ¬ (isPontoon f.pontoon = true ∧ f.limit ≤ 256) then refuse s .range
  else if f.limit < s.count f.pontoon then answer s .state (.count (s.count f.pontoon))
  else doneWith (s.setPontoon f.pontoon { s.pontoon f.pontoon with limit := f.limit })

/-- PONTOON-SET (R82). -/
def execPontoonSet (tag : Nat) (b : Body PontoonSetArgs) (s : State) : Host.Outcome State Fault Refusal :=
  finish (takeRequest 0x33 tag b judgePontoonSet s)

/-- The pontoons a selector covers (R83). -/
def selPontoons : PresenceSel → List Nat
  | .pontoon p => [p]
  | _ => List.range 6

/-- Whether a presence record matches a selector (R83). -/
def selMatches : PresenceSel → Presence → Bool
  | .all, _ => true
  | .pontoon p, r => r.pontoon == p
  | .card c, r => r.card == c

/-- Whether a selector and a first position are in range (R83). -/
def presenceInRange (f : PresenceArgs) : Bool :=
  decide (f.first ≤ 255) &&
  (match f.sel with
    | .pontoon p => isPontoon p
    | _ => true)

/-- PRESENCE-QUERY (R83). -/
def judgePresenceQuery (s : State) (f : PresenceArgs) : Judged :=
  if presenceInRange f = false then refuse s .range
  else
    let l := s.presence.filter (selMatches f.sel)
    answer s .done (.presence ((selPontoons f.sel).map (fun p => ((s.pontoon p).limit, s.count p, (s.pontoon p).tracking)))
      l.length ((l.drop f.first).take 16))

/-- PRESENCE-QUERY (R83). -/
def execPresenceQuery (tag : Nat) (b : Body PresenceArgs) (s : State) : Host.Outcome State Fault Refusal :=
  finish (takeRequest 0x34 tag b judgePresenceQuery s)

/-- PRESENCE-REMOVE (R84). -/
def judgePresenceRemove (s : State) (c : Card) : Judged :=
  match s.presenceOf c with
  | none => refuse s .state
  | some r => answer (s.setPresence (withoutCard s.presence c)) .done (.removed r.pontoon r.entry)

/-- PRESENCE-REMOVE (R84). -/
def execPresenceRemove (tag : Nat) (b : Body Card) (s : State) : Host.Outcome State Fault Refusal :=
  finish (takeRequest 0x35 tag b judgePresenceRemove s)

/-- STRIKE-END-EXPIRY (R79); it acts where the strike end has come (log entry 2). -/
def execStrikeEndExpiry (gate : Nat) (s : State) : Host.Outcome State Fault Refusal :=
  finishBus (s.strikeExpiry gate)

/-- HOLD-EXPIRY (R79); it acts where the hold expiry has come (log entry 2). -/
def execHoldExpiry (gate : Nat) (s : State) : Host.Outcome State Fault Refusal :=
  finish (s.holdExpiry gate)

end Sys2Proof.Machine
end

