-- ==== Sys2Proof/Machine/Outlets.lean ====
section
/-! DEFINITION. The outlet requests of the Service Point Controller (R108 to R112). -/

namespace Sys2Proof.Machine

/-! ### Selectors (R108) -/

/-- Whether a selector's numbers are in range (R108). -/
def selInRange : OutletSel → Bool
  | .side a d side => isArm a && isAddr d && decide (side ≤ 1)
  | .berth b => isBerth b

/-- The post side a selector names, none where the station is no POST or the berth has no bound side (R108). -/
def State.selected (s : State) : OutletSel → Option SideRef
  | .side a d side =>
    match s.row a d with
    | .post .. => some { arm := a, addr := d, side := side }
    | _ => none
  | .berth b => s.boundSide b

/-- The points of a side with the named services (R108). -/
def SideRef.points (d : SideRef) (svcs : List Service) : List PointRef :=
  svcs.map (fun v => { arm := d.arm, addr := d.addr, side := d.side, svc := v })

/-- The states of points after a request (R108). -/
def State.pointStates (s : State) (rs : List PointRef) : List PointState :=
  rs.filterMap s.stateOf

/-- A selector judged (R108): RANGE, then STATE, then the request's own judgement of the side and the selected points. -/
def onPoints (sel : OutletSel) (service : Nat) (act : State → SideRef → List PointRef → Judged) (s : State) : Judged :=
  match servicesOf service with
  | none => refuse s .range
  | some svcs =>
    if selInRange sel = false then refuse s .range
    else
      match s.selected sel with
      | none => refuse s .state
      | some d => act s d (d.points svcs)

/-- DONE where at least one selected point was acted on, STATE where none, with the states of all (R108). -/
def actedOn (acted : Bool) (s : State) (rs : List PointRef) : Judged :=
  answer s (if acted then .done else .state) (.points (s.pointStates rs))

/-- A change of each selected point that meets a condition, answered as R108 gives. -/
def actEach (p : State → PointRef → Bool) (f : State → PointRef → State) (s : State) (rs : List PointRef) : Judged :=
  actedOn (rs.any (p s)) ((rs.filter (p s)).foldl f s) rs

/-! ### Start, stop, suspend -/

/-- OUTLET-START on the selected points (R109). A STATE reply that acts on none carries their states (R108, log entry 30). -/
def startOutlets (s : State) (d : SideRef) (rs : List PointRef) : Judged :=
  let b := s.sideBerth d.arm d.addr d.side
  if s.occupied b = false then actedOn false s rs
  else if s.inFunds (s.occupantOf b) = false then refuse s .denied
  else if (s.arm d.arm).state = .disabled then refuse s .busy
  else
    actEach (fun t r => t.provisioned b r.svc && t.pointIs r (· == .off)) (fun t r => t.openSession r (s.occupantOf b) none) s rs

/-- OUTLET-START (R109). -/
def execOutletStart (tag : Nat) (b : Body OutletArgs) (s : State) : Host.Outcome State Fault Refusal :=
  finishBus (takeRequest 0x38 tag b (fun t f => onPoints f.sel f.service startOutlets t) s)

/-- OUTLET-STOP on the selected points (R110). -/
def stopOutlets (s : State) (_ : SideRef) (rs : List PointRef) : Judged :=
  actEach (fun t r => t.pointIs r PointState.closable) (fun t r => t.startClosing r .office) s rs

/-- OUTLET-STOP (R110). -/
def execOutletStop (tag : Nat) (b : Body OutletArgs) (s : State) : Host.Outcome State Fault Refusal :=
  finishBus (takeRequest 0x39 tag b (fun t f => onPoints f.sel f.service stopOutlets t) s)

/-- The points OUTLET-SUSPEND acts on (R110). -/
def Point.officeSuspendable (x : Point) : Bool :=
  match x.state with
  | .live => true
  | .starting => true
  | .suspended => x.session.any (fun ses => ses.suspension == some .credit || ses.suspension == some .barred)
  | _ => false

/-- A point suspended by the office's word (R110). -/
def State.officeSuspend (s : State) (r : PointRef) : State :=
  match s.point? r with
  | some x =>
    match x.session with
    | some ses => s.changePoint r { x with state := .suspended, session := some (ses.suspend .office) }
    | none => s
  | none => s

/-- OUTLET-SUSPEND on the selected points (R110). -/
def suspendOutlets (s : State) (_ : SideRef) (rs : List PointRef) : Judged :=
  actEach (fun t r => (t.point? r).any Point.officeSuspendable) State.officeSuspend s rs

/-- OUTLET-SUSPEND (R110). -/
def execOutletSuspend (tag : Nat) (b : Body OutletArgs) (s : State) : Host.Outcome State Fault Refusal :=
  finishBus (takeRequest 0x3A tag b (fun t f => onPoints f.sel f.service suspendOutlets t) s)

/-! ### Release (R111) -/

/-- Whether a SUSPENDED or TRIPPED point fails a release with cause OFFICE for its enable alone (R111). -/
def State.enableAlone (s : State) (r : PointRef) : Bool :=
  match s.point? r with
  | some x =>
    s.releaseFailure r .office == some .enable &&
    ((s.storePoint r { x with enables := { x.enables with office := true } }).releaseFailure r .office).isNone
  | none => false

/-- What a point's entry in the reply says, by its failure before the request and its state after it (R111). That the states and the failed
conditions form one list, which DONE, DENIED and STATE all carry, is a DESIGN CHOICE (log entry 40). -/
def releaseReports (before after : State) (rs : List PointRef) : List ReleaseReport :=
  rs.filterMap (fun r => (after.stateOf r).map (fun st => { state := st, failed := before.releaseFailure r .office }))

/-- OUTLET-RELEASE on the selected points (R111). -/
def releaseOutlets (s : State) (_ : SideRef) (rs : List PointRef) : Judged :=
  let ok (r : PointRef) : Bool := (s.releaseFailure r .office).isNone
  let t := (rs.filter ok).foldl (fun u r => u.releasePoint r .office) s
  let result : Result :=
    if rs.any ok then .done else if rs.any s.enableAlone then .denied else .state
  answer t result (.releases (releaseReports s t rs))

/-- OUTLET-RELEASE (R111). -/
def execOutletRelease (tag : Nat) (b : Body OutletArgs) (s : State) : Host.Outcome State Fault Refusal :=
  finishBus (takeRequest 0x3B tag b (fun t f => onPoints f.sel f.service releaseOutlets t) s)

/-! ### Clear (R112) -/

/-- The points OUTLET-CLEAR acts on: FAULT, and CLOSING on a post that is not PRESENT (R112). -/
def State.clearable (s : State) (r : PointRef) : Bool :=
  s.pointIs r (· == .fault) || (s.pointIs r (· == .closing) && !s.isPresent r.arm r.addr)

/-- A point cleared (R112). -/
def State.clearPoint (s : State) (r : PointRef) : State :=
  match s.point? r with
  | some x =>
    if x.state = .fault then s.changePoint r { x with state := .off, baseline := none, unconfirmed := 0 }
    else s.closeSession r .unconfirmed .off true
  | none => s

/-- OUTLET-CLEAR on the selected points (R112). -/
def clearOutlets (s : State) (_ : SideRef) (rs : List PointRef) : Judged :=
  actEach State.clearable State.clearPoint s rs

/-- OUTLET-CLEAR (R112). -/
def execOutletClear (tag : Nat) (b : Body OutletArgs) (s : State) : Host.Outcome State Fault Refusal :=
  finishBus (takeRequest 0x3C tag b (fun t f => onPoints f.sel f.service clearOutlets t) s)

/-! ### Enables and query (R108) -/

/-- A point takes a release enable set (R108). -/
def State.setEnables (e : Enables) (s : State) (r : PointRef) : State :=
  match s.point? r with
  | some x => s.storePoint r { x with enables := e }
  | none => s

/-- OUTLET-ENABLES (R108). -/
def judgeOutletEnables (s : State) (f : EnablesArgs) : Judged :=
  match enablesOf f.set with
  | none => refuse s .range
  | some e =>
    onPoints f.sel f.service
      (fun t _ rs => let u := rs.foldl (State.setEnables e) t
                     answer u .done (.points (u.pointStates rs))) s

/-- OUTLET-ENABLES (R108). -/
def execOutletEnables (tag : Nat) (b : Body EnablesArgs) (s : State) : Host.Outcome State Fault Refusal :=
  finish (takeRequest 0x3D tag b judgeOutletEnables s)

/-- OUTLET-QUERY on the selected points (R108). -/
def queryOutlets (s : State) (d : SideRef) (rs : List PointRef) : Judged :=
  answer s .done (.outlets
    (rs.filterMap (fun r => (s.point? r).map (fun x => { point := r, berth := s.pointBerth r, record := x })))
    ((s.post? d.arm d.addr).bind (·.mark)))

/-- OUTLET-QUERY (R108). -/
def execOutletQuery (tag : Nat) (b : Body OutletArgs) (s : State) : Host.Outcome State Fault Refusal :=
  finish (takeRequest 0x3E tag b (fun t f => onPoints f.sel f.service queryOutlets t) s)

end Sys2Proof.Machine
end

