-- ==== Sys2Proof/Machine/Rates.lean ====
section
/-! DEFINITION. The commands of the Metering Unit and the Protection Monitor (chapters 6 and 7). The rate table is replaced by LOAD-COMMIT
(Tables.lean). -/

namespace Sys2Proof.Machine

/-- RATE-QUERY (R132). -/
def judgeRateQuery (s : State) (_ : Unit) : Judged :=
  if s.rates.state = .empty then refuse s .state
  else answer s .done (.rates s.rates.state s.rates.checksum s.rateRows)

/-- RATE-QUERY (R132). -/
def execRateQuery (tag : Nat) (b : Body Unit) (s : State) : Host.Outcome State Fault Refusal :=
  finish (takeRequest 0x40 tag b judgeRateQuery s)

/-- Whether the numbers of a quote are in range (R133). -/
def quoteInRange (f : QuoteArgs) : Bool :=
  (match f.source with
    | .price p => decide (1 ≤ p ∧ p ≤ 65535)
    | .grade g => decide (g < 4)) &&
  (match f.form with
    | .amount v => decide (v ≤ 999999)
    | .stop h => decide (1 ≤ h ∧ h ≤ 999999))

/-- What a quote carries at a price (R133). -/
def quoteOf (p : Nat) : QuoteForm → ReplyBody
  | .amount v => .quoteAmount p (fuelAmount v p) v
  | .stop h =>
    .quoteStop p (stopVolume h p) (fuelAmount (stopVolume h p) p) (decide (999999 < (1000 * h + 499) / p))

/-- The price of a quote's source; none while a grade is asked of a table that is not VALID (R133). -/
def State.quotePrice (s : State) : PriceSource → Option Nat
  | .price p => some p
  | .grade g => if s.ratesValid then some (fuelPrice s.rateRows g) else none

/-- CHARGE-QUOTE (R133); the ranges are judged before the table's state (log entry 9). -/
def judgeChargeQuote (s : State) (f : QuoteArgs) : Judged :=
  if quoteInRange f = false then refuse s .range
  else
    match s.quotePrice f.source with
    | none => refuse s .state
    | some p => answer s .done (quoteOf p f.form)

/-- CHARGE-QUOTE (R133). -/
def execChargeQuote (tag : Nat) (b : Body QuoteArgs) (s : State) : Host.Outcome State Fault Refusal :=
  finish (takeRequest 0x41 tag b judgeChargeQuote s)

/-- TRIP-DELAY-SET (R136). -/
def judgeTripDelaySet (s : State) (seconds : Nat) : Judged :=
  if inRange 10 600 seconds = false then refuse s .range else doneWith { s with tripDelay := seconds }

/-- TRIP-DELAY-SET (R136). -/
def execTripDelaySet (tag : Nat) (b : Body Nat) (s : State) : Host.Outcome State Fault Refusal :=
  finish (takeRequest 0x42 tag b judgeTripDelaySet s)

/-- The time at which a TAP release of a TRIPPED point will first be allowed (R146). -/
def State.tapAllowedAt (s : State) (r : PointRef) : Option Nat :=
  match s.point? r with
  | some x =>
    if x.state = .tripped then x.session.bind (fun ses => ses.tripTime.map (fun t => t + s.tripDelay)) else none
  | none => none

/-- PROTECTION-QUERY (R146). -/
def judgeProtectionQuery (s : State) (f : ProtectionArgs) : Judged :=
  if ¬ (isArm f.arm = true ∧ isAddr f.addr = true ∧ f.side ≤ 1) then refuse s .range
  else
    match s.row f.arm f.addr with
    | .post _ _ offset shift fullScale n w =>
      let rating := s.rating (s.sideBerth f.arm f.addr f.side)
      answer s .done (.protection offset shift fullScale n w rating (warnLevel rating) (s.detector f.arm f.addr f.side)
        s.tripDelay (s.tapAllowedAt { arm := f.arm, addr := f.addr, side := f.side, svc := .power }))
    | _ => refuse s .state

/-- PROTECTION-QUERY (R146). -/
def execProtectionQuery (tag : Nat) (b : Body ProtectionArgs) (s : State) : Host.Outcome State Fault Refusal :=
  finish (takeRequest 0x43 tag b judgeProtectionQuery s)

end Sys2Proof.Machine
end

