-- ==== Sys2Proof/Machine/Relay.lean ====
section
/-! DEFINITION. The requests to the Relay Engine (chapter 10). -/

namespace Sys2Proof.Machine

/-! ### RELAY (R193) -/

/-- The number of bytes a RELAY asks to transfer (R193). -/
def payloadSize : RelayPayload → Nat
  | .write d => d.length
  | .read n => n

/-- What a relay request holds of its payload. -/
def payloadData : RelayPayload → RelayData
  | .write d => .write d
  | .read n => .read n

/-- Whether a target is in range, its mask not empty (R193, check 1). A bit beyond the six arms is out of range (log entry 5). -/
def targetInRange : RelayTarget → Bool
  | .arms mask addr => decide (1 ≤ mask ∧ mask < 64) && isAddr addr
  | .berth b => isBerth b

/-- Check 1 of R193. -/
def relayInRange (f : RelayArgs) : Bool :=
  targetInRange f.target && inRange 1 48 (payloadSize f.payload) && inRange 1 16 f.group &&
  decide (f.sub + payloadSize f.payload - 1 ≤ 65535)

/-- Whether a target names exactly one arm (R193, check 2). -/
def oneArm : RelayTarget → Bool
  | .arms mask _ => (maskArms mask).length == 1
  | .berth _ => true

/-- Whether a payload is that of a READ. -/
def isRead : RelayPayload → Bool
  | .read _ => true
  | .write _ => false

/-- The targeted arms and the address; none where a berth has no bound post side (R193, check 3). -/
def State.relayTarget (s : State) : RelayTarget → Option (List Nat × Nat)
  | .arms mask addr => some (maskArms mask, addr)
  | .berth b => (s.boundSide b).map (fun d => ([d.arm], d.addr))

/-- Check 5 of R193 for one arm: on the refusal list, or a pump. -/
def State.relayDenied (s : State) (a addr : Nat) : Bool :=
  s.refusals.contains (a, addr) || (s.row a addr).kind == .pump

/-- Check 6 of R193 for one arm: not ACTIVE, or with a transfer in flight. -/
def State.relayBusy (s : State) (a : Nat) : Bool :=
  (s.arm a).state != .active || (s.transferOn a).isSome

/-- An accepted RELAY with its transfers placed in flight (R193, R194). -/
def placedRequest (tag : Nat) (f : RelayArgs) (arms : List Nat) (addr : Nat) : RelayRequest :=
  { tag := tag, wait := f.wait, addr := addr, sub := f.sub, group := f.group, data := payloadData f.payload
    transfers := arms.map (fun a => Transfer.placed a (groupCount (payloadSize f.payload) f.group)) }

/-- The request placed, answered at once or withheld (R193). -/
def State.placeRelay (s : State) (tag : Nat) (f : RelayArgs) (arms : List Nat) (addr : Nat) : Judged :=
  let t := s.setRelays (s.relays ++ [placedRequest tag f arms addr])
  if f.wait then (t, none) else answer t .accepted (.groups (groupCount (payloadSize f.payload) f.group))

/-- RELAY (R193). -/
def judgeRelay (tag : Nat) (s : State) (f : RelayArgs) : Judged :=
  if relayInRange f = false then refuse s .range
  else if isRead f.payload = true ∧ oneArm f.target = false then refuse s .range
  else
    match s.relayTarget f.target with
    | none => refuse s .state
    | some (arms, addr) =>
      if arms.any (fun a => (s.row a addr).kind == .none) then refuse s .state
      else if arms.any (fun a => s.relayDenied a addr) then refuse s .denied
      else if arms.any s.relayBusy then refuse s .busy
      else s.placeRelay tag f arms addr

/-- RELAY (R193). -/
def execRelay (tag : Nat) (b : Body RelayArgs) (s : State) : Host.Outcome State Fault Refusal :=
  finishBus (takeRequest relayCode tag b (judgeRelay tag) s)

/-! ### The refusal list (R198) -/

/-- RELAY-REFUSE-SET (R198). -/
def judgeRefuseSet (s : State) (pairs : List (Nat × Nat)) : Judged :=
  if 8 < pairs.length ∨ pairs.any (fun p => !(isArm p.1 && isAddr p.2)) = true then refuse s .range
  else answer { s with refusals := pairs } .done (.refusals pairs)

/-- RELAY-REFUSE-SET (R198). -/
def execRelayRefuseSet (tag : Nat) (b : Body (List (Nat × Nat))) (s : State) : Host.Outcome State Fault Refusal :=
  finish (takeRequest 0x59 tag b judgeRefuseSet s)

/-- RELAY-QUERY (R198). -/
def judgeRelayQuery (s : State) (_ : Unit) : Judged :=
  answer s .done (.relays s.refusals ((List.range 6).map s.transferOn))

/-- RELAY-QUERY (R198). -/
def execRelayQuery (tag : Nat) (b : Body Unit) (s : State) : Host.Outcome State Fault Refusal :=
  finish (takeRequest 0x5A tag b judgeRelayQuery s)

end Sys2Proof.Machine
end

