-- ==== Sys2Proof/Machine/Tables.lean ====
section
/-! DEFINITION. Replacing a table (R204 to R208) with each owner's row checks (R56, R118, R177) and what a commit does (R57, R119,
R178), and the integrity scan (R209). -/

namespace Sys2Proof.Machine

/-! ### The staging area -/

/-- The layout lengths of a table's rows in index order (11.5). -/
def rowLengths : TableId → List Nat
  | .credentials => List.replicate 512 22
  | .rates => [8, 8, 8, 6, 4, 18, 8, 12]
  | .stations _ => List.replicate 30 12

/-- A load as LOAD-OPEN fills it: every row all zero bytes (R204). -/
def Load.opened (t : TableId) : Load :=
  { table := t, rows := (rowLengths t).map (fun n => List.replicate n 0#8) }

/-- LOAD-OPEN (R204). -/
def judgeLoadOpen (s : State) (n : Nat) : Judged :=
  match tableOf n with
  | none => refuse s .range
  | some t =>
    if s.staging.isSome then refuse s .busy
    else answer { s with staging := some (Load.opened t) } .done (.rowCount (rowLengths t).length)

/-- LOAD-OPEN (R204). -/
def execLoadOpen (tag : Nat) (b : Body Nat) (s : State) : Host.Outcome State Fault Refusal :=
  finish (takeRequest 0x60 tag b judgeLoadOpen s)

/-- LOAD-ROW (R205). -/
def judgeLoadRow (s : State) (f : LoadRowArgs) : Judged :=
  match s.staging with
  | none => refuse s .state
  | some l =>
    if (rowLengths l.table)[f.index]? = some f.bytes.length then
      doneWith { s with staging := some { l with rows := l.rows.set f.index f.bytes } }
    else refuse s .range

/-- LOAD-ROW (R205). -/
def execLoadRow (tag : Nat) (b : Body LoadRowArgs) (s : State) : Host.Outcome State Fault Refusal :=
  finish (takeRequest 0x61 tag b judgeLoadRow s)

/-- LOAD-DISCARD (R207). -/
def judgeLoadDiscard (s : State) (_ : Unit) : Judged :=
  if s.staging.isNone then refuse s .state else doneWith { s with staging := none }

/-- LOAD-DISCARD (R207). -/
def execLoadDiscard (tag : Nat) (b : Body Unit) (s : State) : Host.Outcome State Fault Refusal :=
  finish (takeRequest 0x63 tag b judgeLoadDiscard s)

/-! ### Credential and rate rows -/

/-- Whether a window of an enabled row passes (R56): valid from below valid until. -/
def windowPasses (required : Bool) : Option (Nat × Nat) → Bool
  | none => !required
  | some (f, u) => decide (f < u)

/-- The checks of R56 on one staged credential row. -/
def CredRow.passes (r : CredRow) : Bool :=
  !r.enabled ||
  (match r.kind with
    | .crew => r.berth.any isBerth && windowPasses false r.window
    | .guest => r.berth.any isBerth && windowPasses true r.window
    | .staff => r.berth.isNone && windowPasses false r.window
    | .service => r.berth.isNone && windowPasses true r.window)

/-- The lowest row of a staged table that fails a check. -/
def lowestFailing (rows : List (List Byte)) (passes : List Byte → Bool) : Option Nat :=
  rows.findIdx? (fun bs => !passes bs)

/-- The checks of R118 on the staged rate rows, row by row. -/
def rateRowPasses (rows : List (List Byte)) : Nat → Bool
  | 0 =>
    decide (bandStart rows 0 = 0 ∧ bandStart rows 0 < bandStart rows 1 ∧ bandStart rows 1 < bandStart rows 2 ∧
      bandStart rows 2 < bandStart rows 3 ∧ bandStart rows 3 ≤ 1439)
  | 3 => (List.range 6).all (fun i => decide (1 ≤ limitAt rows i))
  | 4 => decide (1 ≤ leakThreshold rows .power ∧ 1 ≤ leakThreshold rows .water)
  | 5 => (List.range 6).all (fun i => decide (nightFee rows i ≤ 999999))
  | 6 => (List.range 4).all (fun g => decide (1 ≤ fuelPrice rows g))
  | 7 =>
    inRange 1 99999 (minimumSale rows) && inRange 1 999999 (perSaleCap rows) && inRange 1 999999 (autonomousCap rows) &&
    decide (startMinimum rows ≤ 999999) && decide (minimumSale rows ≤ perSaleCap rows) &&
    decide (minimumSale rows ≤ autonomousCap rows)
  | _ => true

/-- The lowest failing rate row (R118). -/
def rateFailure (rows : List (List Byte)) : Option Nat :=
  (List.range 8).find? (fun i => !rateRowPasses rows i)

/-! ### Station rows (R177) -/

/-- What a row of a station table may name only once (R177). -/
inductive Claim where
  | berth (n : Nat)
  | gate (n : Nat)
  | pump (n : Nat)
  deriving DecidableEq, Repr

/-- What a row names. -/
def Row.claims : Row → List Claim
  | .none => []
  | .post b0 b1 _ _ _ _ _ => (b0.map Claim.berth).toList ++ (b1.map Claim.berth).toList
  | .gate g _ _ => [.gate g]
  | .pump p _ _ => [.pump p]

/-- 0, standing for a default, or a value in range (R176, R177). -/
def zeroOr (lo hi n : Nat) : Bool :=
  n == 0 || inRange lo hi n

/-- The checks of R177 on one staged row by itself. -/
def Row.passes : Row → Bool
  | .none => true
  | .post b0 b1 offset shift fullScale n w =>
    b0.all isBerth && b1.all isBerth && (b0.isNone || b0 != b1) && decide (offset ≤ 4095) && decide (shift ≤ 8) &&
    zeroOr 1 4095 fullScale && zeroOr 1 8 n && zeroOr 4 64 w
  | .gate g t h => isGate g && decide (t ≤ 30) && zeroOr 5 300 h
  | .pump p g0 g1 => isPump p && decide (g0 < 4) && decide (g1 < 4)

/-- The staged row at an index, with NONE for one whose kind is none of the four. -/
def stagedAt (rows : List (List Byte)) (i : Nat) : Row :=
  (stagedRow (rows.getD i [])).getD .none

/-- Whether a staged row names something that another row of the staged table names (R177). -/
def clashesWithin (rows : List (List Byte)) (i : Nat) : Bool :=
  (List.range 30).any (fun j => j != i && (stagedAt rows j).claims.any (fun c => (stagedAt rows i).claims.contains c))

/-- The first row of another arm's live table, by arm and row, that names something a staged row of arm `a` names (R177). Which one is
reported where there are several is a DESIGN CHOICE (log entry 39). -/
def State.clashElsewhere (s : State) (a : Nat) (r : Row) : Option (Nat × Nat) :=
  (places.find? (fun p => p.1 != a && (s.row p.1 p.2).claims.any (fun c => r.claims.contains c))).map (fun p => (p.1, p.2 - 1))

/-- Whether a staged row fails by its own checks or by a clash within the table. -/
def rowFailsAlone (rows : List (List Byte)) (i : Nat) : Bool :=
  !((stagedRow (rows.getD i [])).any Row.passes) || clashesWithin rows i

/-- The lowest failing row of a staged station table, with the clash with another arm where that is its failure (R177; log entry
16). -/
def State.stationFailure (s : State) (a : Nat) (rows : List (List Byte)) : Option (Nat × Option (Nat × Nat)) :=
  (List.range 30).findSome? (fun i =>
    if rowFailsAlone rows i then some (i, none)
    else (s.clashElsewhere a (stagedAt rows i)).map (fun c => (i, some c)))

/-! ### A station commit (R178) -/

/-- A service point as a commit creates it (R114). -/
def Point.created : Point :=
  { state := .off, enables := { credit := true, tap := true, office := true }, baseline := none, unattributed := 0,
    unconfirmed := 0, session := none }

/-- A post record as a commit creates it (R114, R147). -/
def Post.created : Post :=
  { power0 := Point.created, water0 := Point.created, power1 := Point.created, water1 := Point.created,
    det0 := Detector.cleared, det1 := Detector.cleared, mark := none }

/-- A post record with both detector parts cleared (R147). -/
def Post.clearDetectors (p : Post) : Post :=
  { p with det0 := Detector.cleared, det1 := Detector.cleared }

/-- A slot with its new row: the station record kept, created or dropped (R178), the service points kept, created or removed (R114). -/
def Slot.takeRow (x : Slot) (r : Row) : Slot :=
  { row := r
    station := if r.kind = .none then none else some (x.station.getD { link := .unseen, missed := 0 })
    post := if r.kind = .post then some ((x.post.map Post.clearDetectors).getD Post.created) else none }

/-- The arm with its 30 rows replaced (R178): slots, stored checksum, pointer, anchor. -/
def Arm.takeTable (A : Arm) (rows : List (List Byte)) (c : Check) : Arm :=
  let B := { A with
    slots := A.slots.mapIdx (fun i (x : Slot) => x.takeRow (stagedAt rows i).inForce)
    checksum := some c }
  { B with pointer := B.firstStation, anchor := if (B.slot B.anchor).row.kind = .none then 0 else B.anchor }

/-- A gate that a commit configures, moves or leaves without a station: mark cleared, monitor IDLE, and a HOLD-RELEASE wanted where it
is configured and FREE (R64, R178). -/
def Gate.placed (g : Gate) (station : Option (Nat × Nat)) (row : Row) : Gate :=
  let x := { g.toIdle with station := station, mark := none }
  let y := match row with
    | .gate _ t h => { x with strikeTime := some t, holdGrace := some h }
    | _ => x
  if station.isSome && g.mode == .free then y.wantHoldRelease else y

/-- A gate after a commit of arm `a`'s table; one that neither stood nor stands on the arm is not touched (log entry 11). -/
def State.regate (s : State) (a g : Nat) : State :=
  let x := s.gate g
  let place := s.gatePlace g
  if x.station.any (fun p => p.1 == a) || place.any (fun p => p.1 == a) then
    s.setGate g (x.placed place (match place with
      | some p => s.row p.1 p.2
      | none => .none))
  else s

/-- A pump that a commit names (R170). -/
def Pump.placed (x : Pump) (p : Nat × Nat) (g0 g1 : Nat) : Pump :=
  { x with station := some p, grade0 := g0, grade1 := g1, state := .offline, closedVolume := none, mark := none }

/-- A pump that a commit leaves without a row (R170). -/
def Pump.unplaced (x : Pump) : Pump :=
  { x with station := none, state := .offline, mark := none }

/-- A pump after a commit of arm `a`'s table (R170). -/
def State.repump (s : State) (a n : Nat) : State :=
  let x := s.pump n
  match s.pumpPlace n with
  | some p =>
    if p.1 = a then
      match s.row p.1 p.2 with
      | .pump _ g0 g1 => s.setPump n (x.placed p g0 g1)
      | _ => s
    else s
  | none => if x.station.any (fun p => p.1 == a) then s.setPump n x.unplaced else s

/-- The effects of a successful station commit (R178). -/
def State.commitStations (s : State) (a : Nat) (rows : List (List Byte)) (c : Check) : State :=
  let s1 := s.setArm a ((s.arm a).takeTable rows c)
  let s2 := (List.range 8).foldl (fun t g => t.regate a g) s1
  let s3 := (List.range 4).foldl (fun t n => t.repump a n) s2
  (List.range 6).foldl State.judgeTracking s3

/-! ### LOAD-COMMIT (R206) -/

/-- The scan restarts at the first row of a table (R209). -/
def Scan.startOf (inRates : Bool) : Scan :=
  { inRates := inRates, row := 0, crc := crcInit }

/-- A commit of the table in which the scan stands restarts it there (R209). -/
def State.restartScan (s : State) (inRates : Bool) : State :=
  if s.scan.inRates = inRates then { s with scan := Scan.startOf inRates } else s

/-- The effects of a successful credential commit (R57). -/
def State.commitCreds (s : State) (rows : List (List Byte)) (c : Check) : State :=
  (s.setCreds { state := .valid, rows := Vector.ofFn (fun i : Fin 512 => rows.getD i.val []), checksum := some c }).restartScan false

/-- The effects of a successful rate commit (R119). -/
def State.commitRates (s : State) (rows : List (List Byte)) (c : Check) : State :=
  (s.setRates { state := .valid, rows := Vector.ofFn (fun i : Fin 8 => rows.getD i.val []), checksum := some c }).restartScan true

/-- The staging area is closed. -/
def State.closeLoad (s : State) : State :=
  { s with staging := none }

/-- Steps 3 and 4 of R206 and the replacement, for a load whose checksum agrees. -/
def commitLoad (s : State) (l : Load) (c : Check) : Judged :=
  match l.table with
  | .credentials =>
    match lowestFailing l.rows (fun bs => (credRowOf bs).passes) with
    | some r => answer s .range (.failedRow l.table r none)
    | none => doneWith (s.commitCreds l.rows c).closeLoad
  | .rates =>
    match rateFailure l.rows with
    | some r => answer s .range (.failedRow l.table r none)
    | none => doneWith (s.commitRates l.rows c).closeLoad
  | .stations a =>
    if (s.arm a).state ≠ .disabled then refuse s .state
    else
      match s.stationFailure a l.rows with
      | some (r, clash) => answer s .range (.failedRow l.table r clash)
      | none => doneWith (s.commitStations a l.rows c).closeLoad

/-- LOAD-COMMIT (R206). -/
def judgeLoadCommit (s : State) (expected : Check) : Judged :=
  match s.staging with
  | none => refuse s .state
  | some l =>
    let found := crc l.rows.flatten
    if found ≠ expected then answer s .checksum (.found found) else commitLoad s l expected

/-- LOAD-COMMIT (R206). -/
def execLoadCommit (tag : Nat) (b : Body Check) (s : State) : Host.Outcome State Fault Refusal :=
  finish (takeRequest 0x62 tag b judgeLoadCommit s)

/-! ### The integrity scan (R209) -/

/-- The live row at the scan's position. -/
def State.scannedRow (s : State) : List Byte :=
  if s.scan.inRates then tabGet s.rates.rows [] s.scan.row else tabGet s.creds.rows [] s.scan.row

/-- The end of a table: a VALID table whose running check differs from its stored checksum goes to FAULT (R58, R119). -/
def State.scanEnd (s : State) (found : Check) : State :=
  if s.scan.inRates then
    match s.rates.state, s.rates.checksum with
    | .valid, some c =>
      if found = c then s else (s.setRates { s.rates with state := .fault }).post (.tableFault true c found)
    | _, _ => s
  else
    match s.creds.state, s.creds.checksum with
    | .valid, some c =>
      if found = c then s else (s.setCreds { s.creds with state := .fault }).post (.tableFault false c found)
    | _, _ => s

/-- The number of the last row of the table the scan stands in. -/
def Scan.lastRow (x : Scan) : Nat :=
  if x.inRates then 7 else 511

/-- The running check with the row at the position folded in; it starts at all ones at a table's first row (R209). -/
def State.scanCrc (s : State) : Check :=
  crcFold (if s.scan.row = 0 then crcInit else s.scan.crc) s.scannedRow

/-- One step of the scan (R209). -/
def State.scanStep (s : State) : State :=
  if s.scan.row < s.scan.lastRow then { s with scan := { s.scan with row := s.scan.row + 1, crc := s.scanCrc } }
  else { s.scanEnd s.scanCrc with scan := Scan.startOf (!s.scan.inRates) }

/-- SCAN-ROW (R209). -/
def execScanRow (s : State) : Host.Outcome State Fault Refusal :=
  finish s.scanStep

end Sys2Proof.Machine
end

