-- ==== Sys2Proof/Machine/TrunkPort.lean ====
section
/-! DEFINITION. The remaining commands of the Trunk Port (chapter 11): power-on (R216), time (R211, R212), status (R214), restart (R215),
the trunk's configuration and link (R203), valid frames that are no requests (R200, R201), the send side (R202). -/

namespace Sys2Proof.Machine

/-- POWER-ON (R216, with every chapter's power-on rule). The queue of commands is the surroundings' and stays (log entry 17). -/
def execPowerOn (s : State) : Host.Outcome State Fault Refusal :=
  .next { State.reset with pending := s.pending }

/-! ### Time -/

/-- Every expiry that a TIME-SET can bring is judged against the new time (R14, R79, R158, R166, R212), in the order of log entry 10. -/
def State.judgeExpiries (s : State) : State :=
  let s1 := (List.range 200).foldl (fun t i => t.departureTimeout (i + 1)) s
  let s2 := (List.range 8).foldl (fun t g => (t.strikeExpiry g).holdExpiry g) s1
  s2.judgePumpTimers

/-- TIME-SET (R212). -/
def judgeTimeSet (s : State) (time : Nat) : Judged :=
  answer { s with clock := time }.judgeExpiries .done (.times s.clock time)

/-- TIME-SET (R212). -/
def execTimeSet (tag : Nat) (b : Body Nat) (s : State) : Host.Outcome State Fault Refusal :=
  finishBus (takeRequest 0x64 tag b judgeTimeSet s)

/-- The marina time after an advance (R211). -/
def nextTime (t : Nat) : Nat :=
  if timeMax ≤ t then 0 else t + 1

/-- The silence count after a marina second: it runs in CONNECTED only (R203). -/
def Trunk.second (t : Trunk) : Trunk :=
  if t.link = .connected then { t with silenceCount := t.silenceCount + 1 } else t

/-- An advance of the marina clock with the midnight event (R211, R25) and the silence count (R203). The expiries it may bring are commands
of their own (log entry 2). -/
def State.advance (s : State) : State :=
  let s1 := { s with clock := nextTime s.clock }.setTrunk s.trunk.second
  if s1.clock % 86400 = 0 then s1.midnight else s1

/-- CLOCK-ADVANCE (R211). -/
def execClockAdvance (s : State) : Host.Outcome State Fault Refusal :=
  finish s.advance

/-! ### Status -/

/-- The number of queued notices of a class. -/
def NoticeQueue.ofClass (q : NoticeQueue) (c : NoticeClass) : Nat :=
  q.queue.countP (fun n => n.body.cls == c)

/-- The items of STATUS (R214). -/
def State.statusBody (s : State) : ReplyBody :=
  .status s.trunk.link s.trunk.silenceTime s.clock s.creds.state s.rates.state (s.staging.map (·.table)) s.scan
    (s.notices.ofClass .routine) (s.notices.ofClass .urgent) s.notices.dropped s.trunk.discarded s.notices.next
    (s.arms.toList.map (fun A => (A.state, A.errors)))

/-- STATUS (R214). -/
def judgeStatus (s : State) (_ : Unit) : Judged :=
  answer s .done s.statusBody

/-- STATUS (R214). -/
def execStatus (tag : Nat) (b : Body Unit) (s : State) : Host.Outcome State Fault Refusal :=
  finish (takeRequest 0x65 tag b judgeStatus s)

/-! ### Restart (R215) -/

/-- The Trunk Port clears its own state (R215). -/
def State.restartTrunk (s : State) : State :=
  { s with
    trunk := { s.trunk with replies := [], discarded := 0, silenceCount := 0 }
    staging := none
    notices := { s.notices with queue := [], dropped := 0 }
    scan := Scan.startOf false }

/-- A gate at a RESTART (R88). -/
def Gate.restarted (g : Gate) : Gate :=
  let x := { g.toIdle with mark := none }
  if g.station.isSome && g.mode == .free then x.wantHoldRelease else x

/-- The gates, the detector parts and the pumps at a RESTART (R88, R147, R172). -/
def State.restartOwners (s : State) : State :=
  { s.mapPosts (fun _ p => p.clearDetectors) with
    gates := s.gates.map Gate.restarted
    pumps := s.pumps.map (fun x => x.linkLost s.clock) }

/-- An arm at a RESTART (R192). The regular sweep pointer goes to the lowest station on every arm (R188), on a DISABLED one too (DEDUCED, log
entry 41). -/
def State.restartArm (s : State) (a : Nat) : State :=
  let A := { s.arm a with inFlight := none, pointer := (s.arm a).firstStation }
  if A.state = .disabled then s.setArm a A
  else (s.setArm a { A with errors := 0, probes := 0 }).activate a false

/-- RESTART (R215): the Trunk Port first, then the other blocks, the Relay Engine's notices (R199) into the emptied queue. -/
def judgeRestart (s : State) (_ : Unit) : Judged :=
  doneWith ((List.range 6).foldl State.restartArm s.restartTrunk.restartOwners).restartRelays

/-- RESTART (R215). -/
def execRestart (tag : Nat) (b : Body Unit) (s : State) : Host.Outcome State Fault Refusal :=
  finishBus (takeRequest 0x66 tag b judgeRestart s)

/-! ### The trunk link -/

/-- TRUNK-CONFIG (R203). -/
def judgeTrunkConfig (s : State) (seconds : Nat) : Judged :=
  if inRange 5 255 seconds = false then refuse s .range
  else doneWith (s.setTrunk { s.trunk with silenceTime := seconds })

/-- TRUNK-CONFIG (R203). -/
def execTrunkConfig (tag : Nat) (b : Body Nat) (s : State) : Host.Outcome State Fault Refusal :=
  finish (takeRequest 0x67 tag b judgeTrunkConfig s)

/-- The silence count has reached the silence time: AUTONOMOUS, with its notice (R203). -/
def State.silence (s : State) : State :=
  if s.trunk.link = .connected ∧ s.trunk.silenceTime ≤ s.trunk.silenceCount then
    (s.setTrunk { s.trunk with link := .autonomous }).post (.autonomous s.trunk.silenceTime)
  else s

/-- TRUNK-SILENCE-EXPIRY (R203); it acts where the count has reached the silence time (log entry 2). -/
def execTrunkSilenceExpiry (s : State) : Host.Outcome State Fault Refusal :=
  finish s.silence

/-! ### Frames that are no requests -/

/-- A request whose kind names none: result UNKNOWN and no body (R201). -/
def execUnknownRequest (tag kind : Nat) (s : State) : Host.Outcome State Fault Refusal :=
  finish (takeRequest kind tag (.fields ()) (fun t _ => refuse t .unknown) s)

/-- A valid frame with tag 0 or a kind of 0x80 or above acts on the link and is then discarded without reply (R200). -/
def execNonRequestFrame (_tag _kind : Nat) (s : State) : Host.Outcome State Fault Refusal :=
  finish s.frameTaken

/-! ### The send side -/

/-- The frame being sent has been sent; the send side is free and chooses the next (R202). -/
def execTrunkFrameSent (s : State) : Host.Outcome State Fault Refusal :=
  finish (s.setTrunk { s.trunk with sending := none })

end Sys2Proof.Machine
end

