-- ==== Sys2Proof/Machine/Reception.lean ====
section
/-! DEFINITION. Reception after a discard (R200): the bytes after the discarded frame's start marker are looked through for frames, and each
whole one found there is taken as a frame of its own. -/

namespace Sys2Proof.Machine

/-- The effect of a whole frame found among received bytes: that of the request or of the frame without one (R200, R201). No other command
is a frame. -/
def takeFrame (i : Instr) (s : State) : Host.Outcome State Fault Refusal :=
  match i with
  | .reserve tag b => execReserve tag b s
  | .checkIn tag b => execCheckIn tag b s
  | .departureSet tag b => execDepartureSet tag b s
  | .checkOut tag b => execCheckOut tag b s
  | .berthSet tag b => execBerthSet tag b s
  | .close tag b => execClose tag b s
  | .open_ tag b => execOpen tag b s
  | .berthQuery tag b => execBerthQuery tag b s
  | .graceSet tag b => execGraceSet tag b s
  | .accountDebit tag b => execAccountDebit tag b s
  | .credit tag b => execCredit tag b s
  | .accountOpen tag b => execAccountOpen tag b s
  | .accountSet tag b => execAccountSet tag b s
  | .accountClose tag b => execAccountClose tag b s
  | .accountQuery tag b => execAccountQuery tag b s
  | .bar tag b => execBar tag b s
  | .unbar tag b => execUnbar tag b s
  | .credentialRead tag b => execCredentialRead tag b s
  | .matchTest tag b => execMatchTest tag b s
  | .gateMode tag b => execGateMode tag b s
  | .gateOpen tag b => execGateOpen tag b s
  | .gateQuery tag b => execGateQuery tag b s
  | .pontoonSet tag b => execPontoonSet tag b s
  | .presenceQuery tag b => execPresenceQuery tag b s
  | .presenceRemove tag b => execPresenceRemove tag b s
  | .outletStart tag b => execOutletStart tag b s
  | .outletStop tag b => execOutletStop tag b s
  | .outletSuspend tag b => execOutletSuspend tag b s
  | .outletRelease tag b => execOutletRelease tag b s
  | .outletClear tag b => execOutletClear tag b s
  | .outletEnables tag b => execOutletEnables tag b s
  | .outletQuery tag b => execOutletQuery tag b s
  | .rateQuery tag b => execRateQuery tag b s
  | .chargeQuote tag b => execChargeQuote tag b s
  | .tripDelaySet tag b => execTripDelaySet tag b s
  | .protectionQuery tag b => execProtectionQuery tag b s
  | .fuelAuthorize tag b => execFuelAuthorize tag b s
  | .fuelAbort tag b => execFuelAbort tag b s
  | .saleCollect tag b => execSaleCollect tag b s
  | .pumpProtect tag b => execPumpProtect tag b s
  | .fuelTimersSet tag b => execFuelTimersSet tag b s
  | .pumpQuery tag b => execPumpQuery tag b s
  | .armModeEnable tag b => execArmModeEnable tag b s
  | .armModeDisable tag b => execArmModeDisable tag b s
  | .armModeRestore tag b => execArmModeRestore tag b s
  | .armConfig tag b => execArmConfig tag b s
  | .armQuery tag b => execArmQuery tag b s
  | .relay tag b => execRelay tag b s
  | .relayRefuseSet tag b => execRelayRefuseSet tag b s
  | .relayQuery tag b => execRelayQuery tag b s
  | .loadOpen tag b => execLoadOpen tag b s
  | .loadRow tag b => execLoadRow tag b s
  | .loadCommit tag b => execLoadCommit tag b s
  | .loadDiscard tag b => execLoadDiscard tag b s
  | .timeSet tag b => execTimeSet tag b s
  | .status tag b => execStatus tag b s
  | .restart tag b => execRestart tag b s
  | .trunkConfig tag b => execTrunkConfig tag b s
  | .unknownRequest tag kind => execUnknownRequest tag kind s
  | .nonRequestFrame tag kind => execNonRequestFrame tag kind s
  | .powerOn | .discardedFrame _ | .interByteTimeout _ | .trunkFrameSent | .trunkSilenceExpiry | .clockAdvance | .scannerVisit
  | .departureCloseTimeout _ | .scanRow | .armRequestSent _ | .exchangeReply _ _ | .replyWindowExpiry _ | .lateReply _ _
  | .probeDue _ | .prioritySweepDue _ | .regularSlot _ | .strikeEndExpiry _ | .holdExpiry _ | .readyTimeout _ | .linkLossWindow _ => .next s

/-- Reception keeps the bytes of a frame that is not whole yet (R200). -/
def State.keepBytes (s : State) (bs : List Byte) : State :=
  s.setTrunk { s.trunk with rx := bs }

/-- The bytes from the first start marker on; those before it are outside a frame and are ignored (R200). -/
def fromMarker (bs : List Byte) : List Byte :=
  bs.dropWhile (fun b => b != startMarker)

/-- The first frame of bytes that begin with a start marker, as long as its length byte says (R200, 11.5). -/
def firstFrame (bs : List Byte) : List Byte :=
  bs.take (natAt bs 1 1 + 4)

/-- At most `n` frames are looked for in received bytes (R200): a bad one is passed over from the byte after its start marker, a valid one
is taken and the bytes behind it are looked through, one that is not whole is kept. -/
def receiveFrames : Nat → List Byte → State → Host.Outcome State Fault Refusal
  | 0, _, s => .next (s.keepBytes [])
  | n + 1, bs, s =>
    let rest := fromMarker bs
    if rest = [] then .next (s.keepBytes [])
    else if partFrame rest then .next (s.keepBytes rest)
    else if badFrame (firstFrame rest) then receiveFrames n rest.tail s
    else
      match decodeFrame (firstFrame rest) with
      | some i =>
        match takeFrame i s with
        | .next t => receiveFrames n (rest.drop (firstFrame rest).length) t
        | .fault r => .fault r
        | .refused r => .refused r
      | none => receiveFrames n rest.tail s

/-- Received bytes are looked through to their end (R200): each frame found takes at least one byte of them. -/
def receive (bs : List Byte) (s : State) : Host.Outcome State Fault Refusal :=
  receiveFrames (bs.length + 1) bs s

/-- DISCARDED-FRAME (R200): `bytes` are the frame's from its start marker. The frames inside it are received in the same event (DESIGN
CHOICE, log entry 44). Bytes that are no bad frame change nothing (log entry 28). -/
def execDiscardedFrame (bytes : List Byte) (s : State) : Host.Outcome State Fault Refusal :=
  if badFrame bytes then receive bytes.tail s else .next s

/-- INTER-BYTE-TIMEOUT (R200): `bytes` are those received of the frame, from its start marker. The frames inside it are received in the same
event, and one inside it that is not whole is kept for a timeout of its own (DESIGN CHOICE, log entry 44). Bytes that are no unfinished frame change
nothing (log entry 28). -/
def execInterByteTimeout (bytes : List Byte) (s : State) : Host.Outcome State Fault Refusal :=
  if partFrame bytes then receive bytes.tail s else .next s

end Sys2Proof.Machine
end

