-- ==== Sys2Proof/Machine/Dispatch.lean ====
section
/-! DEFINITION. The meaning of each command, by constructor. -/

namespace Sys2Proof.Machine

/-- The command's effect on everything but the queue. -/
def exec (i : Instr) (s : State) : Host.Outcome State Fault Refusal :=
  match i with
  | .powerOn => Sys2Proof.Machine.execPowerOn s
  | .reserve tag b => Sys2Proof.Machine.execReserve tag b s
  | .checkIn tag b => Sys2Proof.Machine.execCheckIn tag b s
  | .departureSet tag b => Sys2Proof.Machine.execDepartureSet tag b s
  | .checkOut tag b => Sys2Proof.Machine.execCheckOut tag b s
  | .berthSet tag b => Sys2Proof.Machine.execBerthSet tag b s
  | .close tag b => Sys2Proof.Machine.execClose tag b s
  | .open_ tag b => Sys2Proof.Machine.execOpen tag b s
  | .berthQuery tag b => Sys2Proof.Machine.execBerthQuery tag b s
  | .graceSet tag b => Sys2Proof.Machine.execGraceSet tag b s
  | .accountDebit tag b => Sys2Proof.Machine.execAccountDebit tag b s
  | .credit tag b => Sys2Proof.Machine.execCredit tag b s
  | .accountOpen tag b => Sys2Proof.Machine.execAccountOpen tag b s
  | .accountSet tag b => Sys2Proof.Machine.execAccountSet tag b s
  | .accountClose tag b => Sys2Proof.Machine.execAccountClose tag b s
  | .accountQuery tag b => Sys2Proof.Machine.execAccountQuery tag b s
  | .bar tag b => Sys2Proof.Machine.execBar tag b s
  | .unbar tag b => Sys2Proof.Machine.execUnbar tag b s
  | .credentialRead tag b => Sys2Proof.Machine.execCredentialRead tag b s
  | .matchTest tag b => Sys2Proof.Machine.execMatchTest tag b s
  | .gateMode tag b => Sys2Proof.Machine.execGateMode tag b s
  | .gateOpen tag b => Sys2Proof.Machine.execGateOpen tag b s
  | .gateQuery tag b => Sys2Proof.Machine.execGateQuery tag b s
  | .pontoonSet tag b => Sys2Proof.Machine.execPontoonSet tag b s
  | .presenceQuery tag b => Sys2Proof.Machine.execPresenceQuery tag b s
  | .presenceRemove tag b => Sys2Proof.Machine.execPresenceRemove tag b s
  | .outletStart tag b => Sys2Proof.Machine.execOutletStart tag b s
  | .outletStop tag b => Sys2Proof.Machine.execOutletStop tag b s
  | .outletSuspend tag b => Sys2Proof.Machine.execOutletSuspend tag b s
  | .outletRelease tag b => Sys2Proof.Machine.execOutletRelease tag b s
  | .outletClear tag b => Sys2Proof.Machine.execOutletClear tag b s
  | .outletEnables tag b => Sys2Proof.Machine.execOutletEnables tag b s
  | .outletQuery tag b => Sys2Proof.Machine.execOutletQuery tag b s
  | .rateQuery tag b => Sys2Proof.Machine.execRateQuery tag b s
  | .chargeQuote tag b => Sys2Proof.Machine.execChargeQuote tag b s
  | .tripDelaySet tag b => Sys2Proof.Machine.execTripDelaySet tag b s
  | .protectionQuery tag b => Sys2Proof.Machine.execProtectionQuery tag b s
  | .fuelAuthorize tag b => Sys2Proof.Machine.execFuelAuthorize tag b s
  | .fuelAbort tag b => Sys2Proof.Machine.execFuelAbort tag b s
  | .saleCollect tag b => Sys2Proof.Machine.execSaleCollect tag b s
  | .pumpProtect tag b => Sys2Proof.Machine.execPumpProtect tag b s
  | .fuelTimersSet tag b => Sys2Proof.Machine.execFuelTimersSet tag b s
  | .pumpQuery tag b => Sys2Proof.Machine.execPumpQuery tag b s
  | .armModeEnable tag b => Sys2Proof.Machine.execArmModeEnable tag b s
  | .armModeDisable tag b => Sys2Proof.Machine.execArmModeDisable tag b s
  | .armModeRestore tag b => Sys2Proof.Machine.execArmModeRestore tag b s
  | .armConfig tag b => Sys2Proof.Machine.execArmConfig tag b s
  | .armQuery tag b => Sys2Proof.Machine.execArmQuery tag b s
  | .relay tag b => Sys2Proof.Machine.execRelay tag b s
  | .relayRefuseSet tag b => Sys2Proof.Machine.execRelayRefuseSet tag b s
  | .relayQuery tag b => Sys2Proof.Machine.execRelayQuery tag b s
  | .loadOpen tag b => Sys2Proof.Machine.execLoadOpen tag b s
  | .loadRow tag b => Sys2Proof.Machine.execLoadRow tag b s
  | .loadCommit tag b => Sys2Proof.Machine.execLoadCommit tag b s
  | .loadDiscard tag b => Sys2Proof.Machine.execLoadDiscard tag b s
  | .timeSet tag b => Sys2Proof.Machine.execTimeSet tag b s
  | .status tag b => Sys2Proof.Machine.execStatus tag b s
  | .restart tag b => Sys2Proof.Machine.execRestart tag b s
  | .trunkConfig tag b => Sys2Proof.Machine.execTrunkConfig tag b s
  | .unknownRequest tag kind => Sys2Proof.Machine.execUnknownRequest tag kind s
  | .nonRequestFrame tag kind => Sys2Proof.Machine.execNonRequestFrame tag kind s
  | .discardedFrame bytes => Sys2Proof.Machine.execDiscardedFrame bytes s
  | .interByteTimeout bytes => Sys2Proof.Machine.execInterByteTimeout bytes s
  | .trunkFrameSent => Sys2Proof.Machine.execTrunkFrameSent s
  | .trunkSilenceExpiry => Sys2Proof.Machine.execTrunkSilenceExpiry s
  | .clockAdvance => Sys2Proof.Machine.execClockAdvance s
  | .scannerVisit => Sys2Proof.Machine.execScannerVisit s
  | .departureCloseTimeout berth => Sys2Proof.Machine.execDepartureCloseTimeout berth s
  | .scanRow => Sys2Proof.Machine.execScanRow s
  | .armRequestSent arm => Sys2Proof.Machine.execArmRequestSent arm s
  | .exchangeReply arm bytes => Sys2Proof.Machine.execExchangeReply arm bytes s
  | .replyWindowExpiry arm => Sys2Proof.Machine.execReplyWindowExpiry arm s
  | .lateReply arm bytes => Sys2Proof.Machine.execLateReply arm bytes s
  | .probeDue arm => Sys2Proof.Machine.execProbeDue arm s
  | .prioritySweepDue arm => Sys2Proof.Machine.execPrioritySweepDue arm s
  | .regularSlot arm => Sys2Proof.Machine.execRegularSlot arm s
  | .strikeEndExpiry gate => Sys2Proof.Machine.execStrikeEndExpiry gate s
  | .holdExpiry gate => Sys2Proof.Machine.execHoldExpiry gate s
  | .readyTimeout pump => Sys2Proof.Machine.execReadyTimeout pump s
  | .linkLossWindow pump => Sys2Proof.Machine.execLinkLossWindow pump s

end Sys2Proof.Machine
end

