-- ==== Sys2Proof/WellFormed.lean ====
section
/-! DEFINITION. The commands the surroundings can send: each number fits the bytes R210 gives it, a request's tag is 1..255, an event
names a record that exists, and a frame event carries bytes that are such a frame. A number that fits its bytes and lies outside the range
of its rule is well-formed: its request judges it. -/

namespace Sys2Proof

/-- A number fits `n` bytes. -/
def fits (n v : Nat) : Bool :=
  decide (v < 256 ^ n)

/-- An optional number fits `n` bytes. -/
def optFits (n : Nat) (v : Option Nat) : Bool :=
  v.all (fits n)

/-- The tag of a request (11.5). -/
def tagOk (tag : Nat) : Bool :=
  decide (1 ≤ tag ∧ tag ≤ 255)

/-- A request's body is unsuited, or its fields fit. -/
def Body.ok {α : Type} (p : α → Bool) : Body α → Bool
  | .fields f => p f
  | .unsuited => true

def ReserveArgs.ok (f : ReserveArgs) : Bool :=
  fits 1 f.berth && fits 2 f.account && fits 4 f.deadline && optFits 4 f.planned

def CheckInArgs.ok (f : CheckInArgs) : Bool :=
  fits 1 f.berth && fits 2 f.account && optFits 4 f.planned

def DepartureArgs.ok (f : DepartureArgs) : Bool :=
  fits 1 f.berth && optFits 4 f.planned

def BerthSetArgs.ok (f : BerthSetArgs) : Bool :=
  fits 1 f.berth && fits 1 f.lengthClass && fits 1 f.powerClass

def AmountArgs.ok (f : AmountArgs) : Bool :=
  fits 2 f.account && fits 3 f.amount

def LimitsArgs.ok (f : LimitsArgs) : Bool :=
  fits 2 f.account && fits 3 f.overdraft && fits 3 f.lowThreshold && fits 3 f.restartMin

def GateModeArgs.ok (f : GateModeArgs) : Bool :=
  fits 1 f.gate && fits 1 f.mode

def PontoonSetArgs.ok (f : PontoonSetArgs) : Bool :=
  fits 1 f.pontoon && fits 2 f.limit

def PresenceArgs.ok (f : PresenceArgs) : Bool :=
  fits 1 f.first &&
  (match f.sel with
    | .pontoon p => fits 1 p
    | _ => true)

def OutletSel.ok : OutletSel → Bool
  | .side a d k => fits 1 a && fits 1 d && fits 1 k
  | .berth b => fits 1 b

def OutletArgs.ok (f : OutletArgs) : Bool :=
  f.sel.ok && fits 1 f.service

def EnablesArgs.ok (f : EnablesArgs) : Bool :=
  f.sel.ok && fits 1 f.service && fits 1 f.set

def QuoteArgs.ok (f : QuoteArgs) : Bool :=
  (match f.form with
    | .amount v => fits 3 v
    | .stop h => fits 3 h) &&
  (match f.source with
    | .price p => fits 2 p
    | .grade g => fits 1 g)

def ProtectionArgs.ok (f : ProtectionArgs) : Bool :=
  fits 1 f.arm && fits 1 f.addr && fits 1 f.side

def FuelAuthArgs.ok (f : FuelAuthArgs) : Bool :=
  fits 1 f.pump && fits 1 f.nozzle && fits 3 f.limit && fits 2 f.account

def ProtectArgs.ok (f : ProtectArgs) : Bool :=
  fits 1 f.pump

def TimersArgs.ok (f : TimersArgs) : Bool :=
  fits 2 f.ready && fits 2 f.window

def ArmConfigArgs.ok (f : ArmConfigArgs) : Bool :=
  fits 1 f.arm && fits 2 f.period && fits 2 f.slot && fits 1 f.window && fits 1 f.silence && fits 1 f.anchor

/-- The most bytes of a request body (11.5). -/
def bodyMax : Nat := 240

def RelayArgs.ok (f : RelayArgs) : Bool :=
  (match f.target with
    | .arms mask addr => fits 1 mask && fits 1 addr
    | .berth b => fits 1 b) &&
  fits 2 f.sub && fits 1 f.group &&
  (match f.payload with
    | .write d => decide (d.length ≤ bodyMax)
    | .read n => fits 1 n)

def refusalsOk (l : List (Nat × Nat)) : Bool :=
  decide (l.length ≤ bodyMax) && l.all (fun p => fits 1 p.1 && fits 1 p.2)

def LoadRowArgs.ok (f : LoadRowArgs) : Bool :=
  fits 2 f.index && decide (f.bytes.length ≤ bodyMax)

/-- A request: its tag, and its body. -/
def requestOk {α : Type} (tag : Nat) (b : Body α) (p : α → Bool) : Bool :=
  tagOk tag && b.ok p

/-- Whether the surroundings can send a command. -/
def Instr.wellFormed : Instr → Bool
  | .powerOn => true
  | .reserve t b => requestOk t b ReserveArgs.ok
  | .checkIn t b => requestOk t b CheckInArgs.ok
  | .departureSet t b => requestOk t b DepartureArgs.ok
  | .checkOut t b => requestOk t b (fits 1)
  | .berthSet t b => requestOk t b BerthSetArgs.ok
  | .close t b => requestOk t b (fits 1)
  | .open_ t b => requestOk t b (fits 1)
  | .berthQuery t b => requestOk t b (fits 1)
  | .graceSet t b => requestOk t b (fits 2)
  | .accountDebit t b => requestOk t b AmountArgs.ok
  | .credit t b => requestOk t b AmountArgs.ok
  | .accountOpen t b => requestOk t b LimitsArgs.ok
  | .accountSet t b => requestOk t b LimitsArgs.ok
  | .accountClose t b => requestOk t b (fits 2)
  | .accountQuery t b => requestOk t b (fits 2)
  | .bar t b => requestOk t b (fits 2)
  | .unbar t b => requestOk t b (fits 2)
  | .credentialRead t b => requestOk t b (fits 2)
  | .matchTest t b => requestOk t b (fun _ => true)
  | .gateMode t b => requestOk t b GateModeArgs.ok
  | .gateOpen t b => requestOk t b (fits 1)
  | .gateQuery t b => requestOk t b (fits 1)
  | .pontoonSet t b => requestOk t b PontoonSetArgs.ok
  | .presenceQuery t b => requestOk t b PresenceArgs.ok
  | .presenceRemove t b => requestOk t b (fun _ => true)
  | .outletStart t b => requestOk t b OutletArgs.ok
  | .outletStop t b => requestOk t b OutletArgs.ok
  | .outletSuspend t b => requestOk t b OutletArgs.ok
  | .outletRelease t b => requestOk t b OutletArgs.ok
  | .outletClear t b => requestOk t b OutletArgs.ok
  | .outletEnables t b => requestOk t b EnablesArgs.ok
  | .outletQuery t b => requestOk t b OutletArgs.ok
  | .rateQuery t b => requestOk t b (fun _ => true)
  | .chargeQuote t b => requestOk t b QuoteArgs.ok
  | .tripDelaySet t b => requestOk t b (fits 2)
  | .protectionQuery t b => requestOk t b ProtectionArgs.ok
  | .fuelAuthorize t b => requestOk t b FuelAuthArgs.ok
  | .fuelAbort t b => requestOk t b (fits 1)
  | .saleCollect t b => requestOk t b (fits 1)
  | .pumpProtect t b => requestOk t b ProtectArgs.ok
  | .fuelTimersSet t b => requestOk t b TimersArgs.ok
  | .pumpQuery t b => requestOk t b (fits 1)
  | .armModeEnable t b => requestOk t b (fits 1)
  | .armModeDisable t b => requestOk t b (fits 1)
  | .armModeRestore t b => requestOk t b (fits 1)
  | .armConfig t b => requestOk t b ArmConfigArgs.ok
  | .armQuery t b => requestOk t b (fits 1)
  | .relay t b => requestOk t b RelayArgs.ok
  | .relayRefuseSet t b => requestOk t b refusalsOk
  | .relayQuery t b => requestOk t b (fun _ => true)
  | .loadOpen t b => requestOk t b (fits 1)
  | .loadRow t b => requestOk t b LoadRowArgs.ok
  | .loadCommit t b => requestOk t b (fun _ => true)
  | .loadDiscard t b => requestOk t b (fun _ => true)
  | .timeSet t b => requestOk t b (fits 4)
  | .status t b => requestOk t b (fun _ => true)
  | .restart t b => requestOk t b (fun _ => true)
  | .trunkConfig t b => requestOk t b (fits 1)
  | .unknownRequest t kind => tagOk t && decide (kind < 0x80) && !requestKinds.contains kind
  | .nonRequestFrame t kind => fits 1 t && fits 1 kind && (t == 0 || decide (0x80 ≤ kind))
  | .discardedFrame bs => Machine.badFrame bs
  | .interByteTimeout bs => Machine.partFrame bs
  | .trunkFrameSent => true
  | .trunkSilenceExpiry => true
  | .clockAdvance => true
  | .scannerVisit => true
  | .departureCloseTimeout b => decide (1 ≤ b ∧ b ≤ 200)
  | .scanRow => true
  | .armRequestSent a => decide (a < 6)
  | .exchangeReply a _ => decide (a < 6)
  | .replyWindowExpiry a => decide (a < 6)
  | .lateReply a _ => decide (a < 6)
  | .probeDue a => decide (a < 6)
  | .prioritySweepDue a => decide (a < 6)
  | .regularSlot a => decide (a < 6)
  | .strikeEndExpiry g => decide (g < 8)
  | .holdExpiry g => decide (g < 8)
  | .readyTimeout p => decide (p < 4)
  | .linkLossWindow p => decide (p < 4)

/-- The tag of the request a command carries; none where it carries none. -/
def requestTag : Instr → Option Nat
  | .powerOn => none
  | .reserve tag _ => some tag
  | .checkIn tag _ => some tag
  | .departureSet tag _ => some tag
  | .checkOut tag _ => some tag
  | .berthSet tag _ => some tag
  | .close tag _ => some tag
  | .open_ tag _ => some tag
  | .berthQuery tag _ => some tag
  | .graceSet tag _ => some tag
  | .accountDebit tag _ => some tag
  | .credit tag _ => some tag
  | .accountOpen tag _ => some tag
  | .accountSet tag _ => some tag
  | .accountClose tag _ => some tag
  | .accountQuery tag _ => some tag
  | .bar tag _ => some tag
  | .unbar tag _ => some tag
  | .credentialRead tag _ => some tag
  | .matchTest tag _ => some tag
  | .gateMode tag _ => some tag
  | .gateOpen tag _ => some tag
  | .gateQuery tag _ => some tag
  | .pontoonSet tag _ => some tag
  | .presenceQuery tag _ => some tag
  | .presenceRemove tag _ => some tag
  | .outletStart tag _ => some tag
  | .outletStop tag _ => some tag
  | .outletSuspend tag _ => some tag
  | .outletRelease tag _ => some tag
  | .outletClear tag _ => some tag
  | .outletEnables tag _ => some tag
  | .outletQuery tag _ => some tag
  | .rateQuery tag _ => some tag
  | .chargeQuote tag _ => some tag
  | .tripDelaySet tag _ => some tag
  | .protectionQuery tag _ => some tag
  | .fuelAuthorize tag _ => some tag
  | .fuelAbort tag _ => some tag
  | .saleCollect tag _ => some tag
  | .pumpProtect tag _ => some tag
  | .fuelTimersSet tag _ => some tag
  | .pumpQuery tag _ => some tag
  | .armModeEnable tag _ => some tag
  | .armModeDisable tag _ => some tag
  | .armModeRestore tag _ => some tag
  | .armConfig tag _ => some tag
  | .armQuery tag _ => some tag
  | .relay tag _ => some tag
  | .relayRefuseSet tag _ => some tag
  | .relayQuery tag _ => some tag
  | .loadOpen tag _ => some tag
  | .loadRow tag _ => some tag
  | .loadCommit tag _ => some tag
  | .loadDiscard tag _ => some tag
  | .timeSet tag _ => some tag
  | .status tag _ => some tag
  | .restart tag _ => some tag
  | .trunkConfig tag _ => some tag
  | .unknownRequest tag _ => some tag
  | .nonRequestFrame _ _ => none
  | .discardedFrame _ => none
  | .interByteTimeout _ => none
  | .trunkFrameSent => none
  | .trunkSilenceExpiry => none
  | .clockAdvance => none
  | .scannerVisit => none
  | .departureCloseTimeout _ => none
  | .scanRow => none
  | .armRequestSent _ => none
  | .exchangeReply _ _ => none
  | .replyWindowExpiry _ => none
  | .lateReply _ _ => none
  | .probeDue _ => none
  | .prioritySweepDue _ => none
  | .regularSlot _ => none
  | .strikeEndExpiry _ => none
  | .holdExpiry _ => none
  | .readyTimeout _ => none
  | .linkLossWindow _ => none

/-- The tag and the kind code of a request whose body does not suit its kind; none for every other command. -/
def unsuitedRequest : Instr → Option (Nat × Nat)
  | .powerOn => none
  | .reserve tag .unsuited => some (tag, 0x10)
  | .reserve _ (.fields _) => none
  | .checkIn tag .unsuited => some (tag, 0x11)
  | .checkIn _ (.fields _) => none
  | .departureSet tag .unsuited => some (tag, 0x12)
  | .departureSet _ (.fields _) => none
  | .checkOut tag .unsuited => some (tag, 0x13)
  | .checkOut _ (.fields _) => none
  | .berthSet tag .unsuited => some (tag, 0x14)
  | .berthSet _ (.fields _) => none
  | .close tag .unsuited => some (tag, 0x15)
  | .close _ (.fields _) => none
  | .open_ tag .unsuited => some (tag, 0x16)
  | .open_ _ (.fields _) => none
  | .berthQuery tag .unsuited => some (tag, 0x17)
  | .berthQuery _ (.fields _) => none
  | .graceSet tag .unsuited => some (tag, 0x18)
  | .graceSet _ (.fields _) => none
  | .accountDebit tag .unsuited => some (tag, 0x20)
  | .accountDebit _ (.fields _) => none
  | .credit tag .unsuited => some (tag, 0x21)
  | .credit _ (.fields _) => none
  | .accountOpen tag .unsuited => some (tag, 0x22)
  | .accountOpen _ (.fields _) => none
  | .accountSet tag .unsuited => some (tag, 0x23)
  | .accountSet _ (.fields _) => none
  | .accountClose tag .unsuited => some (tag, 0x24)
  | .accountClose _ (.fields _) => none
  | .accountQuery tag .unsuited => some (tag, 0x25)
  | .accountQuery _ (.fields _) => none
  | .bar tag .unsuited => some (tag, 0x26)
  | .bar _ (.fields _) => none
  | .unbar tag .unsuited => some (tag, 0x27)
  | .unbar _ (.fields _) => none
  | .credentialRead tag .unsuited => some (tag, 0x28)
  | .credentialRead _ (.fields _) => none
  | .matchTest tag .unsuited => some (tag, 0x29)
  | .matchTest _ (.fields _) => none
  | .gateMode tag .unsuited => some (tag, 0x30)
  | .gateMode _ (.fields _) => none
  | .gateOpen tag .unsuited => some (tag, 0x31)
  | .gateOpen _ (.fields _) => none
  | .gateQuery tag .unsuited => some (tag, 0x32)
  | .gateQuery _ (.fields _) => none
  | .pontoonSet tag .unsuited => some (tag, 0x33)
  | .pontoonSet _ (.fields _) => none
  | .presenceQuery tag .unsuited => some (tag, 0x34)
  | .presenceQuery _ (.fields _) => none
  | .presenceRemove tag .unsuited => some (tag, 0x35)
  | .presenceRemove _ (.fields _) => none
  | .outletStart tag .unsuited => some (tag, 0x38)
  | .outletStart _ (.fields _) => none
  | .outletStop tag .unsuited => some (tag, 0x39)
  | .outletStop _ (.fields _) => none
  | .outletSuspend tag .unsuited => some (tag, 0x3A)
  | .outletSuspend _ (.fields _) => none
  | .outletRelease tag .unsuited => some (tag, 0x3B)
  | .outletRelease _ (.fields _) => none
  | .outletClear tag .unsuited => some (tag, 0x3C)
  | .outletClear _ (.fields _) => none
  | .outletEnables tag .unsuited => some (tag, 0x3D)
  | .outletEnables _ (.fields _) => none
  | .outletQuery tag .unsuited => some (tag, 0x3E)
  | .outletQuery _ (.fields _) => none
  | .rateQuery tag .unsuited => some (tag, 0x40)
  | .rateQuery _ (.fields _) => none
  | .chargeQuote tag .unsuited => some (tag, 0x41)
  | .chargeQuote _ (.fields _) => none
  | .tripDelaySet tag .unsuited => some (tag, 0x42)
  | .tripDelaySet _ (.fields _) => none
  | .protectionQuery tag .unsuited => some (tag, 0x43)
  | .protectionQuery _ (.fields _) => none
  | .fuelAuthorize tag .unsuited => some (tag, 0x48)
  | .fuelAuthorize _ (.fields _) => none
  | .fuelAbort tag .unsuited => some (tag, 0x49)
  | .fuelAbort _ (.fields _) => none
  | .saleCollect tag .unsuited => some (tag, 0x4A)
  | .saleCollect _ (.fields _) => none
  | .pumpProtect tag .unsuited => some (tag, 0x4B)
  | .pumpProtect _ (.fields _) => none
  | .fuelTimersSet tag .unsuited => some (tag, 0x4C)
  | .fuelTimersSet _ (.fields _) => none
  | .pumpQuery tag .unsuited => some (tag, 0x4D)
  | .pumpQuery _ (.fields _) => none
  | .armModeEnable tag .unsuited => some (tag, 0x50)
  | .armModeEnable _ (.fields _) => none
  | .armModeDisable tag .unsuited => some (tag, 0x50)
  | .armModeDisable _ (.fields _) => none
  | .armModeRestore tag .unsuited => some (tag, 0x50)
  | .armModeRestore _ (.fields _) => none
  | .armConfig tag .unsuited => some (tag, 0x51)
  | .armConfig _ (.fields _) => none
  | .armQuery tag .unsuited => some (tag, 0x52)
  | .armQuery _ (.fields _) => none
  | .relay tag .unsuited => some (tag, 0x58)
  | .relay _ (.fields _) => none
  | .relayRefuseSet tag .unsuited => some (tag, 0x59)
  | .relayRefuseSet _ (.fields _) => none
  | .relayQuery tag .unsuited => some (tag, 0x5A)
  | .relayQuery _ (.fields _) => none
  | .loadOpen tag .unsuited => some (tag, 0x60)
  | .loadOpen _ (.fields _) => none
  | .loadRow tag .unsuited => some (tag, 0x61)
  | .loadRow _ (.fields _) => none
  | .loadCommit tag .unsuited => some (tag, 0x62)
  | .loadCommit _ (.fields _) => none
  | .loadDiscard tag .unsuited => some (tag, 0x63)
  | .loadDiscard _ (.fields _) => none
  | .timeSet tag .unsuited => some (tag, 0x64)
  | .timeSet _ (.fields _) => none
  | .status tag .unsuited => some (tag, 0x65)
  | .status _ (.fields _) => none
  | .restart tag .unsuited => some (tag, 0x66)
  | .restart _ (.fields _) => none
  | .trunkConfig tag .unsuited => some (tag, 0x67)
  | .trunkConfig _ (.fields _) => none
  | .unknownRequest _ _ => none
  | .nonRequestFrame _ _ => none
  | .discardedFrame _ => none
  | .interByteTimeout _ => none
  | .trunkFrameSent => none
  | .trunkSilenceExpiry => none
  | .clockAdvance => none
  | .scannerVisit => none
  | .departureCloseTimeout _ => none
  | .scanRow => none
  | .armRequestSent _ => none
  | .exchangeReply _ _ => none
  | .replyWindowExpiry _ => none
  | .lateReply _ _ => none
  | .probeDue _ => none
  | .prioritySweepDue _ => none
  | .regularSlot _ => none
  | .strikeEndExpiry _ => none
  | .holdExpiry _ => none
  | .readyTimeout _ => none
  | .linkLossWindow _ => none

end Sys2Proof
end

