-- ==== Sys2Proof/Laws/PerInstr.lean ====
section
/-! SUPPORT. Claims about commands as syntax, one lemma for each constructor. `TagCarried`: a command that carries a request has a tag
that a request can have, 1 to 255 (R200, 11.5). -/

namespace Sys2Proof.Laws

theorem requestOk_tag {α : Type} {tag : Nat} {b : Body α} {p : α → Bool} (h : requestOk tag b p = true) : 1 ≤ tag ∧ tag ≤ 255 := by
  simp only [requestOk, tagOk, Bool.and_eq_true, decide_eq_true_eq] at h
  exact h.1

/-- A well-formed command's request has a tag of 1 to 255. -/
def TagCarried.Statement (i : Instr) : Prop :=
  i.wellFormed = true → ∀ tag, requestTag i = some tag → 1 ≤ tag ∧ tag ≤ 255

theorem TagCarried.powerOn : TagCarried.Statement .powerOn := fun _ _ e => by
  cases e

theorem TagCarried.reserve (tag : Nat) (b : Body ReserveArgs) : TagCarried.Statement (.reserve tag b) := fun h _ e => by
  cases e
  exact requestOk_tag h

theorem TagCarried.checkIn (tag : Nat) (b : Body CheckInArgs) : TagCarried.Statement (.checkIn tag b) := fun h _ e => by
  cases e
  exact requestOk_tag h

theorem TagCarried.departureSet (tag : Nat) (b : Body DepartureArgs) : TagCarried.Statement (.departureSet tag b) := fun h _ e => by
  cases e
  exact requestOk_tag h

theorem TagCarried.checkOut (tag : Nat) (b : Body Nat) : TagCarried.Statement (.checkOut tag b) := fun h _ e => by
  cases e
  exact requestOk_tag h

theorem TagCarried.berthSet (tag : Nat) (b : Body BerthSetArgs) : TagCarried.Statement (.berthSet tag b) := fun h _ e => by
  cases e
  exact requestOk_tag h

theorem TagCarried.close (tag : Nat) (b : Body Nat) : TagCarried.Statement (.close tag b) := fun h _ e => by
  cases e
  exact requestOk_tag h

theorem TagCarried.open_ (tag : Nat) (b : Body Nat) : TagCarried.Statement (.open_ tag b) := fun h _ e => by
  cases e
  exact requestOk_tag h

theorem TagCarried.berthQuery (tag : Nat) (b : Body Nat) : TagCarried.Statement (.berthQuery tag b) := fun h _ e => by
  cases e
  exact requestOk_tag h

theorem TagCarried.graceSet (tag : Nat) (b : Body Nat) : TagCarried.Statement (.graceSet tag b) := fun h _ e => by
  cases e
  exact requestOk_tag h

theorem TagCarried.accountDebit (tag : Nat) (b : Body AmountArgs) : TagCarried.Statement (.accountDebit tag b) := fun h _ e => by
  cases e
  exact requestOk_tag h

theorem TagCarried.credit (tag : Nat) (b : Body AmountArgs) : TagCarried.Statement (.credit tag b) := fun h _ e => by
  cases e
  exact requestOk_tag h

theorem TagCarried.accountOpen (tag : Nat) (b : Body LimitsArgs) : TagCarried.Statement (.accountOpen tag b) := fun h _ e => by
  cases e
  exact requestOk_tag h

theorem TagCarried.accountSet (tag : Nat) (b : Body LimitsArgs) : TagCarried.Statement (.accountSet tag b) := fun h _ e => by
  cases e
  exact requestOk_tag h

theorem TagCarried.accountClose (tag : Nat) (b : Body Nat) : TagCarried.Statement (.accountClose tag b) := fun h _ e => by
  cases e
  exact requestOk_tag h

theorem TagCarried.accountQuery (tag : Nat) (b : Body Nat) : TagCarried.Statement (.accountQuery tag b) := fun h _ e => by
  cases e
  exact requestOk_tag h

theorem TagCarried.bar (tag : Nat) (b : Body Nat) : TagCarried.Statement (.bar tag b) := fun h _ e => by
  cases e
  exact requestOk_tag h

theorem TagCarried.unbar (tag : Nat) (b : Body Nat) : TagCarried.Statement (.unbar tag b) := fun h _ e => by
  cases e
  exact requestOk_tag h

theorem TagCarried.credentialRead (tag : Nat) (b : Body Nat) : TagCarried.Statement (.credentialRead tag b) := fun h _ e => by
  cases e
  exact requestOk_tag h

theorem TagCarried.matchTest (tag : Nat) (b : Body Card) : TagCarried.Statement (.matchTest tag b) := fun h _ e => by
  cases e
  exact requestOk_tag h

theorem TagCarried.gateMode (tag : Nat) (b : Body GateModeArgs) : TagCarried.Statement (.gateMode tag b) := fun h _ e => by
  cases e
  exact requestOk_tag h

theorem TagCarried.gateOpen (tag : Nat) (b : Body Nat) : TagCarried.Statement (.gateOpen tag b) := fun h _ e => by
  cases e
  exact requestOk_tag h

theorem TagCarried.gateQuery (tag : Nat) (b : Body Nat) : TagCarried.Statement (.gateQuery tag b) := fun h _ e => by
  cases e
  exact requestOk_tag h

theorem TagCarried.pontoonSet (tag : Nat) (b : Body PontoonSetArgs) : TagCarried.Statement (.pontoonSet tag b) := fun h _ e => by
  cases e
  exact requestOk_tag h

theorem TagCarried.presenceQuery (tag : Nat) (b : Body PresenceArgs) : TagCarried.Statement (.presenceQuery tag b) := fun h _ e => by
  cases e
  exact requestOk_tag h

theorem TagCarried.presenceRemove (tag : Nat) (b : Body Card) : TagCarried.Statement (.presenceRemove tag b) := fun h _ e => by
  cases e
  exact requestOk_tag h

theorem TagCarried.outletStart (tag : Nat) (b : Body OutletArgs) : TagCarried.Statement (.outletStart tag b) := fun h _ e => by
  cases e
  exact requestOk_tag h

theorem TagCarried.outletStop (tag : Nat) (b : Body OutletArgs) : TagCarried.Statement (.outletStop tag b) := fun h _ e => by
  cases e
  exact requestOk_tag h

theorem TagCarried.outletSuspend (tag : Nat) (b : Body OutletArgs) : TagCarried.Statement (.outletSuspend tag b) := fun h _ e => by
  cases e
  exact requestOk_tag h

theorem TagCarried.outletRelease (tag : Nat) (b : Body OutletArgs) : TagCarried.Statement (.outletRelease tag b) := fun h _ e => by
  cases e
  exact requestOk_tag h

theorem TagCarried.outletClear (tag : Nat) (b : Body OutletArgs) : TagCarried.Statement (.outletClear tag b) := fun h _ e => by
  cases e
  exact requestOk_tag h

theorem TagCarried.outletEnables (tag : Nat) (b : Body EnablesArgs) : TagCarried.Statement (.outletEnables tag b) := fun h _ e => by
  cases e
  exact requestOk_tag h

theorem TagCarried.outletQuery (tag : Nat) (b : Body OutletArgs) : TagCarried.Statement (.outletQuery tag b) := fun h _ e => by
  cases e
  exact requestOk_tag h

theorem TagCarried.rateQuery (tag : Nat) (b : Body Unit) : TagCarried.Statement (.rateQuery tag b) := fun h _ e => by
  cases e
  exact requestOk_tag h

theorem TagCarried.chargeQuote (tag : Nat) (b : Body QuoteArgs) : TagCarried.Statement (.chargeQuote tag b) := fun h _ e => by
  cases e
  exact requestOk_tag h

theorem TagCarried.tripDelaySet (tag : Nat) (b : Body Nat) : TagCarried.Statement (.tripDelaySet tag b) := fun h _ e => by
  cases e
  exact requestOk_tag h

theorem TagCarried.protectionQuery (tag : Nat) (b : Body ProtectionArgs) : TagCarried.Statement (.protectionQuery tag b) := fun h _ e => by
  cases e
  exact requestOk_tag h

theorem TagCarried.fuelAuthorize (tag : Nat) (b : Body FuelAuthArgs) : TagCarried.Statement (.fuelAuthorize tag b) := fun h _ e => by
  cases e
  exact requestOk_tag h

theorem TagCarried.fuelAbort (tag : Nat) (b : Body Nat) : TagCarried.Statement (.fuelAbort tag b) := fun h _ e => by
  cases e
  exact requestOk_tag h

theorem TagCarried.saleCollect (tag : Nat) (b : Body Nat) : TagCarried.Statement (.saleCollect tag b) := fun h _ e => by
  cases e
  exact requestOk_tag h

theorem TagCarried.pumpProtect (tag : Nat) (b : Body ProtectArgs) : TagCarried.Statement (.pumpProtect tag b) := fun h _ e => by
  cases e
  exact requestOk_tag h

theorem TagCarried.fuelTimersSet (tag : Nat) (b : Body TimersArgs) : TagCarried.Statement (.fuelTimersSet tag b) := fun h _ e => by
  cases e
  exact requestOk_tag h

theorem TagCarried.pumpQuery (tag : Nat) (b : Body Nat) : TagCarried.Statement (.pumpQuery tag b) := fun h _ e => by
  cases e
  exact requestOk_tag h

theorem TagCarried.armModeEnable (tag : Nat) (b : Body Nat) : TagCarried.Statement (.armModeEnable tag b) := fun h _ e => by
  cases e
  exact requestOk_tag h

theorem TagCarried.armModeDisable (tag : Nat) (b : Body Nat) : TagCarried.Statement (.armModeDisable tag b) := fun h _ e => by
  cases e
  exact requestOk_tag h

theorem TagCarried.armModeRestore (tag : Nat) (b : Body Nat) : TagCarried.Statement (.armModeRestore tag b) := fun h _ e => by
  cases e
  exact requestOk_tag h

theorem TagCarried.armConfig (tag : Nat) (b : Body ArmConfigArgs) : TagCarried.Statement (.armConfig tag b) := fun h _ e => by
  cases e
  exact requestOk_tag h

theorem TagCarried.armQuery (tag : Nat) (b : Body Nat) : TagCarried.Statement (.armQuery tag b) := fun h _ e => by
  cases e
  exact requestOk_tag h

theorem TagCarried.relay (tag : Nat) (b : Body RelayArgs) : TagCarried.Statement (.relay tag b) := fun h _ e => by
  cases e
  exact requestOk_tag h

theorem TagCarried.relayRefuseSet (tag : Nat) (b : Body (List (Nat × Nat))) : TagCarried.Statement (.relayRefuseSet tag b) := fun h _ e => by
  cases e
  exact requestOk_tag h

theorem TagCarried.relayQuery (tag : Nat) (b : Body Unit) : TagCarried.Statement (.relayQuery tag b) := fun h _ e => by
  cases e
  exact requestOk_tag h

theorem TagCarried.loadOpen (tag : Nat) (b : Body Nat) : TagCarried.Statement (.loadOpen tag b) := fun h _ e => by
  cases e
  exact requestOk_tag h

theorem TagCarried.loadRow (tag : Nat) (b : Body LoadRowArgs) : TagCarried.Statement (.loadRow tag b) := fun h _ e => by
  cases e
  exact requestOk_tag h

theorem TagCarried.loadCommit (tag : Nat) (b : Body Check) : TagCarried.Statement (.loadCommit tag b) := fun h _ e => by
  cases e
  exact requestOk_tag h

theorem TagCarried.loadDiscard (tag : Nat) (b : Body Unit) : TagCarried.Statement (.loadDiscard tag b) := fun h _ e => by
  cases e
  exact requestOk_tag h

theorem TagCarried.timeSet (tag : Nat) (b : Body Nat) : TagCarried.Statement (.timeSet tag b) := fun h _ e => by
  cases e
  exact requestOk_tag h

theorem TagCarried.status (tag : Nat) (b : Body Unit) : TagCarried.Statement (.status tag b) := fun h _ e => by
  cases e
  exact requestOk_tag h

theorem TagCarried.restart (tag : Nat) (b : Body Unit) : TagCarried.Statement (.restart tag b) := fun h _ e => by
  cases e
  exact requestOk_tag h

theorem TagCarried.trunkConfig (tag : Nat) (b : Body Nat) : TagCarried.Statement (.trunkConfig tag b) := fun h _ e => by
  cases e
  exact requestOk_tag h

theorem TagCarried.unknownRequest (tag : Nat) (kind : Nat) : TagCarried.Statement (.unknownRequest tag kind) := by
  intro h t e
  cases e
  simp only [Instr.wellFormed, tagOk, Bool.and_eq_true, decide_eq_true_eq] at h
  exact h.1.1

theorem TagCarried.nonRequestFrame (tag : Nat) (kind : Nat) : TagCarried.Statement (.nonRequestFrame tag kind) := fun _ _ e => by
  cases e

theorem TagCarried.discardedFrame (bytes : List Byte) : TagCarried.Statement (.discardedFrame bytes) := fun _ _ e => by
  cases e

theorem TagCarried.interByteTimeout (bytes : List Byte) : TagCarried.Statement (.interByteTimeout bytes) := fun _ _ e => by
  cases e

theorem TagCarried.trunkFrameSent : TagCarried.Statement .trunkFrameSent := fun _ _ e => by
  cases e

theorem TagCarried.trunkSilenceExpiry : TagCarried.Statement .trunkSilenceExpiry := fun _ _ e => by
  cases e

theorem TagCarried.clockAdvance : TagCarried.Statement .clockAdvance := fun _ _ e => by
  cases e

theorem TagCarried.scannerVisit : TagCarried.Statement .scannerVisit := fun _ _ e => by
  cases e

theorem TagCarried.departureCloseTimeout (berth : Nat) : TagCarried.Statement (.departureCloseTimeout berth) := fun _ _ e => by
  cases e

theorem TagCarried.scanRow : TagCarried.Statement .scanRow := fun _ _ e => by
  cases e

theorem TagCarried.armRequestSent (arm : Nat) : TagCarried.Statement (.armRequestSent arm) := fun _ _ e => by
  cases e

theorem TagCarried.exchangeReply (arm : Nat) (bytes : List Byte) : TagCarried.Statement (.exchangeReply arm bytes) := fun _ _ e => by
  cases e

theorem TagCarried.replyWindowExpiry (arm : Nat) : TagCarried.Statement (.replyWindowExpiry arm) := fun _ _ e => by
  cases e

theorem TagCarried.lateReply (arm : Nat) (bytes : List Byte) : TagCarried.Statement (.lateReply arm bytes) := fun _ _ e => by
  cases e

theorem TagCarried.probeDue (arm : Nat) : TagCarried.Statement (.probeDue arm) := fun _ _ e => by
  cases e

theorem TagCarried.prioritySweepDue (arm : Nat) : TagCarried.Statement (.prioritySweepDue arm) := fun _ _ e => by
  cases e

theorem TagCarried.regularSlot (arm : Nat) : TagCarried.Statement (.regularSlot arm) := fun _ _ e => by
  cases e

theorem TagCarried.strikeEndExpiry (gate : Nat) : TagCarried.Statement (.strikeEndExpiry gate) := fun _ _ e => by
  cases e

theorem TagCarried.holdExpiry (gate : Nat) : TagCarried.Statement (.holdExpiry gate) := fun _ _ e => by
  cases e

theorem TagCarried.readyTimeout (pump : Nat) : TagCarried.Statement (.readyTimeout pump) := fun _ _ e => by
  cases e

theorem TagCarried.linkLossWindow (pump : Nat) : TagCarried.Statement (.linkLossWindow pump) := fun _ _ e => by
  cases e

end Sys2Proof.Laws
end

