-- ==== Sys2Proof/Safety.lean ====
section
/-! DEFINITION. The laws of the part, as the manual's rules state them: what every reachable state satisfies and every step keeps. The
claims about all steps are stated in these terms. -/

namespace Sys2Proof.Machine

/-- The reply list has room for one more reply (R201). -/
def State.Room (s : State) : Prop :=
  s.trunk.replies.length + s.withheld < 16

/-- A request's end: its reply joins the reply list, and the send side chooses (R201, R202). -/
def State.answered (s : State) (tag kind : Nat) (r : Result) (b : ReplyBody) : State :=
  (s.pushReply { tag := tag, kind := kind, result := r, body := b }).sendNext

/-- The same for a request that can make work ready on an arm: the arbiters choose too (R189). -/
def State.answeredBus (s : State) (tag kind : Nat) (r : Result) (b : ReplyBody) : State :=
  (s.pushReply { tag := tag, kind := kind, result := r, body := b }).arbitrateAll.sendNext

/-- A gate whose station is no longer PRESENT: a DENY mark is cleared, everything else is kept (R65). -/
def Gate.cutOff (x : Gate) : Gate :=
  { x with mark := if x.mark.any (fun m => m.cmd == .deny) = true then none else x.mark }

/-- A pump whose station is no longer PRESENT: READY, FUELLING and STOPPING are suspended at a time, IDLE goes OFFLINE (R150, R164). -/
def Pump.cutOff (x : Pump) (now : Nat) : Pump :=
  match x.state with
  | .ready | .fuelling | .stopping => { x with state := .suspect, suspendedFrom := some x.state, suspectSince := some now }
  | .idle => { x with state := .offline }
  | _ => x

/-- From `s` to `t` the stations of an arm have left PRESENT: the gate or pump of each that was PRESENT is cut off, every other gate and
pump is as before (R180, R182, R184). -/
def OwnersCutOff (s t : State) (a : Nat) : Prop :=
  (∀ g, g < 8 →
    ((∃ d strike grace, s.row a d = .gate g strike grace ∧ s.link a d = .present) → t.gate g = (s.gate g).cutOff) ∧
    ((∀ d strike grace, s.row a d = .gate g strike grace → s.link a d ≠ .present) → t.gate g = s.gate g)) ∧
  ∀ p, p < 4 →
    ((∃ d g0 g1, s.row a d = .pump p g0 g1 ∧ s.link a d = .present) → t.pump p = (s.pump p).cutOff s.clock) ∧
    ((∀ d g0 g1, s.row a d = .pump p g0 g1 → s.link a d ≠ .present) → t.pump p = s.pump p)

/-- An arm's settings lie in their ranges (R185). -/
def ArmSettingsOk (A : Arm) : Prop :=
  (100 ≤ A.period ∧ A.period ≤ 1000) ∧ (50 ≤ A.slotInterval ∧ A.slotInterval ≤ 1000) ∧ (4 ≤ A.window ∧ A.window ≤ 40) ∧
  (1 ≤ A.silence ∧ A.silence ≤ 15) ∧ A.anchor ≤ 30

/-- The settings the office stores, those of the six arms and the six pontoons included, the clock and the walking pointers lie in their
ranges (R19, R20, R82, R136, R148, R185, R198, R203, R209, R211), and the commands that wait are ones the surroundings can send. -/
def SettingsLaw (s : State) : Prop :=
  (∀ c ∈ s.pending, c.wellFormed = true) ∧ s.clock ≤ timeMax ∧ s.grace ≤ 720 ∧ (1 ≤ s.scanPtr ∧ s.scanPtr ≤ 200) ∧
  (10 ≤ s.tripDelay ∧ s.tripDelay ≤ 600) ∧ (30 ≤ s.readyTimeout ∧ s.readyTimeout ≤ 600) ∧
  (60 ≤ s.linkLossWindow ∧ s.linkLossWindow ≤ 3600) ∧ (5 ≤ s.trunk.silenceTime ∧ s.trunk.silenceTime ≤ 255) ∧
  s.refusals.length ≤ 8 ∧ (∀ p ∈ s.refusals, p.1 < 6 ∧ 1 ≤ p.2 ∧ p.2 ≤ 30) ∧ s.scan.row ≤ s.scan.lastRow ∧
  (∀ a, ArmSettingsOk (s.arm a)) ∧ ∀ p, (s.pontoon p).limit ≤ 256

/-- A berth carries an occupant and a reservation part exactly while it is held, and its fees pending lie in 0..255 (R3, R4). -/
def BerthOk (b : Berth) : Prop :=
  b.occupant.isSome = b.state.isHeld ∧ b.reservation.isSome = b.state.isHeld ∧ b.feesPending ≤ 255

/-- Every berth record is as R3 and R4 say. -/
def BerthLaw (s : State) : Prop :=
  ∀ n, BerthOk (s.berth n)

/-- An account's amounts lie in their ranges (R28, R29), its hold list holds at most four entries with ids 0..3, none twice (R36, R37),
and its funds standing is absent exactly in CLOSED (R28). -/
def AccountOk (a : Account) : Prop :=
  (-9999999 ≤ a.balance ∧ a.balance ≤ 9999999) ∧ a.uncollected ≤ 999999999 ∧ a.overdraft ≤ 999999 ∧ a.lowThreshold ≤ 999999 ∧
  (1 ≤ a.restartMin ∧ a.restartMin ≤ 999999) ∧ a.holds.length ≤ 4 ∧ (∀ e ∈ a.holds, e.id < 4) ∧ (a.holds.map (·.id)).Nodup ∧
  (a.funds.isSome = (a.standing != .closed))

/-- Every account record is as R28 and R29 say. -/
def AccountLaw (s : State) : Prop :=
  ∀ n, AccountOk (s.account n)

/-- The presence list holds at most 256 records, no card twice, and for no pontoon more records than its person limit (R80). -/
def PresenceLaw (s : State) : Prop :=
  s.presence.length ≤ 256 ∧ (s.presence.map (·.card)).Nodup ∧ ∀ p, p < 6 → s.count p ≤ (s.pontoon p).limit

/-- A service point has a session exactly in the states other than OFF and FAULT, and its counts lie in their ranges (R89, R90). -/
def PointOk (x : Point) : Prop :=
  x.session.isSome = !x.state.atRest ∧ x.unattributed ≤ 65535 ∧ x.unconfirmed ≤ 3 ∧ ∀ ses, x.session = some ses → ses.residue ≤ 999

/-- The four service points of a post are as R89 says. -/
def PostOk (p : Post) : Prop :=
  PointOk p.power0 ∧ PointOk p.water0 ∧ PointOk p.power1 ∧ PointOk p.water1

/-- Every service point record is as R89 says. -/
def PointLaw (s : State) : Prop :=
  ∀ a d p, s.post? a d = some p → PostOk p

/-- An arm's error count lies in 0..255, its probe count in 0..16 and its stations' missed counts in 0..15; an ISOLATED arm carries no
exchange other than PROBE, and a DISABLED arm none (R180, R181, R182, R183, R184). -/
def ArmOk (A : Arm) : Prop :=
  A.errors ≤ 255 ∧ A.probes ≤ 16 ∧ (∀ d st, (A.slot d).station = some st → st.missed ≤ 15) ∧
  (A.state = .isolated → ∀ ex, A.inFlight = some ex → ex.req = .probe) ∧ (A.state = .disabled → A.inFlight = none)

/-- Every arm is as R181 to R184 say. -/
def ArmLaw (s : State) : Prop :=
  ∀ a, ArmOk (s.arm a)

/-- A sale's preset is at most 999,999 and its amount at the captured price is within the sale's limit (R155); its amount is that of its
volume at the captured price (R157, and R161 at completion). -/
def SaleOk (q : Sale) : Prop :=
  q.preset ≤ 999999 ∧ fuelAmount q.preset q.price ≤ q.limit ∧ q.amount = fuelAmount q.volume q.price

/-- A pump holds at most two completed sales, and it is BLOCKED only while both slots are full, its protect flag is set and the held sale
is its active sale (R148, R162); a SUSPECT pump came from READY, FUELLING or STOPPING (R150); its active sale and its completed sales
have the presets and amounts of R155 and R161. -/
def PumpOk (x : Pump) : Prop :=
  x.slots.length ≤ 2 ∧ (∀ q, x.suspendedFrom = some q → q.isRunning = true) ∧
  (x.state = .blocked → x.slots.length = 2 ∧ x.protect = true ∧ x.sale.isSome = true) ∧
  (∀ q, x.sale = some q → SaleOk q) ∧ ∀ q ∈ x.slots, SaleOk q

/-- Every pump record is as R155, R161 and R162 say. -/
def PumpLaw (s : State) : Prop :=
  ∀ n, PumpOk (s.pump n)

/-- The reply list holds at most so many replies, withheld ones included (R201). -/
def RepliesAtMost (n : Nat) (s : State) : Prop :=
  s.trunk.replies.length + s.withheld ≤ n

/-- The notice queue holds at most 64 notices with its counters in range (R213), and the reply list at most 16 replies, withheld ones
included, with its count in range (R201). -/
def QueueLaw (s : State) : Prop :=
  s.notices.queue.length ≤ 64 ∧ s.notices.next ≤ 65535 ∧ s.notices.dropped ≤ 65535 ∧
  RepliesAtMost 16 s ∧ s.trunk.discarded ≤ 65535

/-- No berth, gate or pump is named by two rows of the six live station tables, nor twice by one row (R5, R177). -/
def RowLaw (s : State) : Prop :=
  (∀ a d, a < 6 → (s.row a d).claims.Nodup) ∧
  ∀ a d a' d' c, a < 6 → a' < 6 → c ∈ (s.row a d).claims → c ∈ (s.row a' d').claims → a = a' ∧ d = d'

/-- The account a berth names as its occupant is not CLOSED (R4). -/
def OccupantLaw (s : State) : Prop :=
  ∀ b n, (s.berth b).occupant = some n → (s.account n).standing ≠ .closed

/-- The states in which a pump's ACCOUNT sale holds funds (R36): READY, FUELLING, STOPPING and SUSPECT. -/
def PumpState.holdsFunds (q : PumpState) : Bool :=
  q.isRunning || q == .suspect

/-- The account and the hold entry that a pump's active ACCOUNT sale stands for (R36): the sale's hold id, the pump, the sale's limit. -/
def Pump.holder (x : Pump) (p : Nat) : Option (Nat × Hold) :=
  match x.state.holdsFunds, x.sale with
  | true, some { source := .account, account := some n, holdId := some i, limit := m, .. } => some (n, { id := i, pump := p, amount := m })
  | _, _ => none

/-- What the sale of a pump stands for. -/
def State.holder (s : State) (p : Nat) : Option (Nat × Hold) :=
  (s.pump p).holder p

/-- The hold lists hold exactly the entries that `f` gives for the pumps, each once: an entry stands on an account exactly where `f` gives
that account and that entry for the entry's pump, no list holds an id twice, and a CLOSED account holds none (R36, R37, R44). -/
def HoldsPaired (f : Nat → Option (Nat × Hold)) (s : State) : Prop :=
  (∀ n e, e ∈ (s.account n).holds ↔ f e.pump = some (n, e)) ∧
  (∀ n, ((s.account n).holds.map (·.id)).Nodup) ∧
  ∀ n, (s.account n).standing = .closed → (s.account n).holds = []

/-- A pump in READY, FUELLING, STOPPING or SUSPECT has an active sale, one with a source ACCOUNT its account and hold id (R148, R155), and a
suspended one came from READY, FUELLING or STOPPING (R164). -/
def SaleBound (x : Pump) : Prop :=
  (x.state.holdsFunds = true → ∃ q, x.sale = some q ∧ (q.source = .account → q.account.isSome = true ∧ q.holdId.isSome = true)) ∧
  ∀ q, x.suspendedFrom = some q → q.isRunning = true

/-- Where the pumps stand: a pump's station is the place whose row names it (R5, R170); a pump whose sale holds funds has a station on an arm
that is not DISABLED (R184); an IDLE pump's station is PRESENT (R150); a PRESENT station's arm is not DISABLED and a DISABLED arm has no
exchange in flight (R180, R184). -/
def PumpsPlaced (s : State) : Prop :=
  (∀ p, p < 4 → ∀ a d, (s.pump p).station = some (a, d) ↔ .pump p ∈ (s.row a d).claims) ∧
  (∀ p, (s.pump p).state.holdsFunds = true → ∃ a d, (s.pump p).station = some (a, d) ∧ (s.arm a).state ≠ .disabled) ∧
  (∀ p, (s.pump p).state = .idle → s.pumpPresent p = true) ∧
  (∀ a d, s.isPresent a d = true → (s.arm a).state ≠ .disabled) ∧
  ∀ a, (s.arm a).state = .disabled → (s.arm a).inFlight = none

/-- The holds pair with the active ACCOUNT sales: an account's hold list holds exactly one hold for each ACCOUNT sale on it whose pump is in
READY, FUELLING, STOPPING or SUSPECT, and no other hold (R36); with what of the pumps and their stations this rests on. -/
def HoldLaw (s : State) : Prop :=
  HoldsPaired s.holder s ∧ (∀ p, SaleBound (s.pump p)) ∧ PumpsPlaced s

/-- The laws by name; `queueIs q` says that the commands that wait are `q`, `repliesAtMost n` that the reply list holds at most `n`. -/
inductive LawName where
  | settings | berths | accounts | presence | points | arms | pumps | queues | rows | occupants | holds
  | queueIs (q : List Instr)
  | repliesAtMost (n : Nat)

/-- A law of a state. -/
def Law (k : LawName) (s : State) : Prop :=
  match k with
  | .settings => SettingsLaw s
  | .berths => BerthLaw s
  | .accounts => AccountLaw s
  | .presence => PresenceLaw s
  | .points => PointLaw s
  | .arms => ArmLaw s
  | .pumps => PumpLaw s
  | .queues => QueueLaw s
  | .rows => RowLaw s
  | .occupants => OccupantLaw s
  | .holds => HoldLaw s
  | .queueIs q => s.pending = q
  | .repliesAtMost n => RepliesAtMost n s

end Sys2Proof.Machine
end

