-- ==== Sys2Proof/Certificates/Slice0/Obligations.lean ====
section
/-! DEFINITION. The statements about the part. Each says in its docstring which rule it is about and, where it rests on a choice of the
model, which log entry. A request's statement gives its whole outcome as one state: `answered` and `answeredBus` (Safety.lean) place the
reply and let the send side, and for `answeredBus` the arbiters, choose; `frameTaken` is what every valid frame does to the link. What the
equation does not change stays. That the choices of an event are made at its end, so that the reply made in an event is sent before a
notice posted in it, is DEDUCED (log entry 29), and every equation through these names or `sendNext` rests on it. A gate's fields `expiry`
and `awaitsHeldEnd` are the model's own (log entry 13). -/

open Sys2Proof Sys2Proof.Machine

/-! ### The queue of commands -/

/-- The model's own step (log entry 1): the command at the front is taken and run with the rest of the queue; an empty queue idles. -/
def Obligations.StepTakesTheFrontCommand : Prop :=
  (∀ (c : Instr) (rest : List Instr) (s : State), s.pending = c :: rest → step s = exec c (s.withQueue rest)) ∧
  ∀ s : State, s.pending = [] → step s = .next s

/-- No rule of the manual stops the part: every command has a next state. That it leaves the commands that wait as they are is the model's
choice, since the queue is the model's own (log entry 1), and for POWER_ON too (log entry 17). -/
def Obligations.EveryCommandCompletesAndKeepsTheQueue : Prop :=
  ∀ (c : Instr) (s : State), ∃ t, exec c s = .next t ∧ t.pending = s.pending

/-! ### Power-on -/

/-- POWER_ON completes from every state and leaves the values the chapters give for power-on (R26, R48, R63, R87, R115, R134, R136, R171,
R191 with R185, R199, R209, R216): for an arm its settings, with no sweep, poll or probe due or running. The queue of commands is the
surroundings' (log entry 17). -/
def Obligations.PowerOnLeavesTheResetValues : Prop :=
  ∀ s : State, ∃ t : State, exec .powerOn s = .next t ∧ t.pending = s.pending ∧
    (∀ n, t.berth n = {
      state := .closed, lengthClass := 0, powerClass := .none, water := false, autoArrival := false, nightlyFee := false
      occupant := none, reservation := none, arrival := none, checkOut := none, feesPending := 0, overstay := false
      overdueSent := false }) ∧
    (∀ n, t.boundSide n = none) ∧ t.grace = 120 ∧ t.scanPtr = 1 ∧
    (∀ n, t.account n = {
      standing := .closed, funds := none, balance := 0, overdraft := 0, lowThreshold := 0, restartMin := 1, holds := []
      uncollected := 0 }) ∧
    t.creds.state = .empty ∧ t.creds.checksum = none ∧
    (∀ r, r < 512 → t.credRow r = {
      enabled := false, code := 0, mask := 0, kind := .crew, berth := none, window := none, pontoons := 0
      antiPassback := false }) ∧
    (∀ g, (t.gate g).station = none ∧ (t.gate g).mode = .normal ∧ (t.gate g).doorOpen = false ∧ (t.gate g).monitor = .idle ∧
      (t.gate g).strikeEnd = none ∧ (t.gate g).passageSeen = false ∧ (t.gate g).mark = none ∧ t.gateOnline g = false) ∧
    (∀ p, t.pontoon p = { limit := 0, tracking := .on }) ∧ t.presence = [] ∧
    (∀ a d, t.row a d = .none ∧ (t.slot a d).station = none ∧ t.post? a d = none) ∧
    t.rates.state = .empty ∧ t.rates.checksum = none ∧ (∀ row ∈ t.rateRows, ∀ b ∈ row, b = 0#8) ∧ t.tripDelay = 60 ∧
    (∀ p, (t.pump p).station = none ∧ (t.pump p).state = .offline ∧ (t.pump p).sale = none ∧ (t.pump p).slots = [] ∧
      (t.pump p).lost = 0 ∧ (t.pump p).closedVolume = none ∧ (t.pump p).mark = none ∧ (t.pump p).protect = true) ∧
    t.readyTimeout = 120 ∧ t.linkLossWindow = 600 ∧
    (∀ a, (t.arm a).state = .disabled ∧ (t.arm a).checksum = none ∧ (t.arm a).errors = 0 ∧ (t.arm a).probes = 0 ∧
      (t.arm a).pointer = 1 ∧ (t.arm a).sweep = none ∧ (t.arm a).sweepWaiting = false ∧ (t.arm a).pollDue = false ∧
      (t.arm a).probeDue = false ∧ (t.arm a).periodRunning = none ∧ (t.arm a).slotRunning = none ∧ (t.arm a).probeTimer = false ∧
      (t.arm a).period = 250 ∧ (t.arm a).slotInterval = 200 ∧ (t.arm a).window = 12 ∧ (t.arm a).silence = 4 ∧
      (t.arm a).anchor = 0 ∧ (t.arm a).autoRestore = true) ∧
    t.refusals = [] ∧ t.relays = [] ∧
    t.trunk.link = .awaiting ∧ t.trunk.silenceTime = 30 ∧ t.clock = 0 ∧ t.trunk.replies = [] ∧ t.notices.queue = [] ∧
    t.notices.next = 0 ∧ t.notices.dropped = 0 ∧ t.trunk.discarded = 0 ∧ t.staging = none ∧
    t.scan = { inRates := false, row := 0, crc := 0xFFFF#16 }

/-! ### Berths and reservations -/

/-- RESERVE (R6): the checks in their order, and what a taken reservation leaves. -/
def Obligations.ReserveHoldsAFreeBerth : Prop :=
  ∀ (s : State) (tag : Nat) (f : ReserveArgs), s.Room →
    exec (.reserve tag (.fields f)) s = .next (
      if ¬ ((1 ≤ f.berth ∧ f.berth ≤ 200) ∧ 1 ≤ f.account ∧ f.account ≤ 256) then s.frameTaken.answered tag 0x10 .range .empty
      else if (s.berth f.berth).state ≠ .free then s.frameTaken.answered tag 0x10 .state .empty
      else if (s.account f.account).standing = .closed ∨ (s.account f.account).standing = .barred then
        s.frameTaken.answered tag 0x10 .denied .empty
      else
        (s.frameTaken.setBerth f.berth { s.berth f.berth with
          state := .reserved, occupant := some f.account
          reservation := some { deadline := f.deadline, enabled := f.deadlineEnable, planned := f.planned }
          overstay := false, overdueSent := false, feesPending := 0, arrival := none }).answered tag 0x10 .done .empty)

/-- CHECK-IN (R8): a walk-in on a FREE berth, an arrival (R7) on a RESERVED or OVERDUE one, and the refusals. That ARRIVED is posted and the
reply made before the send side chooses once is DEDUCED (log entry 29). -/
def Obligations.CheckInRecordsTheVessel : Prop :=
  ∀ (s : State) (tag : Nat) (f : CheckInArgs), s.Room →
    let b := s.berth f.berth
    exec (.checkIn tag (.fields f)) s = .next (
      if ¬ ((1 ≤ f.berth ∧ f.berth ≤ 200) ∧ f.account ≤ 256) then s.frameTaken.answered tag 0x11 .range .empty
      else if b.state = .free then
        if f.account = 0 then s.frameTaken.answered tag 0x11 .range .empty
        else if (s.account f.account).standing = .closed ∨ (s.account f.account).standing = .barred then
          s.frameTaken.answered tag 0x11 .denied .empty
        else
          ((s.frameTaken.setBerth f.berth { b with
              state := .occupied, occupant := some f.account
              reservation := some { deadline := s.clock, enabled := false, planned := f.planned }
              arrival := some s.clock, overstay := false, overdueSent := false }).post
            (.arrived f.berth f.account .checkIn none false)).answered tag 0x11 .done .empty
      else if b.state = .reserved ∨ b.state = .overdue then
        if ¬ (f.account = 0 ∨ b.occupant = some f.account) then s.frameTaken.answered tag 0x11 .range .empty
        else
          ((s.frameTaken.setBerth f.berth { b with
              state := .occupied, arrival := some s.clock
              reservation := b.reservation.map (fun r => { r with planned := f.planned.or r.planned }) }).post
            (.arrived f.berth (b.occupant.getD 0) .checkIn none b.overdueSent)).answered tag 0x11 .done .empty
      else s.frameTaken.answered tag 0x11 .state .empty)

/-- DEPARTURE-SET (R11), BERTH-SET (R16), CLOSE and OPEN (R17): the refusals and the fields each replaces. A CLOSED berth is refused by
RESERVE and CHECK-IN with STATE, and a CREW or GUEST card bound to it that passes the gate's earlier checks fails its berth check (R17). -/
def Obligations.BerthFieldsAreReplacedByRequest : Prop :=
  (∀ (s : State) (tag : Nat) (f : DepartureArgs), s.Room →
    let b := s.berth f.berth
    exec (.departureSet tag (.fields f)) s = .next (
      if ¬ (1 ≤ f.berth ∧ f.berth ≤ 200) then s.frameTaken.answered tag 0x12 .range .empty
      else if ¬ (b.state = .reserved ∨ b.state = .overdue ∨ b.state = .occupied) then s.frameTaken.answered tag 0x12 .state .empty
      else
        (s.frameTaken.setBerth f.berth { b with
          reservation := b.reservation.map (fun r => { r with planned := f.planned }), overstay := false }).answered
          tag 0x12 .done .empty)) ∧
  (∀ (s : State) (tag : Nat) (f : BerthSetArgs) (p : PowerClass), s.Room → powerClassOf f.powerClass = some p →
    let b := s.berth f.berth
    exec (.berthSet tag (.fields f)) s = .next (
      if ¬ ((1 ≤ f.berth ∧ f.berth ≤ 200) ∧ f.lengthClass ≤ 5) then s.frameTaken.answered tag 0x14 .range .empty
      else if (b.state = .reserved ∨ b.state = .overdue ∨ b.state = .occupied ∨ b.state = .departing) ∧
          (p ≠ b.powerClass ∨ f.water ≠ b.water) then
        s.frameTaken.answered tag 0x14 .denied .empty
      else
        (s.frameTaken.setBerth f.berth { b with
          lengthClass := f.lengthClass, powerClass := p, water := f.water, autoArrival := f.autoArrival
          nightlyFee := f.nightlyFee }).answered tag 0x14 .done .empty)) ∧
  (∀ (s : State) (tag : Nat) (f : BerthSetArgs), s.Room → powerClassOf f.powerClass = none →
    exec (.berthSet tag (.fields f)) s = .next (s.frameTaken.answered tag 0x14 .range .empty)) ∧
  (∀ (s : State) (tag b : Nat), s.Room →
    exec (.close tag (.fields b)) s = .next (
      if ¬ (1 ≤ b ∧ b ≤ 200) then s.frameTaken.answered tag 0x15 .range .empty
      else if (s.berth b).state ≠ .free then s.frameTaken.answered tag 0x15 .state .empty
      else (s.frameTaken.setBerth b { s.berth b with state := .closed }).answered tag 0x15 .done .empty)) ∧
  (∀ (s : State) (tag b : Nat), s.Room →
    exec (.open_ tag (.fields b)) s = .next (
      if ¬ (1 ≤ b ∧ b ≤ 200) then s.frameTaken.answered tag 0x16 .range .empty
      else if (s.berth b).state ≠ .closed then s.frameTaken.answered tag 0x16 .state .empty
      else (s.frameTaken.setBerth b { s.berth b with state := .free }).answered tag 0x16 .done .empty)) ∧
  (∀ (s : State) (tag : Nat) (f : ReserveArgs) (g : CheckInArgs), s.Room →
    1 ≤ f.berth → f.berth ≤ 200 → (s.berth f.berth).state = .closed → 1 ≤ f.account → f.account ≤ 256 → g.berth = f.berth →
    g.account ≤ 256 →
    exec (.reserve tag (.fields f)) s = .next (s.frameTaken.answered tag 0x10 .state .empty) ∧
    exec (.checkIn tag (.fields g)) s = .next (s.frameTaken.answered tag 0x11 .state .empty)) ∧
  ∀ (s : State) (p b r : Nat) (c : Card) (row : CredRow), (row.kind = .crew ∨ row.kind = .guest) → row.berth = some b →
    (s.berth b).state = .closed → (∀ w, row.window = some w → w.1 ≤ s.clock ∧ s.clock < w.2) → row.pontoons.testBit p = true →
    s.entryDenial p c (.hit r row) = some .berth

/-- CHECK-OUT (R12). On an OCCUPIED berth: the pending nights are debited, or discarded with a notice; the berth goes to DEPARTING; its
points are ordered to close; and a departure with nothing left to close completes at once (R13). The check-out order (R104) takes each
of the berth's points that has a session to close to CLOSING with reason CHECKOUT and touches nothing else; the end of a departure (R13)
frees the berth and posts DEPARTED. -/
def Obligations.CheckOutEndsAReservationOrAStay : Prop :=
  (∀ (s : State) (tag b : Nat), s.Room →
    let x := s.berth b
    let account := x.occupant.getD 0
    let fee := x.feesPending * nightFee s.rateRows x.lengthClass
    let unfee (t : State) : State := t.setBerth b { t.berth b with feesPending := 0 }
    let settled : State :=
      if x.feesPending = 0 then s.frameTaken
      else if s.rates.state = .valid then unfee (if 0 < fee then s.frameTaken.debit account fee .nightFee else s.frameTaken)
      else unfee (s.frameTaken.post (.feesUnpriced b account x.feesPending))
    let closing : State :=
      (settled.setBerth b { settled.berth b with state := .departing, checkOut := some s.clock }).checkOutOrder b
    exec (.checkOut tag (.fields b)) s = .next (
      if ¬ (1 ≤ b ∧ b ≤ 200) then s.frameTaken.answeredBus tag 0x13 .range .empty
      else if x.state = .reserved ∨ x.state = .overdue then
        (s.frameTaken.setBerth b { x with
          state := .free, occupant := none, reservation := none, arrival := none, checkOut := none, overstay := false
          overdueSent := false }).answeredBus tag 0x13 .done .empty
      else if x.state = .occupied then
        if (closing.berthPoints b).all (fun r => closing.pointIs r (fun st => st == .off || st == .fault)) = true then
          (closing.endDeparture b 0).answeredBus tag 0x13 .done .empty
        else closing.answeredBus tag 0x13 .accepted .empty
      else s.frameTaken.answeredBus tag 0x13 .state .empty)) ∧
  (∀ (s : State) (b : Nat),
    let t := s.checkOutOrder b
    let closes (st : PointState) : Prop := st = .live ∨ st = .starting ∨ st = .suspended ∨ st = .tripped
    (∀ (r : PointRef) (x : Point) (ses : Session), r ∈ s.berthPoints b → s.point? r = some x → x.session = some ses → closes x.state →
      t.point? r = some { x with
        state := .closing, session := some { ses with closeReason := some .checkout }
        unconfirmed := if x.state = .live ∨ x.state = .starting then 0 else x.unconfirmed }) ∧
    (∀ (r : PointRef) (x : Point), r.side ≤ 1 → s.point? r = some x → (r ∉ s.berthPoints b ∨ ¬ closes x.state) →
      t.point? r = some x) ∧
    (∀ a d, t.row a d = s.row a d ∧ (t.slot a d).station = (s.slot a d).station) ∧ { t with arms := s.arms } = s) ∧
  ∀ (s : State) (b n : Nat),
    let x := s.berth b
    s.endDeparture b n =
      (s.setBerth b { x with
        state := .free, occupant := none, reservation := none, arrival := none, checkOut := none, overstay := false
        overdueSent := false }).post
        (.departed b (x.occupant.getD 0) (x.arrival.getD 0) (x.checkOut.getD 0) n x.overstay)

/-- SCANNER-VISIT (R20 to R24): the pointer advances, and the berth visited takes at most the step of its state. -/
def Obligations.ScannerVisitActsOnOneBerth : Prop :=
  ∀ s : State, 1 ≤ s.scanPtr ∧ s.scanPtr ≤ 200 →
    let n := s.scanPtr
    let x := s.berth n
    let account := x.occupant.getD 0
    let after (t : State) : State :=
      ({ t with scanPtr := if n = 200 then 1 else n + 1 }).arbitrateAll.sendNext
    ((x.state = .closed ∨ x.state = .free ∨ x.state = .departing) → exec .scannerVisit s = .next (after s)) ∧
    (∀ r, x.state = .reserved → x.reservation = some r →
      exec .scannerVisit s = .next (after (
        if r.enabled = true ∧ r.deadline ≤ s.clock then
          (s.setBerth n { x with state := .overdue, overdueSent := true }).post (.overdue n account r.deadline)
        else s))) ∧
    (∀ r, x.state = .overdue → x.reservation = some r →
      exec .scannerVisit s = .next (after (
        if r.deadline + s.grace * 60 ≤ s.clock then
          (s.setBerth n { x with
            state := .free, occupant := none, reservation := none, arrival := none, checkOut := none, overstay := false
            overdueSent := false }).post (.lapsed n account r.deadline)
        else s))) ∧
    (∀ r, x.state = .occupied → x.reservation = some r →
      let flagged : State :=
        match r.planned with
        | some p => if x.overstay = false ∧ p ≤ s.clock then
            (s.setBerth n { x with overstay := true }).post (.overstay n account p) else s
        | none => s
      let fee := x.feesPending * nightFee s.rateRows x.lengthClass
      exec .scannerVisit s = .next (after (
        if 0 < x.feesPending ∧ s.rates.state = .valid then
          let paid := if 0 < fee then flagged.debit account fee .nightFee else flagged
          paid.setBerth n { paid.berth n with feesPending := 0 }
        else flagged)))

/-- DEPARTURE_CLOSE_TIMEOUT (R14), which acts where the timeout of a DEPARTING berth has come (log entry 2): the points not OFF or FAULT are
force-closed, and the departure ends with their number as its forced count. The force-close (R105) closes the session of each with close
reason UNCONFIRMED and next state OFF, without a report; it leaves every point of the berth without a session, OFF where it was neither OFF
nor FAULT, and ends no departure by itself (R91). The close of a session (R92): the final rounding with its debit (R128), the SESSION-CLOSED
notice, the next state without a session, the detector part cleared (R147). -/
def Obligations.DepartureCloseTimeoutForcesTheDeparture : Prop :=
  (∀ (s : State) (b : Nat),
    let x := s.berth b
    let forced := (s.berthPoints b).countP (fun r => s.pointIs r (fun st => st != .off && st != .fault))
    exec (.departureCloseTimeout b) s = .next (
      (if x.state = .departing ∧ min (x.checkOut.getD 0 + 60) 4294967295 ≤ s.clock then
        (s.forceClose b).1.endDeparture b forced
      else s).arbitrateAll.sendNext)) ∧
  (∀ (s : State) (b : Nat), PointLaw s →
    let t := (s.forceClose b).1
    t = (s.berthPoints b).foldl (fun u r =>
      match u.point? r with
      | some x => if x.state = .off ∨ x.state = .fault then u else u.closeSession r .unconfirmed .off false
      | none => u) s ∧
    t.berths = s.berths ∧ t.clock = s.clock ∧
    (∀ (r : PointRef) (x : Point), r ∈ s.berthPoints b → s.point? r = some x →
      ∃ y, t.point? r = some y ∧ y.session = none ∧ y.enables = x.enables ∧ y.baseline = x.baseline ∧
        y.unattributed = x.unattributed ∧ y.state = if x.state = .off ∨ x.state = .fault then x.state else .off)) ∧
  ∀ (s : State) (r : PointRef) (x : Point) (ses : Session) (reason : CloseReason) (next : PointState) (report : Bool),
    s.point? r = some x → x.session = some ses → r.side ≤ 1 → (next = .off ∨ next = .fault) →
    let rounded : Session :=
      if 500 ≤ ses.residue then { ses with cents := ses.cents + 1, residue := 0 } else { ses with residue := 0 }
    let stored := s.storePoint r { x with session := some rounded }
    let paid := if 500 ≤ ses.residue then stored.debit ses.account 1 .meter else stored
    let t := s.closeSession r reason next report
    (∃ y z, paid.point? r = some y ∧ y.session = some z ∧ z.cents = rounded.cents ∧ z.residue = 0 ∧
      let told := paid.post (.sessionClosed r (s.pointBerth r) { z with closeReason := some reason } s.clock reason)
      let gone : Point := { y with state := next, session := none }
      let left := if report = true then told.changePoint r gone else told.changeQuiet r gone
      t = if r.svc = .power then
          left.setDetector r.arm r.addr r.side { run := 0, sum := 0, count := 0, latch := false, last := none }
        else left) ∧
    ∃ y, t.point? r = some y ∧ y.state = next ∧ y.session = none ∧ y.enables = x.enables ∧ y.baseline = x.baseline ∧
      y.unattributed = x.unattributed

/-! ### Queries and settings -/

/-- The queries of one record: BERTH-QUERY (R18), ACCOUNT-QUERY (R45), GATE-QUERY (R86), PRESENCE-QUERY (R83), PUMP-QUERY (R169),
ARM-QUERY (R186) and PROTECTION-QUERY (R146) answer with the record as it stands and change nothing besides the reply list. That the time at
which PROTECTION-QUERY allows a TAP release is exact is DEDUCED (log entry 21). -/
def Obligations.RecordQueriesChangeNothing : Prop :=
  ∀ (s : State) (tag : Nat), s.Room →
    (∀ n, exec (.berthQuery tag (.fields n)) s = .next (
      if 1 ≤ n ∧ n ≤ 200 then s.frameTaken.answered tag 0x17 .done (.berth n (s.berth n) (s.boundSide n))
      else s.frameTaken.answered tag 0x17 .range .empty)) ∧
    (∀ n, exec (.accountQuery tag (.fields n)) s = .next (
      if 1 ≤ n ∧ n ≤ 256 then
        s.frameTaken.answered tag 0x25 .done (.account (s.account n)
          (if (s.account n).standing = .closed then none
            else some ((s.account n).balance + (s.account n).overdraft - heldSum (s.account n).holds)))
      else s.frameTaken.answered tag 0x25 .range .empty)) ∧
    (∀ g, exec (.gateQuery tag (.fields g)) s = .next (
      if g < 8 then
        s.frameTaken.answered tag 0x32 .done (.gate g (s.gate g) (s.gateOnline g)
          ((s.gate g).station.map (fun p => ((s.pontoon p.1).tracking, s.count p.1))))
      else s.frameTaken.answered tag 0x32 .range .empty)) ∧
    (∀ f : PresenceArgs, exec (.presenceQuery tag (.fields f)) s = .next (
      if f.first ≤ 255 ∧ (∀ p ∈ selPontoons f.sel, p < 6) then
        s.frameTaken.answered tag 0x34 .done (.presence
          ((selPontoons f.sel).map (fun p => ((s.pontoon p).limit, s.count p, (s.pontoon p).tracking)))
          (s.presence.filter (selMatches f.sel)).length (((s.presence.filter (selMatches f.sel)).drop f.first).take 16))
      else s.frameTaken.answered tag 0x34 .range .empty)) ∧
    (∀ p, exec (.pumpQuery tag (.fields p)) s = .next (
      if p < 4 then s.frameTaken.answered tag 0x4D .done (.pump p (s.pump p))
      else s.frameTaken.answered tag 0x4D .range .empty)) ∧
    (∀ a, exec (.armQuery tag (.fields a)) s = .next (
      if a < 6 then
        s.frameTaken.answered tag 0x52 .done (.arm (s.arm a).state (s.arm a).errors (s.arm a).period (s.arm a).slotInterval
          (s.arm a).window (s.arm a).silence (s.arm a).anchor (s.arm a).autoRestore (s.arm a).anchorInForce (s.arm a).probes
          (s.arm a).pointer (s.arm a).sweep (s.arm a).checksum ((List.range 30).map (fun i => s.addressReport a (i + 1))))
      else s.frameTaken.answered tag 0x52 .range .empty)) ∧
    (∀ f : ProtectionArgs, exec (.protectionQuery tag (.fields f)) s = .next (
      if f.arm < 6 ∧ (1 ≤ f.addr ∧ f.addr ≤ 30) ∧ f.side ≤ 1 then
        match s.row f.arm f.addr with
        | .post _ _ offset shift fullScale n w =>
          let rating := s.rating (s.sideBerth f.arm f.addr f.side)
          s.frameTaken.answered tag 0x43 .done (.protection offset shift fullScale n w rating (rating * 9 / 10)
            (s.detector f.arm f.addr f.side) s.tripDelay
            (s.tapAllowedAt { arm := f.arm, addr := f.addr, side := f.side, svc := .power }))
        | _ => s.frameTaken.answered tag 0x43 .state .empty
      else s.frameTaken.answered tag 0x43 .range .empty))

/-- The queries of tables and of the part: CREDENTIAL-READ (R61), MATCH-TEST (R62), RATE-QUERY (R132), CHARGE-QUOTE (R133), RELAY-QUERY
(R198), OUTLET-QUERY (R108) and STATUS (R214) answer and change nothing besides the reply list; MATCH-TEST reports the table state with its
answer (R51). That the ranges of CHARGE-QUOTE are judged before the table's state is the model's choice (log entry 9). -/
def Obligations.TableQueriesChangeNothing : Prop :=
  ∀ (s : State) (tag : Nat), s.Room →
    (∀ r, exec (.credentialRead tag (.fields r)) s = .next (
      if 512 ≤ r then s.frameTaken.answered tag 0x28 .range .empty
      else if s.creds.state = .empty then s.frameTaken.answered tag 0x28 .state .empty
      else s.frameTaken.answered tag 0x28 .done (.credential s.creds.state (s.credRow r)))) ∧
    (∀ c : Card, exec (.matchTest tag (.fields c)) s = .next (
      s.frameTaken.answered tag 0x29 .done (.matched s.creds.state (s.consult c)
        (match s.consult c with
          | .hit _ row =>
            match row.window with
            | none => .none
            | some (f, u) => if s.clock < f then .before else if s.clock < u then .within else .after
          | _ => .none)))) ∧
    (exec (.rateQuery tag (.fields ())) s = .next (
      if s.rates.state = .empty then s.frameTaken.answered tag 0x40 .state .empty
      else s.frameTaken.answered tag 0x40 .done (.rates s.rates.state s.rates.checksum s.rates.rows.toList))) ∧
    (∀ (p : Nat) (form : QuoteForm), (1 ≤ p ∧ p ≤ 65535) → quoteInRange { form := form, source := .price p } = true →
      exec (.chargeQuote tag (.fields { form := form, source := .price p })) s = .next (
        s.frameTaken.answered tag 0x41 .done (
          match form with
          | .amount v => .quoteAmount p ((v * p + 500) / 1000) v
          | .stop h => .quoteStop p (min 999999 ((1000 * h + 499) / p)) (fuelAmount (min 999999 ((1000 * h + 499) / p)) p)
              (decide (999999 < (1000 * h + 499) / p))))) ∧
    (∀ (g : Nat) (form : QuoteForm), quoteInRange { form := form, source := .grade g } = true →
      exec (.chargeQuote tag (.fields { form := form, source := .grade g })) s = .next (
        if s.rates.state = .valid then s.frameTaken.answered tag 0x41 .done (quoteOf (fuelPrice s.rateRows g) form)
        else s.frameTaken.answered tag 0x41 .state .empty)) ∧
    (∀ f : QuoteArgs, quoteInRange f = false →
      exec (.chargeQuote tag (.fields f)) s = .next (s.frameTaken.answered tag 0x41 .range .empty)) ∧
    (exec (.relayQuery tag (.fields ())) s = .next (
      s.frameTaken.answered tag 0x5A .done (.relays s.refusals ((List.range 6).map s.transferOn)))) ∧
    (∀ (f : OutletArgs) (svcs : List Service) (d : SideRef), servicesOf f.service = some svcs → selInRange f.sel = true →
      s.selected f.sel = some d →
      exec (.outletQuery tag (.fields f)) s = .next (
        s.frameTaken.answered tag 0x3E .done (.outlets
          ((d.points svcs).filterMap (fun r => (s.point? r).map (fun x => { point := r, berth := s.pointBerth r, record := x })))
          ((s.post? d.arm d.addr).bind (·.mark))))) ∧
    (∀ f : OutletArgs, (servicesOf f.service = none ∨ selInRange f.sel = false) →
      exec (.outletQuery tag (.fields f)) s = .next (s.frameTaken.answered tag 0x3E .range .empty)) ∧
    (∀ (f : OutletArgs) (svcs : List Service), servicesOf f.service = some svcs → selInRange f.sel = true → s.selected f.sel = none →
      exec (.outletQuery tag (.fields f)) s = .next (s.frameTaken.answered tag 0x3E .state .empty)) ∧
    (let t := s.frameTaken
      let queued (c : NoticeClass) : Nat := (t.notices.queue.filter (fun n => n.body.cls == c)).length
      exec (.status tag (.fields ())) s = .next (t.answered tag 0x65 .done
        (.status t.trunk.link t.trunk.silenceTime t.clock t.creds.state t.rates.state (t.staging.map (·.table)) t.scan
          (queued .routine) (queued .urgent) t.notices.dropped t.trunk.discarded t.notices.next
          ((List.range 6).map (fun a => ((t.arm a).state, (t.arm a).errors))))))

/-- The requests that store a setting: GRACE-SET (R19), TRIP-DELAY-SET (R136), TRUNK-CONFIG (R203), PONTOON-SET (R82), RELAY-REFUSE-SET
(R198) and ARM-CONFIG (R185) store the value given in its range and refuse it outside. -/
def Obligations.SettingsAreStoredWithinTheirRanges : Prop :=
  ∀ (s : State) (tag : Nat), s.Room →
    (∀ n, exec (.graceSet tag (.fields n)) s = .next (
      if 720 < n then s.frameTaken.answered tag 0x18 .range .empty
      else ({ s.frameTaken with grace := n }).answered tag 0x18 .done .empty)) ∧
    (∀ n, exec (.tripDelaySet tag (.fields n)) s = .next (
      if 10 ≤ n ∧ n ≤ 600 then ({ s.frameTaken with tripDelay := n }).answered tag 0x42 .done .empty
      else s.frameTaken.answered tag 0x42 .range .empty)) ∧
    (∀ n, exec (.trunkConfig tag (.fields n)) s = .next (
      if 5 ≤ n ∧ n ≤ 255 then
        (s.frameTaken.setTrunk { s.frameTaken.trunk with silenceTime := n }).answered tag 0x67 .done .empty
      else s.frameTaken.answered tag 0x67 .range .empty)) ∧
    (∀ f : PontoonSetArgs, exec (.pontoonSet tag (.fields f)) s = .next (
      if ¬ (f.pontoon < 6 ∧ f.limit ≤ 256) then s.frameTaken.answered tag 0x33 .range .empty
      else if f.limit < s.count f.pontoon then s.frameTaken.answered tag 0x33 .state (.count (s.count f.pontoon))
      else (s.frameTaken.setPontoon f.pontoon { s.pontoon f.pontoon with limit := f.limit }).answered tag 0x33 .done .empty)) ∧
    (∀ pairs : List (Nat × Nat), exec (.relayRefuseSet tag (.fields pairs)) s = .next (
      if pairs.length ≤ 8 ∧ ∀ p ∈ pairs, p.1 < 6 ∧ 1 ≤ p.2 ∧ p.2 ≤ 30 then
        ({ s.frameTaken with refusals := pairs }).answered tag 0x59 .done (.refusals pairs)
      else s.frameTaken.answered tag 0x59 .range .empty)) ∧
    (∀ f : ArmConfigArgs,
      let A := s.arm f.arm
      exec (.armConfig tag (.fields f)) s = .next (
      if f.arm < 6 ∧ (100 ≤ f.period ∧ f.period ≤ 1000) ∧ (50 ≤ f.slot ∧ f.slot ≤ 1000) ∧ (4 ≤ f.window ∧ f.window ≤ 40) ∧
          (1 ≤ f.silence ∧ f.silence ≤ 15) ∧ (f.anchor = 0 ∨ ((1 ≤ f.anchor ∧ f.anchor ≤ 30) ∧ (A.slot f.anchor).row.kind ≠ .none)) then
        (s.frameTaken.setArm f.arm { A with
          period := f.period, slotInterval := f.slot, window := f.window, silence := f.silence, anchor := f.anchor
          autoRestore := f.autoRestore
          probes := if A.state = .isolated ∧ (f.anchor ≠ A.anchor ∨ f.autoRestore ≠ A.autoRestore) then 0 else A.probes }).answered
          tag 0x51 .done .empty
      else s.frameTaken.answered tag 0x51 .range .empty))

/-! ### Accounts and holds -/

/-- ACCOUNT-DEBIT (R34), a forced debit (R33): the balance falls by the amount down to its floor, the excess goes to uncollected, and the
standing is recomputed (R31, R32). That the notices of the new standing are posted and the reply made before the arbiters and the send side
choose once is DEDUCED (log entry 29). -/
def Obligations.AccountDebitIsForcedDownToTheFloor : Prop :=
  ∀ (s : State) (tag : Nat) (f : AmountArgs), s.Room →
    let a := s.account f.account
    let charged : Account :=
      if -9999999 ≤ a.balance - f.amount then { a with balance := a.balance - f.amount }
      else { a with
        balance := -9999999
        uncollected := min (a.uncollected + (f.amount - (a.balance + 9999999)).toNat) 999999999 }
    let t := (s.frameTaken.setAccount f.account charged).recompute f.account
    exec (.accountDebit tag (.fields f)) s = .next (
      if ¬ ((1 ≤ f.account ∧ f.account ≤ 256) ∧ 1 ≤ f.amount ∧ f.amount ≤ 999999) then
        s.frameTaken.answeredBus tag 0x20 .range .empty
      else if a.standing = .closed then s.frameTaken.answeredBus tag 0x20 .state .empty
      else
        t.answeredBus tag 0x20 .done (.debited (t.account f.account).balance (t.account f.account).uncollected
          (t.account f.account).standing))

/-- CREDIT (R41), ACCOUNT-OPEN (R42), ACCOUNT-SET (R43) and ACCOUNT-CLOSE (R44): the checks in their order and the record each leaves. That
the notices of a new standing are posted and the reply made before the arbiters and the send side choose once is DEDUCED (log entry 29). -/
def Obligations.AccountsAreFundedOpenedSetAndClosed : Prop :=
  (∀ (s : State) (tag : Nat) (f : AmountArgs), s.Room →
    let a := s.account f.account
    let t := (s.frameTaken.setAccount f.account { a with balance := a.balance + f.amount }).recompute f.account
    exec (.credit tag (.fields f)) s = .next (
      if ¬ ((1 ≤ f.account ∧ f.account ≤ 256) ∧ 1 ≤ f.amount ∧ f.amount ≤ 999999) then
        s.frameTaken.answeredBus tag 0x21 .range .empty
      else if a.standing = .closed then s.frameTaken.answeredBus tag 0x21 .state .empty
      else if 9999999 < a.balance + f.amount then s.frameTaken.answeredBus tag 0x21 .range .empty
      else
        t.answeredBus tag 0x21 .done (.credited (t.account f.account).balance (t.account f.account).available
          (t.account f.account).standing))) ∧
  (∀ (s : State) (tag : Nat) (f : LimitsArgs), s.Room →
    let funds : Funds := if f.overdraft = 0 then .exhausted else if f.overdraft < f.lowThreshold then .low else .good
    exec (.accountOpen tag (.fields f)) s = .next (
      if ¬ ((1 ≤ f.account ∧ f.account ≤ 256) ∧ f.overdraft ≤ 999999 ∧ f.lowThreshold ≤ 999999 ∧ 1 ≤ f.restartMin ∧
          f.restartMin ≤ 999999) then s.frameTaken.answered tag 0x22 .range .empty
      else if (s.account f.account).standing ≠ .closed then s.frameTaken.answered tag 0x22 .state .empty
      else
        (s.frameTaken.setAccount f.account {
          standing := funds.standing, funds := some funds, balance := 0, overdraft := f.overdraft, lowThreshold := f.lowThreshold
          restartMin := f.restartMin, holds := [], uncollected := 0 }).answered tag 0x22 .done (.standing funds.standing))) ∧
  (∀ (s : State) (tag : Nat) (f : LimitsArgs), s.Room →
    let t := (s.frameTaken.setAccount f.account { s.account f.account with
      overdraft := f.overdraft, lowThreshold := f.lowThreshold, restartMin := f.restartMin }).recompute f.account
    exec (.accountSet tag (.fields f)) s = .next (
      if ¬ ((1 ≤ f.account ∧ f.account ≤ 256) ∧ f.overdraft ≤ 999999 ∧ f.lowThreshold ≤ 999999 ∧ 1 ≤ f.restartMin ∧
          f.restartMin ≤ 999999) then s.frameTaken.answeredBus tag 0x23 .range .empty
      else if (s.account f.account).standing = .closed then s.frameTaken.answeredBus tag 0x23 .state .empty
      else t.answeredBus tag 0x23 .done (.standing (t.account f.account).standing))) ∧
  (∀ (s : State) (tag n : Nat), s.Room →
    let a := s.account n
    exec (.accountClose tag (.fields n)) s = .next (
      if ¬ (1 ≤ n ∧ n ≤ 256) then s.frameTaken.answered tag 0x24 .range .empty
      else if a.standing = .closed ∨ a.holds ≠ [] ∨ s.berthNames n = true ∨ s.sessionNames n = true then
        s.frameTaken.answered tag 0x24 .state .empty
      else
        (s.frameTaken.setAccount n {
          standing := .closed, funds := none, balance := 0, overdraft := 0, lowThreshold := 0, restartMin := 1, holds := []
          uncollected := 0 }).answered tag 0x24 .done (.closedAccount a.balance a.uncollected)))

/-- BAR (R46) and UNBAR (R47), each with the action of R32 on the change of standing. -/
def Obligations.BarAndUnbarMoveTheStanding : Prop :=
  (∀ (s : State) (tag n : Nat), s.Room →
    let a := s.account n
    exec (.bar tag (.fields n)) s = .next (
      if ¬ (1 ≤ n ∧ n ≤ 256) then s.frameTaken.answeredBus tag 0x26 .range .empty
      else if a.standing = .closed ∨ a.standing = .barred then s.frameTaken.answeredBus tag 0x26 .state .empty
      else
        (((s.frameTaken.setAccount n { a with standing := .barred }).suspendAccount n .barred).post
          (.barred n a.balance)).answeredBus tag 0x26 .done .empty)) ∧
  (∀ (s : State) (tag n : Nat) (f : Funds), s.Room → (1 ≤ n ∧ n ≤ 256) → (s.account n).standing = .barred →
    (s.account n).funds = some f →
    let a := s.account n
    let t := s.frameTaken.setAccount n { a with standing := f.standing }
    exec (.unbar tag (.fields n)) s = .next (
      (match f with
        | .exhausted => (t.suspendAccount n .credit).post (.exhausted n a.available a.balance a.holds.length)
        | _ => (t.creditRelease n).post (.restored n f.standing a.available)).answeredBus tag 0x27 .done (.standing f.standing))) ∧
  (∀ (s : State) (tag n : Nat), s.Room →
    (¬ (1 ≤ n ∧ n ≤ 256) → exec (.unbar tag (.fields n)) s = .next (s.frameTaken.answeredBus tag 0x27 .range .empty)) ∧
    ((1 ≤ n ∧ n ≤ 256) → (s.account n).standing ≠ .barred →
      exec (.unbar tag (.fields n)) s = .next (s.frameTaken.answeredBus tag 0x27 .state .empty)))

/-- The recomputation of an open account (R31): the table of funds standings, the standing that follows, and nothing else; and on the state
the action of R32 on a change of standing, the notice after the suspension order or the credit-release event, which R99 spells for one
point. -/
def Obligations.FundsStandingFollowsTheTable : Prop :=
  (∀ (a : Account) (f : Funds), a.funds = some f →
    let A := a.balance + a.overdraft - heldSum a.holds
    let g : Funds :=
      if f = .exhausted ∧ A < a.restartMin then .exhausted
      else if f ≠ .exhausted ∧ A ≤ 0 then .exhausted
      else if A < a.lowThreshold then .low
      else .good
    a.recomputed = { a with funds := some g, standing := if a.standing = .barred then .barred else g.standing }) ∧
  (∀ (s : State) (n : Nat), 1 ≤ n → n ≤ 256 →
    let a := s.account n
    let b := a.recomputed
    let t := s.setAccount n b
    let A := b.balance + b.overdraft - heldSum b.holds
    (b.standing = a.standing → s.recompute n = t) ∧
    (a.standing = .good → b.standing = .low → s.recompute n = t.post (.low n A b.lowThreshold)) ∧
    ((a.standing = .good ∨ a.standing = .low) → b.standing = .exhausted →
      s.recompute n = (t.suspendAccount n .credit).post (.exhausted n A b.balance b.holds.length)) ∧
    (a.standing = .low → b.standing = .good → s.recompute n = t) ∧
    (a.standing = .exhausted → (b.standing = .good ∨ b.standing = .low) →
      s.recompute n = (t.creditRelease n).post (.restored n b.standing A))) ∧
  ∀ (s : State) (n : Nat) (r : PointRef) (x : Point), s.point? r = some x → r.side ≤ 1 →
    let releases (ses : Session) : Prop :=
      x.state = .suspended ∧ ses.account = n ∧ (ses.suspension = some .credit ∨ ses.suspension = some .barred) ∧
      x.enables.credit = true ∧ (∃ b, s.pointBerth r = some b ∧ (s.berth b).state = .occupied) ∧
      ((s.account n).standing = .good ∨ (s.account n).standing = .low)
    (∀ ses, x.session = some ses → releases ses →
      (s.creditRelease n).point? r = some { x with
        state := .starting, unconfirmed := 0
        session := some { ses with suspension := none, tripCause := none, tripTime := none, lastRelease := some .credit } }) ∧
    ((∀ ses, x.session = some ses → ¬ releases ses) → (s.creditRelease n).point? r = some x) ∧
    { s.creditRelease n with arms := s.arms } = s

/-- HOLD (R37), SETTLE (R38) and RELEASE (R39) move the available amount: a grant by the amount set aside, a settlement by the hold less the
actual as long as the floor is not reached, a release by the hold. On the state: HOLD answers by the first check that fails or adds its
entry; SETTLE removes the hold and debits the actual with one recomputation; RELEASE removes the hold; a DEBIT, a SETTLE or a RELEASE that
reaches a CLOSED account (R35), or a RELEASE without its hold, posts ACCOUNT-MISMATCH alone, and a SETTLE without its hold posts it besides.
That this last one comes after the notice of a change of standing is the model's choice (log entry 31). -/
def Obligations.HoldsMoveTheAvailableAmount : Prop :=
  (∀ (a : Account) (p w m : Nat), a.holdRefusal w m = none →
    let granted := (min (w : Int) a.available).toNat
    ({ a with holds := a.holds ++ [{ id := freeHoldId a.holds, pump := p, amount := granted }] } : Account).available =
      a.available - granted ∧ (m : Int) ≤ min (w : Int) a.available ∧ freeHoldId a.holds < 4 ∧
      freeHoldId a.holds ∉ a.holds.map (·.id)) ∧
  (∀ (a : Account) (h : Hold), AccountOk a → h ∈ a.holds →
    (a.withoutHold h.id).available = a.available + h.amount ∧ h ∉ (a.withoutHold h.id).holds ∧
    (∀ e ∈ a.holds, e ≠ h → e ∈ (a.withoutHold h.id).holds) ∧
    ∀ d : Nat, -9999999 ≤ a.balance - d → ((a.withoutHold h.id).charged d).available = a.available + h.amount - d) ∧
  ∀ (s : State) (n id d : Nat),
    let a := s.account n
    let charged (x : Account) : Account :=
      if -9999999 ≤ x.balance - d then { x with balance := x.balance - d }
      else { x with balance := -9999999, uncollected := min (x.uncollected + (d - (x.balance + 9999999)).toNat) 999999999 }
    let left : Account := { a with holds := a.holds.filter (fun h => h.id != id) }
    let mismatch (kind : MismatchKind) (amount hold : Option Nat) (src : Option DebitSource) : State :=
      s.post (.accountMismatch n kind amount hold src)
    (∀ pump least,
      s.hold n pump d least =
        if a.standing = .closed then (s, .error .closed)
        else if a.standing = .barred then (s, .error .barred)
        else if a.standing = .exhausted then (s, .error .exhausted)
        else if 4 ≤ a.holds.length then (s, .error .holdsFull)
        else if min (d : Int) a.available < least then (s, .error .insufficient)
        else
          let amount := (min (d : Int) a.available).toNat
          let entry : Hold := { id := freeHoldId a.holds, pump := pump, amount := amount }
          ((s.setAccount n { a with holds := a.holds ++ [entry] }).recompute n, .ok (entry.id, amount))) ∧
    (∀ src,
      s.debit n d src =
        if a.standing = .closed then mismatch .debit (some d) none (some src)
        else (s.setAccount n (charged a)).recompute n) ∧
    (let t := (s.setAccount n (charged left)).recompute n;
      s.settle n id d =
        if a.standing = .closed then mismatch .settle (some d) (some id) none
        else if id ∈ a.holds.map (·.id) then t
        else t.post (.accountMismatch n .settle (some d) (some id) none)) ∧
    s.release n id =
      if a.standing ≠ .closed ∧ id ∈ a.holds.map (·.id) then (s.setAccount n left).recompute n
      else mismatch .release none (some id) none

/-- The suspension order (R97): afterwards no STARTING or LIVE point has a session that names the account, and every point that was not one of
them keeps its record. -/
def Obligations.SuspensionOrderTakesEveryPointOut : Prop :=
  ∀ (s : State) (n : Nat) (reason : SuspReason) (r : PointRef) (x : Point), s.point? r = some x → r.side ≤ 1 →
    ∃ y, (s.suspendAccount n reason).point? r = some y ∧
      (∀ ses, y.session = some ses → ses.account = n → y.state ≠ .starting ∧ y.state ≠ .live) ∧
      ((x.state ≠ .starting ∧ x.state ≠ .live) → y = x) ∧
      (∀ ses, x.session = some ses → ses.account ≠ n → y = x) ∧
      (∀ ses, x.session = some ses → ses.account = n → (x.state = .starting ∨ x.state = .live) →
        y = { x with state := .suspended, session := some { ses with suspension := some reason }, unconfirmed := 0 })

/-! ### Credentials -/

/-- The match for a card (R52): the covering row with the lowest number, whatever higher rows cover; no match where no row covers. -/
def Obligations.MatchIsTheLowestCoveringRow : Prop :=
  ∀ (s : State) (c : Card),
    let covers (r : Nat) : Prop :=
      (s.credRow r).enabled = true ∧ (c ^^^ (s.credRow r).code) &&& (s.credRow r).mask = 0
    (∀ r row, s.matchRow c = some (r, row) ↔ r < 512 ∧ row = s.credRow r ∧ covers r ∧ ∀ q, q < r → ¬ covers q) ∧
    (s.matchRow c = none ↔ ∀ r, r < 512 → ¬ covers r)

/-! ### Gates and presence -/

/-- GATE-MODE (R66), with the tracking judged afresh (R81): the refusal, a mode equal to the present one, an unconfigured gate, and the
table of changes of a configured one. A change out of FREE, configured or not, makes the gate await the end of its held release (R76). That
a change into FREE sets passage seen to no is the model's choice (log entry 34), and the stage of the expiry and the awaited end are the
model's own fields (log entry 13). A judgement that changes the tracking posts TRACKING with the pontoon's count, and one that does not
changes nothing (R81). -/
def Obligations.GateModeMovesMarkAndMonitor : Prop :=
  (∀ (s : State) (tag : Nat) (f : GateModeArgs), s.Room → (gateModeOf f.mode = none ∨ ¬ f.gate < 8) →
    exec (.gateMode tag (.fields f)) s = .next (s.frameTaken.answeredBus tag 0x30 .range .empty)) ∧
  (∀ (s : State) (tag : Nat) (f : GateModeArgs) (m : GateMode), s.Room → gateModeOf f.mode = some m → f.gate < 8 →
    let g := s.gate f.gate
    let taken : Gate :=
      if g.station = none then { g with mode := m, awaitsHeldEnd := g.awaitsHeldEnd || g.mode == .free }
      else if g.mode = .free then
        { g with
          mode := m, mark := some { cmd := .strike, setAgain := true }, monitor := .released
          strikeEnd := some (min (s.clock + g.strikeTime.getD 0) 4294967295), passageSeen := g.doorOpen
          expiry := .strikePending, awaitsHeldEnd := true }
      else if m = .free then
        { g with
          mode := m, mark := some { cmd := .holdRelease, setAgain := true }, monitor := .idle, strikeEnd := none
          passageSeen := false, expiry := .taken }
      else { g with mode := m }
    let t := s.frameTaken.setGate f.gate taken
    exec (.gateMode tag (.fields f)) s = .next (
      if m = g.mode then s.frameTaken.answeredBus tag 0x30 .done .empty
      else
        (match g.station with
          | some (p, _) => if g.mode = GateMode.free ∨ m = GateMode.free then t.judgeTracking p else t
          | none => t).answeredBus tag 0x30 .done .empty)) ∧
  ∀ (s : State) (p : Nat), p < 6 →
    (((s.judgeTracking p).pontoon p).tracking = .suspended ↔
      ∃ g ∈ s.gates.toList, g.station.map Prod.fst = some p ∧ g.mode = .free) ∧
    ((s.judgeTracking p).pontoon p).limit = (s.pontoon p).limit ∧
    (∀ q, q ≠ p → (s.judgeTracking p).pontoon q = s.pontoon q) ∧
    let now := ((s.judgeTracking p).pontoon p).tracking
    (now = (s.pontoon p).tracking → s.judgeTracking p = s) ∧
    (now ≠ (s.pontoon p).tracking →
      s.judgeTracking p = (s.setPontoon p { s.pontoon p with tracking := now }).post
        (.tracking p now (s.presence.countP (fun r => r.pontoon == p))))

/-- GATE-OPEN (R85), a remote grant with its mark (R75) and its release (R77), and PRESENCE-REMOVE (R84). The stage of the expiry that the
release sets is the model's own field (log entry 13). -/
def Obligations.RemoteGrantAndPresenceRemoval : Prop :=
  (∀ (s : State) (tag g : Nat), s.Room →
    let x := s.gate g
    let strikeEnd := some (min (s.clock + x.strikeTime.getD 0) 4294967295)
    let released : Gate :=
      match x.monitor with
      | .idle => { x with monitor := .released, strikeEnd := strikeEnd, passageSeen := false, expiry := .strikePending }
      | .released => { x with strikeEnd := strikeEnd, expiry := .strikePending }
      | _ => x
    exec (.gateOpen tag (.fields g)) s = .next (
      if ¬ g < 8 then s.frameTaken.answeredBus tag 0x31 .range .empty
      else if x.station = none then s.frameTaken.answeredBus tag 0x31 .state .empty
      else if s.gateOnline g = false then s.frameTaken.answeredBus tag 0x31 .busy .empty
      else if x.mode = .free then s.frameTaken.answeredBus tag 0x31 .done .empty
      else
        ((s.frameTaken.setGate g { released with mark := some { cmd := .strike, setAgain := true } }).post
          (.passage g ((x.station.map Prod.fst).getD 0) .remote none none none true none .none none)).answeredBus
          tag 0x31 .done .empty)) ∧
  ∀ (s : State) (tag : Nat) (c : Card), s.Room →
    exec (.presenceRemove tag (.fields c)) s = .next (
      match s.presenceOf c with
      | none => s.frameTaken.answered tag 0x35 .state .empty
      | some r =>
        ({ s.frameTaken with presence := s.presence.filter (fun q => q.card != c) }).answered tag 0x35 .done
          (.removed r.pontoon r.entry))

/-- STRIKE-END-EXPIRY and HOLD-EXPIRY (R79, and R76 for a STRIKE not carried), each acting where it has come (log entry 2). The stage of the
expiry is the model's own field (log entry 13), and so is the choice that passage seen is kept in HELD and is no after the return to IDLE
(log entry 34). -/
def Obligations.StrikeEndAndHoldExpiriesMoveTheMonitor : Prop :=
  ∀ (s : State) (g : Nat),
    let x := s.gate g
    let y : Gate := if (∃ b, x.mark = some { cmd := .strike, setAgain := b }) ∧ x.awaitsHeldEnd = false then { x with mark := none } else x
    (exec (.strikeEndExpiry g) s = .next (
      (if x.monitor = .released ∧ x.expiry = .strikePending ∧ x.strikeEnd.getD 0 ≤ s.clock then
        s.setGate g (
          if x.doorOpen = true then { y with expiry := .holdPending }
          else { y with monitor := .idle, strikeEnd := none, passageSeen := false, expiry := .taken })
      else s).arbitrateAll.sendNext)) ∧
    (exec (.holdExpiry g) s = .next (
      (if x.monitor = .released ∧ x.expiry = .holdPending ∧
          min (x.strikeEnd.getD 0 + x.holdGrace.getD 0) 4294967295 ≤ s.clock then
        if x.doorOpen = true then
          (s.setGate g { x with monitor := .held, strikeEnd := none, expiry := .taken }).post
            (.heldOpen g ((x.station.map Prod.fst).getD 0) (x.strikeEnd.getD 0))
        else s.setGate g { x with expiry := .taken }
      else s).sendNext))

/-- A gate's status reply (R67): the card read, the exit button, the door. A read IN is denied or granted by its checks (R68 to R71), a read
OUT is granted with its record outcome (R72), a press of the button releases (R73); each posts PASSAGE, and outside FREE a grant sets
STRIKE and starts a release (R75, R77). A door report (R78) stores the door state, and outside FREE the monitor moves by the table of R78.
The record outcome NONE of a denial (log entry 32) and of an OUT read without a record in FREE (log entry 33), and passage seen as no after
a SHUT report's return to IDLE (log entry 34), are the model's choices, and the stage of the expiry is its own field (log entry 13). -/
def Obligations.DoorReportsMoveTheMonitor : Prop :=
  (∀ (s : State) (g : Nat) (st : GateStatus),
    let read : State :=
      match st.read with
      | some (c, false) => s.readIn g c
      | some (c, true) => s.readOut g c
      | none => s
    s.gateStatus g st = (if st.button = true then read.exitButton g else read).doorReport g st.doorOpen) ∧
  (∀ (s : State) (g : Nat) (c : Card),
    let x := s.gate g
    let p := (x.station.map Prod.fst).getD 0
    let strikeEnd := some (min (s.clock + x.strikeTime.getD 0) 4294967295)
    let released : Gate :=
      match x.monitor with
      | .idle => { x with monitor := .released, strikeEnd := strikeEnd, passageSeen := false, expiry := .strikePending }
      | .released => { x with strikeEnd := strikeEnd, expiry := .strikePending }
      | _ => x
    let release (t : State) : State := t.setGate g { released with mark := some { cmd := .strike, setAgain := true } }
    let passes (t : State) : State := if x.mode = .free then t else release t
    let denied : Gate :=
      match x.mark with
      | some { cmd := .strike, .. } => x
      | some { cmd := .holdRelease, .. } => x
      | _ => { x with mark := some { cmd := .deny, setAgain := true } }
    let deny (row : Option CredRow) (reason : Denial) : State :=
      (s.setGate g denied).post
        (.passage g p .inward (some c) (row.map (·.kind)) (row.bind (·.berth)) false (some reason) .none none)
    let held := s.presence.find? (fun q => q.card == c)
    let moves (q : Presence) : Prop := (s.pontoon p).tracking = .on ∧ (s.pontoon q.pontoon).tracking = .on
    (x.mode = .locked → s.readIn g c = deny none .locked) ∧
    (x.mode = .free → s.readIn g c = s.post (.passage g p .inward (some c) none none true none .frozen none)) ∧
    (x.mode = .normal → s.creds.state ≠ .valid → s.readIn g c = deny none .table) ∧
    (x.mode = .normal → s.creds.state = .valid → s.matchRow c = none → s.readIn g c = deny none .unknown) ∧
    (∀ r row, x.mode = .normal → s.creds.state = .valid → s.matchRow c = some (r, row) →
      (∀ reason, s.entryDenial p c (.hit r row) = some reason → s.readIn g c = deny (some row) reason) ∧
      (s.entryDenial p c (.hit r row) = none →
        let granted := release { s with presence := s.presenceIn p c }
        let arrived : State :=
          match row.kind, row.berth with
          | .crew, some b =>
            let y := s.berth b
            if y.autoArrival = true ∧ (y.state = .reserved ∨ y.state = .overdue) then
              (granted.setBerth b { y with state := .occupied, arrival := some s.clock }).post
                (.arrived b (y.occupant.getD 0) .gate (some c) y.overdueSent)
            else granted
          | _, _ => granted
        let outcome : RecordOutcome :=
          if (s.pontoon p).tracking = .suspended then .frozen
          else
            match held with
            | none => .added
            | some q => if (s.pontoon q.pontoon).tracking = .suspended then .frozen else .moved
        s.readIn g c = arrived.post (.passage g p .inward (some c) (some row.kind) row.berth true none outcome none))) ∧
    (held = none →
      s.readOut g c = (passes s).post (.passage g p .outward (some c) none none true none .none none)) ∧
    (∀ q, held = some q →
      (¬ moves q → s.readOut g c = (passes s).post (.passage g p .outward (some c) none none true none .frozen none)) ∧
      (moves q →
        s.readOut g c =
          (passes { s with presence := s.presence.filter (fun k => k.card != c) }).post
            (if q.pontoon = p then .passage g p .outward (some c) none none true none .removed none
              else .passage g p .outward (some c) none none true none .crossed (some q.pontoon)))) ∧
    s.exitButton g = (passes s).post (.passage g p .button none none none true none .none none)) ∧
  ∀ (s : State) (g : Nat) (isOpen : Bool),
    let x : Gate := { s.gate g with doorOpen := isOpen }
    let p := (x.station.map Prod.fst).getD 0
    let idle : Gate := { x with monitor := .idle, strikeEnd := none, passageSeen := false, expiry := .taken }
    (x.mode = .free → s.doorReport g isOpen = s.setGate g x) ∧
    (x.mode ≠ .free → isOpen = true →
      (x.monitor = .idle → s.doorReport g isOpen = (s.setGate g { x with monitor := .forced }).post (.forced g p)) ∧
      (x.monitor = .released → s.doorReport g isOpen = s.setGate g { x with passageSeen := true }) ∧
      ((x.monitor = .held ∨ x.monitor = .forced) → s.doorReport g isOpen = s.setGate g x)) ∧
    (x.mode ≠ .free → isOpen = false →
      (x.monitor = .idle → s.doorReport g isOpen = s.setGate g x) ∧
      (x.monitor = .released → s.doorReport g isOpen = s.setGate g (if x.passageSeen = true then idle else x)) ∧
      ((x.monitor = .held ∨ x.monitor = .forced) →
        s.doorReport g isOpen = (s.setGate g idle).post (.doorSecure g p x.monitor)))

/-- The entry checks of R69 in their order, the last two judged on the presence list that the grant (R70) would leave. -/
def Obligations.EntryChecksAreJudgedInOrder : Prop :=
  ∀ (s : State) (p : Nat) (c : Card), PresenceLaw s → p < 6 →
    s.entryDenial p c .table = some .table ∧ s.entryDenial p c .unknown = some .unknown ∧
    (∀ (r : Nat) (row : CredRow),
      let bound : Bool := row.kind == .crew || row.kind == .guest
      let checks : List (Bool × Denial) := [
        (row.window.all (fun w => decide (w.1 ≤ s.clock ∧ s.clock < w.2)), .time),
        (row.pontoons.testBit p, .pontoon),
        (!bound || row.berth.any (fun b => (s.boundSide b).any (fun d => d.arm == p) &&
          decide ((s.berth b).state ≠ .free ∧ (s.berth b).state ≠ .closed)), .berth),
        (!bound || (s.account ((row.berth.bind (fun b => (s.berth b).occupant)).getD 0)).standing != .barred, .barred),
        (!row.antiPassback || (s.presence.all (fun q => q.card != c)), .passback),
        (decide ((s.presenceIn p c).countP (fun q => q.pontoon == p) ≤ (s.pontoon p).limit), .full),
        (decide ((s.presenceIn p c).length ≤ 256), .listFull)]
      s.entryDenial p c (.hit r row) = (checks.find? (fun k => !k.1)).map Prod.snd) ∧
    (s.presenceIn p c =
      if (s.pontoon p).tracking = .suspended then s.presence
      else
        match s.presence.find? (fun q => q.card == c) with
        | none => s.presence ++ [{ card := c, pontoon := p, entry := s.clock }]
        | some q =>
          if (s.pontoon q.pontoon).tracking = .suspended then s.presence
          else s.presence.filter (fun q => q.card != c) ++ [{ card := c, pontoon := p, entry := s.clock }])

/-! ### Service points -/

/-- A point takes a new record (R91, R106): a change of its desired state sets its unconfirmed count to 0 and the post's mark to the
desired states as they stand, with the class the mark had; the other points and both detector parts stay. -/
def Obligations.PointChangeSetsTheMark : Prop :=
  ∀ (p : Post) (side : Nat) (svc : Service) (x : Point), side ≤ 1 →
    let q := p.change side svc x
    let on (st : PointState) : Bool := st == .starting || st == .live
    let moved := on (p.point side svc).state != on x.state
    q.point side svc = (if moved = true then { x with unconfirmed := 0 } else x) ∧
    (∀ k v, k ≤ 1 → (k ≠ side ∨ v ≠ svc) → q.point k v = p.point k v) ∧ q.det0 = p.det0 ∧ q.det1 = p.det1 ∧
    q.mark =
      if moved = true then
        some {
          power0 := on q.power0.state, water0 := on q.water0.state, power1 := on q.power1.state, water1 := on q.water1.state
          safety := p.mark.any (·.safety), setAgain := true }
      else p.mark

/-- OUTLET-START (R109, R90), with the selector of R108. That the STATE reply for a berth not OCCUPIED carries the states of the points, and
DENIED and BUSY nothing, is DEDUCED (log entry 30). -/
def Obligations.OutletStartOpensSessions : Prop :=
  (∀ (s : State) (tag : Nat) (f : OutletArgs), s.Room →
    ((servicesOf f.service = none ∨ selInRange f.sel = false) →
      exec (.outletStart tag (.fields f)) s = .next (s.frameTaken.answeredBus tag 0x38 .range .empty)) ∧
    (∀ svcs, servicesOf f.service = some svcs → selInRange f.sel = true → s.selected f.sel = none →
      exec (.outletStart tag (.fields f)) s = .next (s.frameTaken.answeredBus tag 0x38 .state .empty)) ∧
    (∀ svcs d, servicesOf f.service = some svcs → selInRange f.sel = true → s.selected f.sel = some d →
      let rs : List PointRef := svcs.map (fun v => { arm := d.arm, addr := d.addr, side := d.side, svc := v })
      let b := s.sideBerth d.arm d.addr d.side
      let account := (b.bind (fun n => (s.berth n).occupant)).getD 0
      let opens (r : PointRef) : Bool := s.provisioned b r.svc && s.pointIs r (fun st => st == .off)
      let t := (rs.filter opens).foldl (fun u r => u.openSession r account none) s.frameTaken
      exec (.outletStart tag (.fields f)) s = .next (
        if ¬ (∃ n, b = some n ∧ (s.berth n).state = .occupied) then
          s.frameTaken.answeredBus tag 0x38 .state (.points (rs.filterMap s.stateOf))
        else if ¬ ((s.account account).standing = .good ∨ (s.account account).standing = .low) then
          s.frameTaken.answeredBus tag 0x38 .denied .empty
        else if (s.arm d.arm).state = .disabled then s.frameTaken.answeredBus tag 0x38 .busy .empty
        else t.answeredBus tag 0x38 (if rs.any opens = true then .done else .state) (.points (rs.filterMap t.stateOf))))) ∧
  ∀ (s : State) (r : PointRef) (x : Point) (account : Nat) (card : Option Card), s.point? r = some x → r.side ≤ 1 →
    x.state = .off →
    (s.openSession r account card).point? r = some { x with
      state := .starting, unconfirmed := 0
      session := some {
        account := account, card := card, start := s.clock, billed := 0, unbilled := 0, cents := 0, residue := 0, peak := 0
        suspension := none, lastRelease := none, tripCause := none, tripTime := none, closeReason := none } }

/-- OUTLET-STOP and OUTLET-SUSPEND (R110), with the selector of R108. -/
def Obligations.OutletStopAndSuspendChangeTheSelected : Prop :=
  ∀ (s : State) (tag : Nat) (f : OutletArgs), s.Room →
    ((servicesOf f.service = none ∨ selInRange f.sel = false) →
      exec (.outletStop tag (.fields f)) s = .next (s.frameTaken.answeredBus tag 0x39 .range .empty) ∧
      exec (.outletSuspend tag (.fields f)) s = .next (s.frameTaken.answeredBus tag 0x3A .range .empty)) ∧
    (∀ svcs, servicesOf f.service = some svcs → selInRange f.sel = true → s.selected f.sel = none →
      exec (.outletStop tag (.fields f)) s = .next (s.frameTaken.answeredBus tag 0x39 .state .empty) ∧
      exec (.outletSuspend tag (.fields f)) s = .next (s.frameTaken.answeredBus tag 0x3A .state .empty)) ∧
    (∀ svcs d, servicesOf f.service = some svcs → selInRange f.sel = true → s.selected f.sel = some d →
      let rs : List PointRef := svcs.map (fun v => { arm := d.arm, addr := d.addr, side := d.side, svc := v })
      let stops (r : PointRef) : Bool :=
        s.pointIs r (fun st => st == .live || st == .starting || st == .suspended || st == .tripped)
      let suspends (r : PointRef) : Bool :=
        (s.point? r).any (fun x => x.state == .live || x.state == .starting || (x.state == .suspended &&
          x.session.any (fun ses => ses.suspension == some .credit || ses.suspension == some .barred)))
      let stopOne (u : State) (r : PointRef) : State :=
        match u.point? r with
        | some x =>
          match x.session with
          | some ses => u.changePoint r { x with state := .closing, session := some { ses with closeReason := some .office } }
          | none => u
        | none => u
      let suspendOne (u : State) (r : PointRef) : State :=
        match u.point? r with
        | some x =>
          match x.session with
          | some ses => u.changePoint r { x with state := .suspended, session := some { ses with suspension := some .office } }
          | none => u
        | none => u
      let t := (rs.filter stops).foldl stopOne s.frameTaken
      let u := (rs.filter suspends).foldl suspendOne s.frameTaken
      exec (.outletStop tag (.fields f)) s = .next (
        t.answeredBus tag 0x39 (if rs.any stops = true then .done else .state) (.points (rs.filterMap t.stateOf))) ∧
      exec (.outletSuspend tag (.fields f)) s = .next (
        u.answeredBus tag 0x3A (if rs.any suspends = true then .done else .state) (.points (rs.filterMap u.stateOf))))

/-- OUTLET-RELEASE (R111), with the conditions of R98 in their order and what a release leaves: a POWER point released from TRIPPED starts
with an empty window and a run count of 0, and every other detector part stays (R145, DEDUCED in log entry 38). The conditions are judged
against the point's berth and the session's account; a point fails for its OFFICE enable alone where it would be released with the enable
set. That the trip time plus the delay is compared exactly is DEDUCED too (log entry 21). The form of the reply is the model's choice (log
entry 40). -/
def Obligations.OutletReleaseTriesTheSelected : Prop :=
  (∀ (s : State) (tag : Nat) (f : OutletArgs), s.Room →
    ((servicesOf f.service = none ∨ selInRange f.sel = false) →
      exec (.outletRelease tag (.fields f)) s = .next (s.frameTaken.answeredBus tag 0x3B .range .empty)) ∧
    (∀ svcs, servicesOf f.service = some svcs → selInRange f.sel = true → s.selected f.sel = none →
      exec (.outletRelease tag (.fields f)) s = .next (s.frameTaken.answeredBus tag 0x3B .state .empty)) ∧
    (∀ svcs d, servicesOf f.service = some svcs → selInRange f.sel = true → s.selected f.sel = some d →
      let rs : List PointRef := svcs.map (fun v => { arm := d.arm, addr := d.addr, side := d.side, svc := v })
      let passes (r : PointRef) : Bool := (s.releaseFailure r .office).isNone
      let t := (rs.filter passes).foldl (fun u r => u.releasePoint r .office) s.frameTaken
      exec (.outletRelease tag (.fields f)) s = .next (
        t.answeredBus tag 0x3B (if rs.any passes = true then .done else if rs.any s.enableAlone = true then .denied else .state)
          (.releases (rs.filterMap (fun r =>
            (t.stateOf r).map (fun st => { state := st, failed := s.releaseFailure r .office }))))))) ∧
  (∀ (x : Point) (ses : Session) (cause : Cause) (occupied inFunds : Bool) (now delay : Nat), x.session = some ses →
    let checks : List (Bool × ReleaseFailure) := [
      (x.state == .suspended || x.state == .tripped, .state),
      (match cause with
        | .credit => x.enables.credit
        | .tap => x.enables.tap
        | .office => x.enables.office, .enable),
      (occupied, .berth), (inFunds, .account),
      (ses.suspension != some .office || cause == .office, .suspension),
      (x.state != .tripped || cause == .office || (cause == .tap && decide (ses.tripTime.getD 0 + delay ≤ now)), .trip)]
    x.releaseFailure cause occupied inFunds now delay = (checks.find? (fun k => !k.1)).map Prod.snd) ∧
  (∀ (s : State) (r : PointRef), r.side ≤ 1 →
    (s.point? r = none → (∀ cause, s.releaseFailure r cause = some .state) ∧ s.enableAlone r = false) ∧
    ∀ x, s.point? r = some x →
      let occupied : Bool :=
        match s.pointBerth r with
        | some b => (s.berth b).state == .occupied
        | none => false
      let inFunds (ses : Session) : Bool :=
        (s.account ses.account).standing == .good || (s.account ses.account).standing == .low
      let enabled : Point := { x with enables := { x.enables with office := true } }
      (x.session = none → (∀ cause, s.releaseFailure r cause = some .state) ∧ s.enableAlone r = false) ∧
      ∀ ses, x.session = some ses →
        (∀ cause, s.releaseFailure r cause = x.releaseFailure cause occupied (inFunds ses) s.clock s.tripDelay) ∧
        (s.enableAlone r = true ↔
          x.enables.office = false ∧ enabled.releaseFailure .office occupied (inFunds ses) s.clock s.tripDelay = none)) ∧
  ∀ (s : State) (r : PointRef) (x : Point) (ses : Session) (cause : Cause), s.point? r = some x → x.session = some ses →
    r.side ≤ 1 → (x.state = .suspended ∨ x.state = .tripped) →
    (s.releasePoint r cause).point? r = some { x with
      state := .starting, unconfirmed := 0
      session := some { ses with suspension := none, tripCause := none, tripTime := none, lastRelease := some cause } } ∧
    ∀ k, k ≤ 1 →
      let d := s.detector r.arm r.addr k
      (s.releasePoint r cause).detector r.arm r.addr k =
        if k = r.side ∧ r.svc = .power ∧ x.state = .tripped then { d with run := 0, sum := 0, count := 0 } else d

/-- OUTLET-CLEAR (R112) and OUTLET-ENABLES (R108), with the selector of R108. That a set byte of 8 or more is out of range is the model's
choice (log entry 5), and that OUTLET-ENABLES answers with the states of the selected points is DEDUCED (log entry 30). -/
def Obligations.OutletClearAndEnablesChangeTheSelected : Prop :=
  (∀ (s : State) (tag : Nat) (f : OutletArgs), s.Room →
    ((servicesOf f.service = none ∨ selInRange f.sel = false) →
      exec (.outletClear tag (.fields f)) s = .next (s.frameTaken.answeredBus tag 0x3C .range .empty)) ∧
    (∀ svcs, servicesOf f.service = some svcs → selInRange f.sel = true → s.selected f.sel = none →
      exec (.outletClear tag (.fields f)) s = .next (s.frameTaken.answeredBus tag 0x3C .state .empty)) ∧
    (∀ svcs d, servicesOf f.service = some svcs → selInRange f.sel = true → s.selected f.sel = some d →
      let rs : List PointRef := svcs.map (fun v => { arm := d.arm, addr := d.addr, side := d.side, svc := v })
      let clears (r : PointRef) : Bool :=
        s.pointIs r (fun st => st == .fault) || (s.pointIs r (fun st => st == .closing) && (s.link r.arm r.addr != .present))
      let clearOne (u : State) (r : PointRef) : State :=
        match u.point? r with
        | some x =>
          if x.state = .fault then u.changePoint r { x with state := .off, baseline := none, unconfirmed := 0 }
          else u.closeSession r .unconfirmed .off true
        | none => u
      let t := (rs.filter clears).foldl clearOne s.frameTaken
      exec (.outletClear tag (.fields f)) s = .next (
        t.answeredBus tag 0x3C (if rs.any clears = true then .done else .state) (.points (rs.filterMap t.stateOf))))) ∧
  ∀ (s : State) (tag : Nat) (f : EnablesArgs), s.Room →
    ((8 ≤ f.set ∨ servicesOf f.service = none ∨ selInRange f.sel = false) →
      exec (.outletEnables tag (.fields f)) s = .next (s.frameTaken.answered tag 0x3D .range .empty)) ∧
    (∀ svcs, f.set < 8 → servicesOf f.service = some svcs → selInRange f.sel = true → s.selected f.sel = none →
      exec (.outletEnables tag (.fields f)) s = .next (s.frameTaken.answered tag 0x3D .state .empty)) ∧
    (∀ svcs d, f.set < 8 → servicesOf f.service = some svcs → selInRange f.sel = true → s.selected f.sel = some d →
      let rs : List PointRef := svcs.map (fun v => { arm := d.arm, addr := d.addr, side := d.side, svc := v })
      let e : Enables := { credit := f.set.testBit 0, tap := f.set.testBit 1, office := f.set.testBit 2 }
      let setOne (u : State) (r : PointRef) : State :=
        match u.point? r with
        | some x => u.storePoint r { x with enables := e }
        | none => u
      let t := rs.foldl setOne s.frameTaken
      exec (.outletEnables tag (.fields f)) s = .next (
        t.answered tag 0x3D .done (.points (rs.filterMap t.stateOf))))

/-- A reported state at a point: the confirmations of R95, and for a settled reply the judgement of R96. A post's status reply (R93): the
four readings, the two samples, the four reported states and the card read, in that order. That a settled reply is judged at a point that
stands as the first two steps left it is DEDUCED (log entry 8). A point's change of record (R91) changes its post alone, but where the point
enters OFF or FAULT as the last of a DEPARTING berth's points: then the departure completes in the same event, with the forced count 0
(R13). -/
def Obligations.ReportedStatesConfirmOrCount : Prop :=
  (∀ (s : State) (a d : Nat) (st : PostStatus),
    let r (side : Nat) (svc : Service) : PointRef := { arm := a, addr := d, side := side, svc := svc }
    let read :=
      (((s.takeReading (r 0 .power) st.side0.power).takeReading (r 0 .water) st.side0.water).takeReading (r 1 .power)
        st.side1.power).takeReading (r 1 .water) st.side1.water
    let sampled := (read.takeSample a d 0 st.side0.sample).takeSample a d 1 st.side1.sample
    let settled := (sampled.post? a d).all (fun p => p.mark.isNone)
    let report (t : State) (q : PointRef) (on : Bool) : State :=
      let u := t.confirm q on
      if settled = true ∧ t.stateOf q = sampled.stateOf q then u.judgeSettled q on else u
    let reported :=
      report (report (report (report sampled (r 0 .power) st.side0.contactorOn) (r 0 .water) st.side0.valveOn) (r 1 .power)
        st.side1.contactorOn) (r 1 .water) st.side1.valveOn
    s.postStatus a d st =
      match st.read with
      | some (card, side) => reported.tap a d side card
      | none => reported) ∧
  (∀ (s : State) (r : PointRef) (p : Post) (x : Point), s.post? r.arm r.addr = some p → r.side ≤ 1 →
    let rests (st : PointState) : Prop := st = .off ∨ st = .fault
    let q := p.change r.side r.svc x
    let changed := s.setPost r.arm r.addr q
    let last : Prop :=
      rests x.state ∧ (p.point r.side r.svc).state ≠ x.state ∧ rests (q.point r.side .power).state ∧ rests (q.point r.side .water).state
    (∀ b, last → s.pointBerth r = some b → (s.berth b).state = .departing →
      let y := s.berth b
      s.changePoint r x =
        (changed.setBerth b { y with
          state := .free, occupant := none, reservation := none, arrival := none, checkOut := none, overstay := false
          overdueSent := false }).post
          (.departed b (y.occupant.getD 0) (y.arrival.getD 0) (y.checkOut.getD 0) 0 y.overstay)) ∧
    ((∀ b, last → s.pointBerth r = some b → (s.berth b).state ≠ .departing) → s.changePoint r x = changed)) ∧
  ∀ (s : State) (r : PointRef) (x : Point), s.point? r = some x →
    let account := (x.session.map (·.account)).getD 0
    s.confirm r true = (if x.state = .starting then s.changePoint r { x with state := .live, unconfirmed := 0 } else s) ∧
    (∀ ses, x.session = some ses →
      s.confirm r false =
        if x.state = .closing then s.closeSession r (ses.closeReason.getD .unconfirmed) .off true else s) ∧
    ((x.state = .starting ∨ x.state = .live) →
      s.judgeSettled r true = s.storePoint r { x with unconfirmed := 0 }) ∧
    (¬ (x.state = .starting ∨ x.state = .live) →
      s.judgeSettled r false = s.storePoint r { x with unconfirmed := 0 } ∧
      s.judgeSettled r true =
        if x.unconfirmed < 2 then s.storePoint r { x with unconfirmed := x.unconfirmed + 1 }
        else
          ((s.storePoint r { x with unconfirmed := 0 }).markPost r.arm r.addr false).post
            (.cutUnconfirmed r (s.pointBerth r) x.state)) ∧
    (x.state = .starting →
      s.judgeSettled r false =
        if x.unconfirmed < 2 then s.storePoint r { x with unconfirmed := x.unconfirmed + 1 }
        else (s.closeSession r .unconfirmed .off true).post (.startFailed r (s.pointBerth r) account)) ∧
    (x.state = .live →
      s.judgeSettled r false =
        ((s.changePoint r { x with state := .starting, unconfirmed := 0 }).markPost r.arm r.addr false).post
          (.supplyDropped r (s.pointBerth r) account))

/-- A tap: its arrival (R10), and its judgement after it (R100) with the TAP notice: the refusals in their order, the stop (R101), the
release (R102) and the start (R103). -/
def Obligations.TapsStopReleaseOrStart : Prop :=
  (∀ (s : State) (a d side : Nat) (card : Card),
    let ans := s.consult card
    let row : Option CredRow := match ans with
      | .hit _ row => some row
      | _ => none
    let b := s.sideBerth a d side
    let arrives (n : Nat) : Prop :=
      b = some n ∧ (∃ q, row = some q ∧ q.kind = .crew ∧ q.berth = some n ∧ (∀ w, q.window = some w → w.1 ≤ s.clock ∧ s.clock < w.2)) ∧
      (s.berth n).autoArrival = true ∧ ((s.berth n).state = .reserved ∨ (s.berth n).state = .overdue)
    ∃ t : State,
      (∀ n, arrives n → t = (s.setBerth n { s.berth n with state := .occupied, arrival := some s.clock }).post
        (.arrived n ((s.berth n).occupant.getD 0) .post (some card) (s.berth n).overdueSent)) ∧
      ((∀ n, ¬ arrives n) → t = s) ∧
      let told (u : State) (result : TapResult) (reason : Option TapRefusal) (svcs : List Service) : State :=
        u.post (.tap a d side b card (row.map (·.kind)) result reason svcs)
      s.tap a d side card =
        match t.judgeTap a d side card ans with
        | (u, .refused reason) => told u .refused (some reason) []
        | (u, .stopped svcs) => told u .stopped none svcs
        | (u, .released svcs) => told u .released none svcs
        | (u, .started svcs) => told u .started none svcs) ∧
  ∀ (s : State) (a d side : Nat) (card : Card),
    s.judgeTap a d side card .table = (s, .refused .table) ∧ s.judgeTap a d side card .unknown = (s, .refused .unknown) ∧
    ∀ (n : Nat) (row : CredRow),
      let b := s.sideBerth a d side
      let rs : List PointRef :=
        [{ arm := a, addr := d, side := side, svc := .power }, { arm := a, addr := d, side := side, svc := .water }]
      let account := (b.bind (fun n => (s.berth n).occupant)).getD 0
      let drawing (r : PointRef) : Bool := s.pointIs r (fun st => st == .starting || st == .live)
      let atRest (r : PointRef) : Bool := s.pointIs r (fun st => st == .off || st == .fault)
      let opens (r : PointRef) : Bool := s.provisioned b r.svc && s.pointIs r (fun st => st == .off)
      s.judgeTap a d side card (.hit n row) =
        if ¬ ((∀ w, row.window = some w → w.1 ≤ s.clock ∧ s.clock < w.2) ∧
            (row.kind = .staff ∨ (row.kind = .crew ∧ row.berth ≠ none ∧ row.berth = b))) then (s, .refused .ineligible)
        else if b = none then (s, .refused .berth)
        else if rs.any drawing = true then
          ((rs.filter drawing).foldl (fun t r => t.startClosing r .tap) s, .stopped ((rs.filter drawing).map (·.svc)))
        else if rs.all atRest = true then
          if ¬ (∃ n, b = some n ∧ (s.berth n).state = .occupied) then (s, .refused .berth)
          else if rs.any opens = false then (s, .refused .nothing)
          else if s.rates.state ≠ .valid then (s, .refused .rates)
          else if ¬ ((s.account account).standing = .good ∨ (s.account account).standing = .low) ∨
              (s.account account).available < startMinimum s.rateRows then (s, .refused .credit)
          else
            ((rs.filter opens).foldl (fun t r => t.openSession r account (some card)) s, .started ((rs.filter opens).map (·.svc)))
        else
          match s.tryReleases rs .tap with
          | (_, []) => (s, .refused .held)
          | (t, pts) => (t, .released pts)

/-! ### Metering and protection -/

/-- A counter reading (R94, R122, R123, R126, R127): the baseline, the delta, the plausibility limit with the elapsed time clamped, where an
accepted delta goes, and the meter fault in place of an accrual past the bound of the cents debited. -/
def Obligations.CounterReadingsAreJudged : Prop :=
  ∀ (s : State) (r : PointRef) (n : Nat) (x : Point), s.point? r = some x →
    (x.baseline = none → s.takeReading r n = s.storePoint r { x with baseline := some { reading := n, time := s.clock } }) ∧
    ∀ b, x.baseline = some b →
      let delta := (n + 65536 - b.reading) % 65536
      let elapsed : Nat := (max 1 (min 3600 ((s.clock : Int) - b.time))).toNat
      let limit := s.pulseLimit r * elapsed
      let moved : Point := { x with baseline := some { reading := n, time := s.clock } }
      (limit < delta → s.takeReading r n = s.meterFault r b n delta elapsed limit) ∧
      (delta ≤ limit → x.session = none →
        let u := min (x.unattributed + delta) 65535
        s.takeReading r n =
          if delta = 0 then s.storePoint r moved
          else if s.rates.state = .valid ∧ leakThreshold s.rateRows r.svc < u then
            (s.storePoint r { moved with unattributed := 0 }).post (.leak r (s.pointBerth r) u)
          else s.storePoint r { moved with unattributed := u }) ∧
      (∀ ses, delta ≤ limit → x.session = some ses → s.rates.state ≠ .valid →
        s.takeReading r n = s.storePoint r { moved with
          session := some { ses with unbilled := min (ses.unbilled + delta) 4294967295 } }) ∧
      (∀ ses, delta ≤ limit → x.session = some ses → s.rates.state = .valid →
        let t := ses.residue + delta * bandRate s.rateRows r.svc (bandAt s.rateRows s.clock)
        let stored := s.storePoint r { moved with
          session := some { ses with
            cents := ses.cents + t / 1000, residue := t % 1000, billed := min (ses.billed + delta) 4294967295 } }
        (281474976710655 < ses.cents + t / 1000 → s.takeReading r n = s.meterFault r b n delta elapsed limit) ∧
        (ses.cents + t / 1000 ≤ 281474976710655 →
          s.takeReading r n = if t / 1000 = 0 then stored else stored.debit ses.account (t / 1000) .meter))

/-- A meter fault (R124): a session is closed with close reason FAULT and next state FAULT, a point without one enters FAULT directly; then
the baseline is removed, and the URGENT METER-FAULT notice is posted with the berth, the baseline and the figures of the reading. The point
stands in FAULT without a session and without a baseline, its enables and its unattributed pulses kept. -/
def Obligations.MeterFaultEndsTheSession : Prop :=
  ∀ (s : State) (r : PointRef) (x : Point) (b : Baseline) (n delta elapsed limit : Nat), s.point? r = some x → r.side ≤ 1 →
    let t := s.meterFault r b n delta elapsed limit
    let stopped :=
      match x.session with
      | some _ => s.closeSession r .fault .fault true
      | none => s.changePoint r { x with state := .fault }
    let told : NoticeBody := .meterFault r (s.pointBerth r) b n delta elapsed limit
    told.cls = .urgent ∧
    (∃ y, stopped.point? r = some y ∧ t = (stopped.storePoint r { y with baseline := none }).post told) ∧
    t.notices = stopped.notices.post s.clock told ∧
    ∃ y, t.point? r = some y ∧
      y.state = .fault ∧ y.session = none ∧ y.baseline = none ∧ y.enables = x.enables ∧ y.unattributed = x.unattributed

/-- The accrual loses no millicent (R126 to R128): over any run of billed deltas at any rates, 1000 × cents debited + residue is the sum
of delta × rate, the residue stays below 1000, and the final rounding leaves that sum rounded to the nearest cent. -/
def Obligations.AccrualLosesNoMillicent : Prop :=
  ∀ (account : Nat) (card : Option Card) (now : Nat) (l : List (Nat × Nat)),
    let opened : Session := {
      account := account, card := card, start := now, billed := 0, unbilled := 0, cents := 0, residue := 0, peak := 0
      suspension := none, lastRelease := none, tripCause := none, tripTime := none, closeReason := none }
    let ses := l.foldl (fun (a : Session) k => a.accrued k.1 k.2) opened
    let total := (l.map (fun k => k.1 * k.2)).sum
    1000 * ses.cents + ses.residue = total ∧ ses.residue ≤ 999 ∧ ses.billed = min (l.map Prod.fst).sum 4294967295 ∧
    ses.rounded.cents = (total + 500) / 1000 ∧ ses.rounded.residue = 0

/-- Fuel arithmetic: the amount's bounds (R129), the two properties of the stop volume (R130), and the display digits (R131). -/
def Obligations.FuelAmountStopVolumeAndDigits : Prop :=
  (∀ v p, v ≤ 999999 → 1 ≤ p → p ≤ 65535 →
    fuelAmount v p = (v * p + 500) / 1000 ∧ v * p + 500 < 2 ^ 36 ∧ fuelAmount v p ≤ 65534934) ∧
  (∀ h p, 1 ≤ h → h ≤ 999999 → 1 ≤ p → p ≤ 65535 →
    stopVolume h p = min 999999 ((1000 * h + 499) / p) ∧ fuelAmount (stopVolume h p) p ≤ h ∧
    (stopVolume h p < 999999 → h + 1 ≤ fuelAmount (stopVolume h p + 1) p) ∧
    (stopVolume h p = 0 ↔ 1000 * h + 499 < p)) ∧
  ∀ v,
    (displayDigits v).foldl (fun n d => 10 * n + d) 0 = min v 999999 ∧ (displayDigits v).length = 6 ∧
    (∀ d ∈ displayDigits v, d ≤ 9) ∧
    (packDigits (displayDigits v)).map (fun b => (b.toNat / 16, b.toNat % 16)) =
      [((displayDigits v).getD 0 0, (displayDigits v).getD 1 0), ((displayDigits v).getD 2 0, (displayDigits v).getD 3 0),
        ((displayDigits v).getD 4 0, (displayDigits v).getD 5 0)]

/-- A trip request (R143, R144): where it acts the session takes the cause and the time, the post's mark becomes SAFETY and the URGENT TRIP
notice is posted, with the state the point left and the figures of the firing detector; where it does not, the point keeps its record and no
notice is posted; in both the run count and the window are cleared and the warning latch is kept. A raw current sample
(R138): converted (R137), the peak (R142), the short detector (R139), the overload detector (R140) with its warning (R141); a point without
a session has its detector cleared instead. -/
def Obligations.TripTakesThePointOut : Prop :=
  (∀ (s : State) (a addr side raw : Nat) (b0 b1 : Option Nat) (offset shift fullScale n w : Nat) (x : Point),
    let r : PointRef := { arm := a, addr := addr, side := side, svc := .power }
    let part (t : State) : Detector := t.detector a addr side
    let put (t : State) (d : Detector) : State := t.setDetector a addr side d
    s.row a addr = .post b0 b1 offset shift fullScale n w → s.point? r = some x → side ≤ 1 →
    (x.session = none →
      s.takeSample a addr side raw = put s { part s with run := 0, sum := 0, count := 0, last := none }) ∧
    ∀ ses, x.session = some ses →
      let current := min 2047 ((raw - offset + if shift = 0 then 0 else 2 ^ (shift - 1)) / 2 ^ shift)
      let stored := s.storePoint r { x with session := some { ses with peak := max ses.peak current } }
      let recorded := put stored { part stored with last := some current }
      let run := if fullScale ≤ raw then (part recorded).run + 1 else 0
      let short :=
        if n ≤ run then
          recorded.trip r { cause := .short, raw := raw, current := current, run := some (run, n), mean := none }
        else put recorded { part recorded with run := run }
      let d := part short
      let mean := (d.sum + current) / w
      let rating := match s.pointBerth r with
        | some b => (s.berth b).powerClass.rating
        | none => 0
      let judged :=
        if rating < mean then
          short.trip r { cause := .overload, raw := raw, current := current, run := none, mean := some (mean, rating) }
        else if rating * 9 / 10 < mean then
          if d.latch = true then short
          else
            (put short { d with latch := true }).post
              (.overloadWarn a addr side (s.pointBerth r) ses.account mean (rating * 9 / 10) rating)
        else put short { d with latch := false }
      s.takeSample a addr side raw =
        if w ≤ d.count + 1 then put judged { part judged with sum := 0, count := 0 }
        else put short { d with sum := d.sum + current, count := d.count + 1 }) ∧
  ∀ (s : State) (r : PointRef) (x : Point) (ses : Session) (f : TripFigures), s.point? r = some x → x.session = some ses →
    r.side ≤ 1 → r.svc = .power →
    let acts := x.state = .live ∨ x.state = .starting ∨ x.state = .suspended ∨ (x.state = .closing ∧ ses.tripCause = none)
    let marked : Session := { ses with tripCause := some f.cause, tripTime := some s.clock }
    let told : NoticeBody :=
      .trip r.arm r.addr r.side (s.pointBerth r) ses.account f.cause x.state f.raw f.current f.run f.mean s.clock
    let d := s.detector r.arm r.addr r.side
    ((s.trip r f).detector r.arm r.addr r.side = { d with run := 0, sum := 0, count := 0 }) ∧
    (acts →
      (∃ y, (s.trip r f).point? r = some y ∧ y.session = some marked ∧
        y.state = (if x.state = .closing then .closing else .tripped)) ∧
      (∃ p m, (s.trip r f).post? r.arm r.addr = some p ∧ p.mark = some m ∧ m.safety = true ∧ m.setAgain = true) ∧
      (s.trip r f).notices = s.notices.post s.clock told ∧ told.cls = .urgent) ∧
    (¬ acts → (s.trip r f).point? r = some x ∧ (s.trip r f).notices = s.notices)

/-! ### The fuel dock -/

/-- FUEL-AUTHORIZE (R156): the checks in their order, the hold on an account (R37), and the sale opened as R155 gives it. -/
def Obligations.FuelAuthorizeOpensASale : Prop :=
  ∀ (s : State) (tag : Nat) (f : FuelAuthArgs), s.Room →
    let p := s.pump f.pump
    let grade := if f.nozzle = 0 then p.grade0 else p.grade1
    let price := fuelPrice s.rateRows grade
    let sale (source : SaleSource) (account : Option Nat) (limit : Nat) (hold : Option Nat) : Sale := {
      source := source, account := account, card := none, nozzle := f.nozzle, grade := grade, price := price, limit := limit
      holdId := hold, preset := min 999999 ((1000 * limit + 499) / price), volume := 0, amount := 0, abortTaken := false
      start := s.clock, endTime := none, endReason := none }
    let opened (t : State) (q : Sale) : State :=
      ((t.setPump f.pump { t.pump f.pump with
          state := .ready, sale := some q, mark := some { cmd := .auth f.nozzle grade q.preset, setAgain := true } }).post
        (.pumpAuthorized f.pump q)).answeredBus tag 0x48 .done (.authorized price q.limit q.preset)
    let a := s.account f.account
    let granted := (min (f.limit : Int) a.available).toNat
    exec (.fuelAuthorize tag (.fields f)) s = .next (
      if ¬ (f.pump < 4 ∧ f.nozzle ≤ 1 ∧ (1 ≤ f.limit ∧ f.limit ≤ 999999) ∧ f.account ≤ 256) then
        s.frameTaken.answeredBus tag 0x48 .range .empty
      else if p.state ≠ .idle then s.frameTaken.answeredBus tag 0x48 .state .empty
      else if s.rates.state ≠ .valid then s.frameTaken.answeredBus tag 0x48 .state .empty
      else if f.account = 0 then opened s.frameTaken (sale .attendant none f.limit none)
      else
        match a.holdRefusal f.limit (minimumSale s.rateRows) with
        | some reason => s.frameTaken.answeredBus tag 0x48 .denied (.holdRefused reason)
        | none =>
          opened
            ((s.frameTaken.setAccount f.account { a with
              holds := a.holds ++ [{ id := freeHoldId a.holds, pump := f.pump, amount := granted }] }).recompute f.account)
            (sale .account (some f.account) granted (some (freeHoldId a.holds))))

/-- FUEL-ABORT (R159), SALE-COLLECT (R163) and PUMP-PROTECT (R169, R162), by the state of the pump; a BLOCKED pump has both slots full and
its held sale (R162), which the pumps' law says of every reachable state. That the number left in the reply of SALE-COLLECT is counted
before a held sale moves in is DEDUCED from the worked sequence of 8.10 (log entry 27). -/
def Obligations.FuelAbortSaleCollectAndPumpProtect : Prop :=
  (∀ (s : State) (tag p : Nat), s.Room →
    let x := s.pump p
    exec (.fuelAbort tag (.fields p)) s = .next (
      if ¬ p < 4 then s.frameTaken.answeredBus tag 0x49 .range .empty
      else
        match x.state with
        | .ready =>
          (s.frameTaken.discardSale p (fun q => .abortDone p q.volume q.amount)).answeredBus tag 0x49 .done .empty
        | .fuelling =>
          (s.frameTaken.setPump p { x with
            state := .stopping, mark := some { cmd := .stop, setAgain := true }
            sale := x.sale.map (fun q => { q with abortTaken := true }) }).answeredBus tag 0x49 .accepted .empty
        | _ => s.frameTaken.answeredBus tag 0x49 .tooLate .empty)) ∧
  (∀ (s : State) (tag p : Nat), s.Room →
    let x := s.pump p
    exec (.saleCollect tag (.fields p)) s = .next (
      if ¬ p < 4 then s.frameTaken.answered tag 0x4A .range .empty
      else
        match x.slots with
        | [] => s.frameTaken.answered tag 0x4A .state .empty
        | oldest :: rest =>
          (s.frameTaken.setPump p (
            match x.state, x.sale with
            | .blocked, some held => { x with
                state := s.restState p, sale := none, suspendedFrom := none, suspectSince := none, slots := rest ++ [held] }
            | _, _ => { x with slots := rest })).answered tag 0x4A .done (.sale oldest rest.length))) ∧
  ∀ (s : State) (tag : Nat) (f : ProtectArgs), s.Room → PumpLaw s →
    let x := s.pump f.pump
    exec (.pumpProtect tag (.fields f)) s = .next (
      if ¬ f.pump < 4 then s.frameTaken.answered tag 0x4B .range .empty
      else
        match x.state, x.sale, x.slots, f.flag with
        | .blocked, some held, [oldest, newer], false =>
          ((s.frameTaken.setPump f.pump { x with
              protect := false, state := s.restState f.pump, sale := none, suspendedFrom := none, suspectSince := none
              slots := [newer, held], lost := min (x.lost + 1) 65535 }).post (.saleLost f.pump oldest)).answered
            tag 0x4B .done .empty
        | _, _, _, _ =>
          (s.frameTaken.setPump f.pump { x with protect := f.flag }).answered tag 0x4B .done .empty)

/-- READY-TIMEOUT (R158), LINK-LOSS-WINDOW (R166) and FUEL-TIMERS-SET (R169), with the discard of a READY sale: its hold is released, the
closed volume set (R167), the mark STOP. Each expiry acts where it has come (log entry 2); the order over the pumps is log entry 10. That a
link-loss completion places its sale, with SALE-LOST where it overwrites a slot, before LINK-LOST is the model's choice (log entry 45). -/
def Obligations.FuelTimersExpireAndAreSet : Prop :=
  ∀ (s : State) (p : Nat),
    let x := s.pump p
    (exec (.readyTimeout p) s = .next (
      (match x.state, x.sale with
        | .ready, some sale =>
          if min (sale.start + s.readyTimeout) 4294967295 ≤ s.clock then s.discardSale p (.authExpired p) else s
        | _, _ => s).arbitrateAll.sendNext)) ∧
    (exec (.linkLossWindow p) s = .next (
      (match x.state, x.sale with
        | .suspect, some sale =>
          if min (x.suspectSince.getD 0 + s.linkLossWindow) 4294967295 ≤ s.clock then
            let t := s.completeSale p .linkLost false
            (t.setPump p { t.pump p with mark := some { cmd := .stop, setAgain := true } }).post
              (.linkLost p sale.account sale.volume ((sale.volume * sale.price + 500) / 1000))
          else s
        | _, _ => s).arbitrateAll.sendNext)) ∧
    (∀ (sale : Sale) (notice : Sale → NoticeBody), x.sale = some sale →
      let released : State :=
        match sale.source, sale.account with
        | .account, some n => s.release n (sale.holdId.getD 0)
        | _, _ => s
      s.discardSale p notice =
        (released.setPump p { x with
          state := s.restState p, sale := none, suspendedFrom := none, suspectSince := none
          mark := some { cmd := .stop, setAgain := true }
          closedVolume := if x.markAuth = true then x.closedVolume else some sale.volume }).post (notice sale)) ∧
    ∀ (tag : Nat) (f : TimersArgs), s.Room →
      exec (.fuelTimersSet tag (.fields f)) s = .next (
        if (30 ≤ f.ready ∧ f.ready ≤ 600) ∧ 60 ≤ f.window ∧ f.window ≤ 3600 then
          ([0, 1, 2, 3].foldl (fun (t : State) q => (t.readyExpiry q).linkLossExpiry q)
            { s.frameTaken with readyTimeout := f.ready, linkLossWindow := f.window }).answeredBus tag 0x4C .done .empty
        else s.frameTaken.answeredBus tag 0x4C .range .empty)

/-- A pump's status reply: its phase and volume judged against the pump's state (R152, R157, R160 with the end reasons, R165, R167), then
its card read (R154, R155); the completion of a sale (R161) with its closed volume (R167), and its placing (R162). The order of a SUSPECT
pump's return, and that the volume of a READY pump reported over is the reply's, are DEDUCED (log entry 20). -/
def Obligations.CompletedSalesAreSettledAndPlaced : Prop :=
  (∀ (s : State) (p : Nat) (st : PumpStatus),
    let x := s.pump p
    let ended : Prop := st.phase = .stopped ∨ st.phase = .waiting
    let taken : Pump :=
      match x.sale with
      | some q =>
        if q.volume ≤ st.volume then
          { x with sale := some { q with volume := st.volume, amount := (st.volume * q.price + 500) / 1000 } }
        else x
      | none => x
    let lifted := if (x.sale.map (·.nozzle)).getD 0 = 0 then st.lifted0 else st.lifted1
    let reason := endReasonOf st.phase st.cause
    let judged := s.judgePump p st
    let was := x.suspendedFrom.getD .ready
    let back (y : Pump) (q : PumpState) : State :=
      s.setPump p { y with state := q, suspendedFrom := none, suspectSince := none }
    let resumed := back taken (if was = .stopping then .stopping else .fuelling)
    (s.pumpStatus p st =
      match st.read with
      | some (card, nozzle) => judged.cardAtPump p nozzle card
      | none => judged) ∧
    (x.state = .offline → judged = s) ∧
    (x.state ≠ .suspect → x.markAuth = true → judged = s) ∧
    (x.state = .ready → x.markAuth = false →
      judged =
        if ended then (s.setPump p { taken with state := .fuelling }).completeSale p reason true
        else if lifted = true ∨ st.phase = .delivering then s.setPump p { taken with state := .fuelling }
        else s) ∧
    ((x.state = .fuelling ∨ x.state = .stopping) → x.markAuth = false →
      judged =
        if ended then (s.setPump p taken).completeSale p (if x.state = .stopping then .abort else reason) true
        else s.setPump p taken) ∧
    ((x.state = .idle ∨ x.state = .blocked) → x.markAuth = false →
      judged =
        match x.closedVolume with
        | none => s.setPump p { x with closedVolume := some st.volume }
        | some v =>
          if v = st.volume then s
          else (s.setPump p { x with closedVolume := some st.volume }).post (.lateVolume p v st.volume st.phase)) ∧
    (x.state = .suspect → x.markAuth = true → judged = (back x .ready).readyExpiry p) ∧
    (x.state = .suspect → x.markAuth = false →
      judged =
        match st.phase with
        | .armed => (back taken was).readyExpiry p
        | .delivering => resumed
        | _ => resumed.completeSale p (if was = .stopping then .abort else reason) true)) ∧
  (∀ (s : State) (p nozzle : Nat) (card : Card),
    let x := s.pump p
    let read := s.cardAtPump p nozzle card
    let denied (r : PumpRefusal) : State := s.post (.pumpDenied p nozzle card r)
    (x.state = .blocked → read = denied .blocked) ∧
    (x.state ≠ .idle → x.state ≠ .blocked → read = denied .busy) ∧
    (x.state = .idle → s.creds.state ≠ .valid → read = denied .table) ∧
    (x.state = .idle → s.creds.state = .valid → s.matchRow card = none → read = denied .unknown) ∧
    ∀ r row, x.state = .idle → s.creds.state = .valid → s.matchRow card = some (r, row) →
      let n := (row.berth.bind (fun b => (s.berth b).occupant)).getD 0
      let a := s.account n
      let wanted :=
        if s.trunk.link = .autonomous then min (perSaleCap s.rateRows) (autonomousCap s.rateRows) else perSaleCap s.rateRows
      let grade := if nozzle = 0 then x.grade0 else x.grade1
      let price := fuelPrice s.rateRows grade
      let granted := (min (wanted : Int) a.available).toNat
      let sale : Sale := {
        source := .account, account := some n, card := some card, nozzle := nozzle, grade := grade, price := price
        limit := granted, holdId := some (freeHoldId a.holds), preset := min 999999 ((1000 * granted + 499) / price)
        volume := 0, amount := 0, abortTaken := false, start := s.clock, endTime := none, endReason := none }
      let held := (s.setAccount n { a with
        holds := a.holds ++ [{ id := freeHoldId a.holds, pump := p, amount := granted }] }).recompute n
      read =
        if ¬ (∀ w, row.window = some w → w.1 ≤ s.clock ∧ s.clock < w.2) then denied .time
        else if row.kind ≠ .crew then denied .kind
        else if ¬ (∃ b, row.berth = some b ∧ (s.berth b).state = .occupied) then denied .berth
        else if s.rates.state ≠ .valid then denied .rates
        else
          match a.holdRefusal wanted (minimumSale s.rateRows) with
          | some reason => denied (.hold reason)
          | none =>
            (held.setPump p { x with
              state := .ready, sale := some sale, mark := some { cmd := .auth nozzle grade sale.preset, setAgain := true } }).post
              (.pumpAuthorized p sale)) ∧
  (∀ (s : State) (p : Nat) (q : Sale) (reason : EndReason) (fromReply : Bool), (s.pump p).sale = some q →
    let amount := (q.volume * q.price + 500) / 1000
    let sale : Sale := { q with endTime := some s.clock, endReason := some reason, amount := amount }
    let paid : State :=
      match q.source, q.account with
      | .account, some n => s.settle n (q.holdId.getD 0) amount
      | _, _ => s
    let x := s.pump p
    let stops : Prop := ∃ b, x.mark = some { cmd := .stop, setAgain := b }
    let closed : Pump := { x with
      mark := if fromReply = true ∧ stops then none else x.mark
      closedVolume := if x.markAuth = true then x.closedVolume else some q.volume }
    let told := (paid.setPump p closed).post (.saleComplete p sale)
    s.completeSale p reason fromReply =
      (if reason = .abort then told.post (.abortDone p q.volume amount) else told).placeSale p sale) ∧
  (∀ (s : State) (p : Nat) (sale : Sale), p < 4 →
    let x := s.pump p
    let rest : Pump := { x with state := s.restState p, sale := none, suspendedFrom := none, suspectSince := none }
    (x.slots.length < 2 → s.placeSale p sale = s.setPump p { rest with slots := x.slots ++ [sale] }) ∧
    (2 ≤ x.slots.length → x.protect = true →
      s.placeSale p sale = s.setPump p { rest with state := .blocked, sale := some sale }) ∧
    (∀ old newer, x.slots = [old, newer] → x.protect = false →
      s.placeSale p sale =
        (s.setPump p { rest with slots := [newer, sale], lost := min (x.lost + 1) 65535 }).post (.saleLost p old))) ∧
  ∀ (phase : Phase) (cause : StopCause),
    endReasonOf phase cause =
      if phase = .stopped ∧ cause = .preset then .limit
      else if phase = .stopped ∧ cause = .hung then .hung
      else if phase = .stopped ∧ cause = .noFlow then .timeout
      else .fault

/-! ### The arm buses -/

/-- ARM-MODE (R184): ENABLE, RESTORE and DISABLE by the state of the arm, and the first station that forbids a DISABLE. Every station of the
arm becomes UNSEEN, and the owner of each that was PRESENT is told, without a notice of the station. A DISABLE ends the transfer on the arm
with cause DISABLED (R197), with what that completes, and posts ARM-STATE with cause OFFICE and nothing else. That the withheld RELAY reply
which a DISABLE completes comes before its own DONE is the model's choice (log entry 36). -/
def Obligations.ArmModeFollowsItsTable : Prop :=
  (∀ (s : State) (tag a : Nat), s.Room →
    exec (.armModeEnable tag (.fields a)) s = .next (
      if ¬ a < 6 then s.frameTaken.answeredBus tag 0x50 .range .empty
      else if (s.arm a).state = .disabled then (s.frameTaken.bringUp a).answeredBus tag 0x50 .done .empty
      else s.frameTaken.answeredBus tag 0x50 .state .empty)) ∧
  (∀ (s : State) (tag a : Nat), s.Room →
    exec (.armModeRestore tag (.fields a)) s = .next (
      if ¬ a < 6 then s.frameTaken.answeredBus tag 0x50 .range .empty
      else if (s.arm a).state = .isolated then (s.frameTaken.bringUp a).answeredBus tag 0x50 .done .empty
      else s.frameTaken.answeredBus tag 0x50 .state .empty)) ∧
  (∀ (s : State) (tag a : Nat), s.Room →
    let busy (d : Nat) : Bool :=
      match s.row a d with
      | .post .. => (s.post? a d).any (fun p => p.points.any (fun x => x.session.isSome))
      | .gate g _ _ => (s.gate g).monitor == .released
      | .pump n _ _ => (s.pump n).sale.isSome
      | .none => false
    exec (.armModeDisable tag (.fields a)) s = .next (
      if ¬ a < 6 then s.frameTaken.answeredBus tag 0x50 .range .empty
      else if (s.arm a).state = .disabled then s.frameTaken.answeredBus tag 0x50 .state .empty
      else
        match ((List.range 30).map (· + 1)).find? busy with
        | some d => s.frameTaken.answeredBus tag 0x50 .state (.station d)
        | none => (s.frameTaken.takeDown a).answeredBus tag 0x50 .done .empty)) ∧
  ∀ (s : State) (a : Nat), a < 6 →
    let unseen (t : State) : Prop :=
      (∀ d, (t.slot a d).station = (s.slot a d).station.map (fun _ => { link := .unseen, missed := 0 }) ∧
        t.row a d = s.row a d ∧ t.post? a d = s.post? a d) ∧
      (∀ b, b ≠ a → t.arm b = s.arm b) ∧ OwnersCutOff s t a ∧ t.berths = s.berths ∧ t.accounts = s.accounts ∧
      t.presence = s.presence ∧ t.rates = s.rates ∧ t.creds = s.creds ∧ t.clock = s.clock
    (let t := s.bringUp a
      let l := ((List.range 30).map (· + 1)).filter (fun d => s.inPriority a d)
      unseen t ∧ t.relays = s.relays ∧ t.trunk = s.trunk ∧
      (t.arm a).state = .active ∧ (t.arm a).errors = 0 ∧ (t.arm a).probes = 0 ∧ (t.arm a).sweepWaiting = false ∧
      (t.arm a).sweep = (if l = [] then none else some l) ∧ (t.arm a).pollDue = false ∧
      (t.arm a).periodRunning = some (s.arm a).period ∧ (t.arm a).slotRunning = some (s.arm a).slotInterval ∧
      (t.arm a).probeTimer = false ∧
      t.notices = s.notices.post s.clock (.armState a (s.arm a).state .active .office 0)) ∧
    let t := s.takeDown a
    let ended := s.endTransfer a .disabled
    unseen t ∧ t.transferOn a = none ∧ t.relays = ended.relays ∧ t.trunk = ended.trunk ∧
    t.notices = ended.notices.post s.clock (.armState a (s.arm a).state .disabled .office 0) ∧
    (t.arm a).state = .disabled ∧ (t.arm a).errors = 0 ∧ (t.arm a).inFlight = none ∧ (t.arm a).sweep = none ∧
    (t.arm a).sweepWaiting = false ∧ (t.arm a).pollDue = false ∧ (t.arm a).probeDue = false ∧ (t.arm a).periodRunning = none ∧
    (t.arm a).slotRunning = none ∧ (t.arm a).probeTimer = false

/-- The events of an exchange (R174, R190): the frame sent opens the window in force, the first of a reply and the window's expiry ends the
exchange, a late reply changes nothing, and the outcome of an exchange other than PROBE is taken link first, then error count, then owner or
the block whose work failed; the arbiters choose last. The outcome of a PROBE goes to the probe count alone (R183, R190): it changes no
station link, no missed count and not the error count, save that the good probe which restores the arm leaves every station UNSEEN. A good
outcome goes to its owner (R190): a status reply to the block of the station's kind, an ACK to the owner of the mark, which clears a mark
not set since (R76, R107, R153), a relay exchange's to the Relay Engine. A station that reaches the silence limit is reported and its owner
cut off (R180, R65, R150, R164), and one that returns is reported and takes an OFFLINE pump to IDLE (R179, R150). That the Relay Engine is
told of an arm's change after the delivery is DEDUCED from R195 (log entry 20); that a frame sent, a reply or a window's expiry changes
nothing where no exchange stands as it needs is the model's choice (log entry 28). -/
def Obligations.ExchangeEventsActOnTheExchangeBegun : Prop :=
  ∀ (s : State) (a : Nat) (bs : List Byte),
    (exec (.armRequestSent a) s = .next (State.sendNext (
      match (s.arm a).inFlight with
      | some ex =>
        if ex.begun then s
        else s.setArm a { s.arm a with inFlight := some { ex with begun := true, window := (s.arm a).window } }
      | none => s))) ∧
    (∀ ex, (s.arm a).inFlight = some ex → ex.begun = true →
      exec (.exchangeReply a bs) s =
        .next (s.exchangeEnd a ex (judgeReply (s.row a ex.addr).kind ex.addr ex.req bs)).arbitrateAll.sendNext ∧
      exec (.replyWindowExpiry a) s = .next (s.exchangeEnd a ex none).arbitrateAll.sendNext) ∧
    ((∀ ex, (s.arm a).inFlight = some ex → ex.begun = false) →
      exec (.exchangeReply a bs) s = .next s.arbitrateAll.sendNext ∧
      exec (.replyWindowExpiry a) s = .next s.arbitrateAll.sendNext) ∧
    exec (.lateReply a bs) s = .next s ∧
    (∀ (ex : Exchange) (d : Nat), d = ex.addr →
      (∀ st, s.deliver a ex (.post st) = s.postStatus a d st) ∧
      (∀ n strike grace, s.row a d = .gate n strike grace →
        let x := s.gate n
        (∀ st, s.deliver a ex (.gate st) = s.gateStatus n st) ∧
        ∀ v, ex.req = .gateStrike v →
          s.deliver a ex .ack = s.setGate n { x with
            awaitsHeldEnd := false
            mark := if x.mark.any (·.setAgain) = true then x.mark else none }) ∧
      (∀ n g0 g1, s.row a d = .pump n g0 g1 →
        let x := s.pump n
        let left : Option PumpMark := if x.mark.any (·.setAgain) = true then x.mark else none
        (∀ st, s.deliver a ex (.pump st) = s.pumpStatus n st) ∧
        (∀ k v, ex.req = .pumpAuth k v → s.deliver a ex .ack = s.setPump n { x with closedVolume := none, mark := left }) ∧
        (ex.req = .pumpStop → s.deliver a ex .ack = s.setPump n { x with mark := left })) ∧
      (∀ p w0 v0 w1 v1, s.post? a d = some p → ex.req = .postSet w0 v0 w1 v1 →
        s.deliver a ex .ack = s.setPost a d { p with mark := if p.mark.any (·.setAgain) = true then p.mark else none }) ∧
      (∀ sub data, ex.req = .relayWrite sub data → s.deliver a ex .ack = s.relayEnd a (some [])) ∧
      ∀ sub count data, ex.req = .relayRead sub count → s.deliver a ex (.data data) = s.relayEnd a (some data)) ∧
    (∀ ex, a < 6 → ex.req = .probe → ∀ reply : Option ReplyContent,
      let A := s.arm a
      let t := s.exchangeEnd a ex reply
      let restores : Prop := reply.isSome = true ∧ A.state = .isolated ∧ 15 ≤ A.probes ∧ A.autoRestore = true
      t = (s.setArm a { A with inFlight := none }).probeOutcome a reply.isSome ∧
      (t.arm a).errors = A.errors ∧ (∀ b, b ≠ a → t.arm b = s.arm b) ∧
      (¬ restores → ∀ d, t.slot a d = s.slot a d) ∧
      (restores → ∀ d, (t.slot a d).station = (s.slot a d).station.map (fun _ => { link := .unseen, missed := 0 }))) ∧
    ∀ ex, a < 6 → ex.req ≠ .probe →
      let ended : State := s.setArm a { s.arm a with inFlight := none }
      (∀ c, s.exchangeEnd a ex (some c) =
        (((ended.stationGood a ex.addr).errorsGood a).deliver a ex c).sweepEnd a) ∧
      (let counted : State := (ended.stationBad a ex.addr).errorsBad a
        let told : State := if ex.work = .relay then counted.relayEnd a none else counted
        s.exchangeEnd a ex none =
          (if (s.arm a).state = .active ∧ (counted.arm a).state = .degraded then told.endTransfer a .degraded else told).sweepEnd a) ∧
      (∀ st, (s.slot a ex.addr).station = some st → st.link = .present →
        let missed := min (st.missed + 1) 15
        let silent :=
          (s.setStation a ex.addr { link := .silent, missed := missed }).post
            (.stationSilent a ex.addr (s.row a ex.addr).kind missed)
        s.stationBad a ex.addr =
          (if (s.arm a).silence ≤ missed then
            match s.row a ex.addr with
            | .gate n _ _ => silent.setGate n (s.gate n).cutOff
            | .pump n _ _ => silent.setPump n ((s.pump n).cutOff s.clock)
            | _ => silent
          else s.setStation a ex.addr { st with missed := missed }) ∧
        s.stationGood a ex.addr = s.setStation a ex.addr { link := .present, missed := 0 }) ∧
      ∀ st, (s.slot a ex.addr).station = some st → st.link ≠ .present →
        let back :=
          (s.setStation a ex.addr { link := .present, missed := 0 }).post
            (.stationPresent a ex.addr (s.row a ex.addr).kind st.link)
        s.stationBad a ex.addr = s.setStation a ex.addr { st with missed := min (st.missed + 1) 15 } ∧
        s.stationGood a ex.addr =
          match s.row a ex.addr with
          | .pump n _ _ =>
            back.setPump n (if (s.pump n).state = .offline then { s.pump n with state := .idle } else s.pump n)
          | _ => back

/-- The error count (R181), isolation (R182) and the probe count (R183): +8 and -1 with the thresholds 96, 128 and 255, the links that
isolation takes with the owners it tells, and the sixteenth good probe. -/
def Obligations.ErrorCountAndIsolation : Prop :=
  ∀ (s : State) (a : Nat), a < 6 →
    let A := s.arm a
    let n := A.errors + 8
    let runs : Prop := A.state = .active ∨ A.state = .degraded
    (¬ runs → s.errorsBad a = s ∧ s.errorsGood a = s) ∧
    (runs → n ≤ 255 →
      let t := s.errorsBad a
      let warned : NoticeQueue := if A.errors < 96 ∧ 96 ≤ n then s.notices.post s.clock (.armWarning a n) else s.notices
      let falls : Prop := A.state = .active ∧ 128 ≤ n
      (t.arm a).errors = n ∧ (t.arm a).state = (if falls then .degraded else A.state) ∧
      t.notices = (if falls then warned.post s.clock (.armState a .active .degraded .errors n) else warned) ∧
      (∀ b, b ≠ a → t.arm b = s.arm b) ∧ (∀ d, t.slot a d = s.slot a d) ∧ t.gates = s.gates ∧ t.pumps = s.pumps) ∧
    (runs → 255 < n →
      let t := s.errorsBad a
      (t.arm a).errors = 0 ∧ (t.arm a).probes = 0 ∧ (t.arm a).state = .isolated ∧ (t.arm a).sweep = none ∧
      (t.arm a).pollDue = false ∧ (t.arm a).periodRunning = none ∧ (t.arm a).slotRunning = none ∧ (t.arm a).probeTimer = true ∧
      (t.arm a).inFlight = A.inFlight ∧
      (∀ d, (t.slot a d).station = (s.slot a d).station.map (fun st =>
          { st with link := if st.link = .present then .silent else st.link }) ∧
        t.row a d = s.row a d ∧ t.post? a d = s.post? a d) ∧
      (∀ b, b ≠ a → t.arm b = s.arm b) ∧ OwnersCutOff s t a ∧
      t.notices = s.notices.post s.clock
        (.armIsolated a A.state (((List.range 30).map (· + 1)).countP (fun d => s.isPresent a d)))) ∧
    (runs →
      let t := s.errorsGood a
      let rises : Prop := A.state = .degraded ∧ A.errors - 1 < 128
      (t.arm a).errors = A.errors - 1 ∧ (t.arm a).state = (if rises then .active else A.state) ∧
      t.notices = (if rises then s.notices.post s.clock (.armState a .degraded .active .errors (A.errors - 1)) else s.notices) ∧
      (∀ b, b ≠ a → t.arm b = s.arm b) ∧ (∀ d, t.slot a d = s.slot a d)) ∧
    s.probeOutcome a false = s.setArm a { A with probes := 0 } ∧
    (A.state ≠ .isolated → s.probeOutcome a true = s.setArm a { A with probes := min (A.probes + 1) 16 }) ∧
    (A.state = .isolated →
      (A.probes < 15 → s.probeOutcome a true = s.setArm a { A with probes := A.probes + 1 }) ∧
      (A.probes = 15 → A.autoRestore = false →
        s.probeOutcome a true = (s.setArm a { A with probes := 16 }).post (.armReachable a (A.anchorInForce.getD 0))) ∧
      (A.probes = 16 → A.autoRestore = false → s.probeOutcome a true = s.setArm a { A with probes := 16 }) ∧
      (15 ≤ A.probes → A.autoRestore = true →
        let t := s.probeOutcome a true
        (t.arm a).state = .active ∧ t.notices = s.notices.post s.clock (.armState a .isolated .active .probes A.errors) ∧
        OwnersCutOff s t a ∧
        ∀ d, (t.slot a d).station = (s.slot a d).station.map (fun _ => { link := .unseen, missed := 0 })))

/-- PROBE-DUE (R183), PRIORITY-SWEEP-DUE (R187) and REGULAR-SLOT (R188): each makes its work due where its timer runs, and starts the next
interval with the value in force; a sweep waits while one is in progress. The sweep ends when the exchange of its last poll ends, and a
waiting one starts in that event with the list as it then stands (R187). That a timer which does not run changes nothing is the model's
choice (log entry 28). The arbiter (R189): with the bus idle it takes the first kind of work in the order of R189 that has a candidate, the
lowest address among several, an ISOLATED arm only its due probe and a DISABLED arm nothing, and the exchange is in flight from there. -/
def Obligations.ArmTimersMakeWorkDue : Prop :=
  (∀ (s : State) (a : Nat), a < 6 →
    let A := s.arm a
    let first (f : Nat → Option (Nat × ArmRequest × Work)) : Option (Nat × ArmRequest × Work) :=
      ((List.range 30).map (· + 1)).findSome? f
    let here (d : Nat) : Prop := ∃ st, (s.slot a d).station = some st ∧ st.link = .present
    let poll (d : Nat) : ArmRequest :=
      match s.row a d with
      | .pump n _ _ =>
        match (s.pump n).sale with
        | some q => .pollPump q.amount q.volume
        | none => .pollPump 0 0
      | _ => .poll
    let postMark (safety : Bool) (d : Nat) : Option (Nat × ArmRequest × Work) :=
      match (s.post? a d).bind (·.mark) with
      | some m =>
        if m.safety = safety ∧ s.link a d = .present then some (d, .postSet m.power0 m.water0 m.power1 m.water1, .mark) else none
      | none => none
    let gateMark (d : Nat) : Option (Nat × ArmRequest × Work) :=
      match s.row a d with
      | .gate n _ _ =>
        match (s.gate n).mark with
        | some m =>
          if s.link a d = .present then
            some (d, .gateStrike (match m.cmd with
              | .strike => (s.gate n).strikeTime.getD 0
              | .deny => 0
              | .holdRelease => 255), .mark)
          else none
        | none => none
      | _ => none
    let pumpMark (d : Nat) : Option (Nat × ArmRequest × Work) :=
      match s.row a d with
      | .pump n _ _ =>
        match (s.pump n).mark with
        | some m =>
          if s.link a d = .present then
            some (d, match m.cmd with
              | .auth nozzle _ preset => .pumpAuth nozzle preset
              | .stop => .pumpStop, .mark)
          else none
        | none => none
      | _ => none
    let sweepPoll : Option (Nat × ArmRequest × Work) :=
      match A.sweep with
      | some (d :: _) => some (d, poll d, .priorityPoll)
      | _ => none
    let relayGroup : Option (Nat × ArmRequest × Work) :=
      if A.state = .active then
        match s.transferOn a with
        | some (q, x) => some (q.addr, q.groupRequest x.done, .relay)
        | none => none
      else none
    let regularPoll : Option (Nat × ArmRequest × Work) :=
      if A.pollDue = true ∧ (s.row a A.pointer).kind ≠ .none then some (A.pointer, poll A.pointer, .regularPoll) else none
    let chosen := [first (postMark true), sweepPoll, first gateMark, first pumpMark, relayGroup, first (postMark false),
      regularPoll].findSome? id
    let launched (t : State) (w : Nat × ArmRequest × Work) : State :=
      t.setArm a { t.arm a with inFlight := some { addr := w.1, req := w.2.1, work := w.2.2, begun := false, window := A.window } }
    (∀ d, s.link a d = .present ↔ here d) ∧
    (A.inFlight ≠ none → s.arbitrate a = s) ∧
    (A.inFlight = none →
      (A.state = .disabled → s.arbitrate a = s) ∧
      (A.state = .isolated →
        (A.probeDue = false → s.arbitrate a = s) ∧
        (A.probeDue = true →
          s.arbitrate a =
            match (if A.anchor = 0 then
                ((List.range 30).map (· + 1)).find? (fun d => (s.row a d).kind != .none) else some A.anchor) with
            | some d => launched (s.setArm a { A with probeDue := false }) (d, .probe, .probe)
            | none => s)) ∧
      ((A.state = .active ∨ A.state = .degraded) →
        s.chooseWork a = chosen ∧ (chosen = none → s.arbitrate a = s) ∧
        ∀ d req work, chosen = some (d, req, work) →
          s.arbitrate a = launched (
            match work with
            | .priorityPoll => s.setArm a { A with sweep := A.sweep.map List.tail }
            | .regularPoll =>
              s.setArm a { A with pollDue := false
                                  pointer := (((List.range 30).map (· + 1)).find? (fun k =>
                                    decide (A.pointer < k) && (s.row a k).kind != .none)).getD
                                    ((((List.range 30).map (· + 1)).find? (fun k => (s.row a k).kind != .none)).getD 1) }
            | .mark => s.markCarried a d
            | _ => s) (d, req, work)))) ∧
  (∀ (s : State) (a d : Nat),
    (∀ n strike grace, s.row a d = .gate n strike grace →
      s.markCarried a d = s.setGate n { s.gate n with mark := (s.gate n).mark.map (fun m => { m with setAgain := false }) }) ∧
    (∀ n g0 g1, s.row a d = .pump n g0 g1 →
      s.markCarried a d = s.setPump n { s.pump n with mark := (s.pump n).mark.map (fun m => { m with setAgain := false }) }) ∧
    (∀ p, (s.row a d).kind = .post → s.post? a d = some p →
      s.markCarried a d = s.setPost a d { p with mark := p.mark.map (fun m => { m with setAgain := false }) })) ∧
  ∀ (s : State) (a : Nat),
    let A := s.arm a
    let eligible (d : Nat) : Bool :=
      match s.row a d with
      | .gate .. => true
      | .pump n _ _ => (s.pump n).sale.isSome
      | .post .. => (s.post? a d).any (fun p => p.points.any (fun x => x.state != .off && x.state != .fault))
      | .none => false
    let l := ((List.range 30).map (· + 1)).filter eligible
    (∀ d, s.inPriority a d = eligible d) ∧
    (A.sweep ≠ some [] → s.sweepEnd a = s) ∧
    (A.sweep = some [] →
      s.sweepEnd a =
        if A.sweepWaiting = true then s.setArm a { A with sweep := if l = [] then none else some l, sweepWaiting := false }
        else s.setArm a { A with sweep := none }) ∧
    (exec (.probeDue a) s = .next (State.sendNext (State.arbitrateAll (
      if A.state = .isolated ∧ A.probeTimer = true then s.setArm a { A with probeDue := true } else s)))) ∧
    (exec (.prioritySweepDue a) s = .next (State.sendNext (State.arbitrateAll (
      if A.periodRunning = none then s
      else if A.sweep = none then
        s.setArm a { A with periodRunning := some A.period, sweep := if l = [] then none else some l, sweepWaiting := false }
      else s.setArm a { A with periodRunning := some A.period, sweepWaiting := true })))) ∧
    (exec (.regularSlot a) s = .next (State.sendNext (State.arbitrateAll (
      if A.slotRunning = none then s
      else s.setArm a { A with
        slotRunning := some (if A.state = .degraded then 2 * A.slotInterval else A.slotInterval)
        pollDue := A.pollDue || ((List.range 30).map (· + 1)).any (fun d => (s.row a d).kind != .none) }))))

/-- A reply frame built as R173 says, with a payload of up to 24 bytes, is judged by its address, its kind and its content alone; one
from another address is bad (R174). -/
def Obligations.ReplyFramesAreJudgedByAddressKindAndContent : Prop :=
  ∀ (kind : RowKind) (addr from_ k : Nat) (req : ArmRequest) (payload : List Byte),
    addr < 256 → from_ < 256 → k < 256 → payload.length ≤ 24 →
    (from_ ≠ addr → judgeReply kind addr req (armFrame from_ k payload) = none) ∧
    judgeReply kind addr req (armFrame addr k payload) =
      match req with
      | .poll => if k = 0x81 then statusOf kind payload else none
      | .pollPump _ _ => if k = 0x81 then statusOf kind payload else none
      | .relayRead _ count => if k = 0x83 ∧ payload.length = count then some (.data payload) else none
      | _ => if k = 0x82 ∧ payload.length = 0 then some .ack else none

/-! ### Relayed station transfers -/

/-- RELAY (R193): the six checks in their order and the placing of the transfers (R194); the groups of a WRITE, put together in their
order, are its bytes. The end of a relay exchange (R195), the end of a transfer (R197), and the result of a request that has no transfer in
flight left (R196). That an arm mask of 64 or more is RANGE is DEDUCED (log entry 5). -/
def Obligations.RelayIsJudgedAndPlaced : Prop :=
  (∀ (s : State) (a : Nat),
    let changed (f : Transfer → Transfer) : List RelayRequest := s.relays.map (fun q => { q with
      transfers := q.transfers.map (fun t => if t.arm = a ∧ t.endCause = none then f t else t) })
    let running (q : RelayRequest) : Bool := q.transfers.any (fun t => t.endCause == none)
    let tell (t : State) (q : RelayRequest) : State :=
      let report : RelayReport := {
        isRead := match q.data with
          | .read _ => true
          | .write _ => false
        arms := setBits ((List.range 6).map (fun b => q.transfers.any (fun x => x.arm == b)))
        addr := q.addr
        results := q.transfers.map (fun x => (x.arm, x.done, x.total, x.endCause))
        bytes := match q.data with
          | .read _ => q.transfers.flatMap (fun x => x.buffer.take (q.group * x.done))
          | .write _ => [] }
      if q.wait = true then t.pushReply { tag := q.tag, kind := 0x58, result := .done, body := .relayed report }
      else t.post (.relayDone q.tag report)
    let judged (l : List RelayRequest) : State :=
      (l.filter (fun q => !running q)).foldl tell { s with relays := l.filter running }
    (∀ bytes, s.relayEnd a (some bytes) = judged (changed (fun t => { t with
      done := t.done + 1, buffer := t.buffer ++ bytes
      endCause := if t.done + 1 = t.total then some .complete else none }))) ∧
    s.relayEnd a none = judged (changed (fun t => { t with endCause := some .failed })) ∧
    ∀ cause, s.endTransfer a cause = judged (changed (fun t => { t with endCause := some cause }))) ∧
  (∀ (s : State) (tag : Nat) (f : RelayArgs), s.Room →
    let size := match f.payload with
      | .write d => d.length
      | .read n => n
    let refused (r : Result) : State := s.frameTaken.answeredBus tag 0x58 r .empty
    let inRange : Prop :=
      (match f.target with
        | .arms mask addr => (1 ≤ mask ∧ mask < 64) ∧ 1 ≤ addr ∧ addr ≤ 30
        | .berth b => 1 ≤ b ∧ b ≤ 200) ∧
      (1 ≤ size ∧ size ≤ 48) ∧ (1 ≤ f.group ∧ f.group ≤ 16) ∧ f.sub + size - 1 ≤ 65535
    let manyRead : Prop :=
      match f.target, f.payload with
      | .arms mask _, .read _ => (maskArms mask).length ≠ 1
      | _, _ => False
    let total := (size + f.group - 1) / f.group
    let judged (arms : List Nat) (addr : Nat) : State :=
      if ∃ a ∈ arms, (s.row a addr).kind = .none then refused .state
      else if ∃ a ∈ arms, (a, addr) ∈ s.refusals ∨ (s.row a addr).kind = .pump then refused .denied
      else if ∃ a ∈ arms, (s.arm a).state ≠ .active ∨ (s.transferOn a).isSome = true then refused .busy
      else
        let placed : State := s.frameTaken.setRelays (s.relays ++ [{
          tag := tag, wait := f.wait, addr := addr, sub := f.sub, group := f.group, data := payloadData f.payload
          transfers := arms.map (fun a => { arm := a, total := total, done := 0, buffer := [], endCause := none }) }])
        if f.wait then placed.arbitrateAll.sendNext else placed.answeredBus tag 0x58 .accepted (.groups total)
    (¬ inRange → exec (.relay tag (.fields f)) s = .next (refused .range)) ∧
    (inRange → manyRead → exec (.relay tag (.fields f)) s = .next (refused .range)) ∧
    (inRange → ¬ manyRead → ∀ mask addr, f.target = .arms mask addr →
      exec (.relay tag (.fields f)) s = .next (judged (maskArms mask) addr)) ∧
    (inRange → ∀ b, f.target = .berth b →
      exec (.relay tag (.fields f)) s = .next (
        match s.boundSide b with
        | none => refused .state
        | some d => judged [d.arm] d.addr))) ∧
  ∀ (q : RelayRequest) (d : List Byte), q.data = .write d → 1 ≤ q.group →
    let total := (d.length + q.group - 1) / q.group
    (List.range total).flatMap (fun k =>
      match q.groupRequest k with
      | .relayWrite _ bytes => bytes
      | _ => []) = d ∧
    ∀ k, k < total → ∃ bytes, q.groupRequest k = .relayWrite (q.sub + k * q.group) bytes ∧ 1 ≤ bytes.length ∧
      (k + 1 < total → bytes.length = q.group) ∧ bytes.length ≤ q.group

/-! ### Tables -/

/-- LOAD-OPEN (R204), with what its zero rows read as, LOAD-ROW (R205), and what LOAD-DISCARD does (of R207). -/
def Obligations.LoadsAreOpenedWrittenAndDiscarded : Prop :=
  (∀ (s : State) (tag n : Nat), s.Room →
    let opened (t : TableId) (rows : List (List Byte)) : State :=
      ({ s.frameTaken with staging := some { table := t, rows := rows } }).answered tag 0x60 .done (.rowCount rows.length)
    exec (.loadOpen tag (.fields n)) s = .next (
      if ¬ n < 8 then s.frameTaken.answered tag 0x60 .range .empty
      else if s.staging.isSome then s.frameTaken.answered tag 0x60 .busy .empty
      else if n = 0 then opened .credentials (List.replicate 512 (List.replicate 22 0#8))
      else if n = 1 then
        opened .rates [List.replicate 8 0#8, List.replicate 8 0#8, List.replicate 8 0#8, List.replicate 6 0#8, List.replicate 4 0#8,
          List.replicate 18 0#8, List.replicate 8 0#8, List.replicate 12 0#8]
      else opened (.stations (n - 2)) (List.replicate 30 (List.replicate 12 0#8)))) ∧
  (
    let zero := credRowOf (List.replicate 22 0#8)
    zero.enabled = false ∧ zero.code = 0#40 ∧ zero.mask = 0#40 ∧ zero.kind = .crew ∧
    (∀ w i n, natAt (List.replicate w 0#8) i n = 0) ∧ stagedRow (List.replicate 12 0#8) = some .none) ∧
  (∀ (s : State) (tag : Nat) (f : LoadRowArgs), s.Room →
    (s.staging = none → exec (.loadRow tag (.fields f)) s = .next (s.frameTaken.answered tag 0x61 .state .empty)) ∧
    ∀ l, s.staging = some l →
      let suits : Prop :=
        match l.table with
        | .credentials => f.index < 512 ∧ f.bytes.length = 22
        | .rates => [8, 8, 8, 6, 4, 18, 8, 12][f.index]? = some f.bytes.length
        | .stations _ => f.index < 30 ∧ f.bytes.length = 12
      (suits → exec (.loadRow tag (.fields f)) s = .next (
        ({ s.frameTaken with staging := some { l with rows := l.rows.set f.index f.bytes } }).answered tag 0x61 .done .empty)) ∧
      (¬ suits → exec (.loadRow tag (.fields f)) s = .next (s.frameTaken.answered tag 0x61 .range .empty))) ∧
  ∀ (s : State) (tag : Nat), s.Room →
    exec (.loadDiscard tag (.fields ())) s = .next (
      if s.staging = none then s.frameTaken.answered tag 0x63 .state .empty
      else ({ s.frameTaken with staging := none }).answered tag 0x63 .done .empty)

/-- LOAD-COMMIT (R206): the steps in their order with the row checks of each table (R56, R118, R177), and what a commit of each leaves
(R57, R119, R178). A station commit takes the arm's rows, station records, checksum, pointer and anchor (R178), its posts (R114) with their
detector parts (R147), the gates (R64), the tracking (R81) and the pumps (R170). A refused commit changes no table and keeps the load.
Where two staged rows clash, which of them fails is DEDUCED (log entry 16), which clash with other arms is reported is the model's choice
(log entry 39), that a commit acts on every gate of the arm is DEDUCED (log entry 11), and the strike time and hold grace kept once no row
names a gate are the model's choice (log entry 12); a post's mark and counts, and an unnamed pump's closed volume, are kept (DEDUCED, log
entry 24). -/
def Obligations.LoadCommitReplacesOneTable : Prop :=
  (∀ row : CredRow, row.passes = true ↔
    (row.enabled = true →
      (∀ f u, row.window = some (f, u) → f < u) ∧
      ((row.kind = .crew ∨ row.kind = .guest) → ∃ b, row.berth = some b ∧ 1 ≤ b ∧ b ≤ 200) ∧
      ((row.kind = .staff ∨ row.kind = .service) → row.berth = none) ∧
      ((row.kind = .guest ∨ row.kind = .service) → row.window ≠ none))) ∧
  (∀ rows : List (List Byte),
    (rateRowPasses rows 0 = true ↔
      bandStart rows 0 = 0 ∧ 0 < bandStart rows 1 ∧ bandStart rows 1 < bandStart rows 2 ∧ bandStart rows 2 < bandStart rows 3 ∧
      bandStart rows 3 ≤ 1439) ∧
    rateRowPasses rows 1 = true ∧ rateRowPasses rows 2 = true ∧
    (rateRowPasses rows 3 = true ↔ ∀ i, i < 6 → 1 ≤ limitAt rows i) ∧
    (rateRowPasses rows 4 = true ↔ 1 ≤ leakThreshold rows .power ∧ 1 ≤ leakThreshold rows .water) ∧
    (rateRowPasses rows 5 = true ↔ ∀ i, i < 6 → nightFee rows i ≤ 999999) ∧
    (rateRowPasses rows 6 = true ↔ ∀ g, g < 4 → 1 ≤ fuelPrice rows g) ∧
    (rateRowPasses rows 7 = true ↔
      (1 ≤ minimumSale rows ∧ minimumSale rows ≤ 99999) ∧ (1 ≤ perSaleCap rows ∧ perSaleCap rows ≤ 999999) ∧
      (1 ≤ autonomousCap rows ∧ autonomousCap rows ≤ 999999) ∧ startMinimum rows ≤ 999999 ∧
      minimumSale rows ≤ perSaleCap rows ∧ minimumSale rows ≤ autonomousCap rows)) ∧
  (∀ (s : State) (a : Nat) (rows : List (List Byte)),
    let row (i : Nat) : Row := stagedAt rows i
    let named (r : Row) : List Claim :=
      match r with
      | .none => []
      | .post b0 b1 _ _ _ _ _ => b0.toList.map Claim.berth ++ b1.toList.map Claim.berth
      | .gate g _ _ => [.gate g]
      | .pump p _ _ => [.pump p]
    let suits (i : Nat) : Prop :=
      stagedRow (rows.getD i []) ≠ none ∧
      (match row i with
        | .none => True
        | .post b0 b1 offset shift fullScale n w =>
          (∀ b, b0 = some b → 1 ≤ b ∧ b ≤ 200) ∧ (∀ b, b1 = some b → 1 ≤ b ∧ b ≤ 200) ∧ (b0 = none ∨ b0 ≠ b1) ∧
          offset ≤ 4095 ∧ shift ≤ 8 ∧ fullScale ≤ 4095 ∧ n ≤ 8 ∧ (w = 0 ∨ (4 ≤ w ∧ w ≤ 64))
        | .gate g t h => g < 8 ∧ t ≤ 30 ∧ (h = 0 ∨ (5 ≤ h ∧ h ≤ 300))
        | .pump p g0 g1 => p < 4 ∧ g0 < 4 ∧ g1 < 4) ∧
      ∀ j, j < 30 → j ≠ i → ∀ c ∈ named (row j), c ∉ named (row i)
    let clash (i : Nat) : Option (Nat × Nat) :=
      ((List.range 6).flatMap (fun b => (List.range 30).map (fun k => (b, k)))).find? (fun p =>
        p.1 != a && (named (s.row p.1 (p.2 + 1))).any (fun c => (named (row i)).contains c))
    let sound (i : Nat) : Prop := suits i ∧ clash i = none
    (s.stationFailure a rows = none ↔ ∀ i, i < 30 → sound i) ∧
    ∀ i,
      (s.stationFailure a rows = some (i, none) ↔ i < 30 ∧ ¬ suits i ∧ ∀ j, j < i → sound j) ∧
      ∀ p, s.stationFailure a rows = some (i, some p) ↔ i < 30 ∧ suits i ∧ clash i = some p ∧ ∀ j, j < i → sound j) ∧
  ∀ (s : State) (tag : Nat) (expected : Check), s.Room →
    let done : Host.Outcome State Fault Refusal := exec (.loadCommit tag (.fields expected)) s
    (s.staging = none → done = .next (s.frameTaken.answered tag 0x62 .state .empty)) ∧
    ∀ l, s.staging = some l →
      (crc l.rows.flatten ≠ expected →
        done = .next (s.frameTaken.answered tag 0x62 .checksum (.found (crc l.rows.flatten)))) ∧
      (crc l.rows.flatten = expected →
        (l.table = .credentials →
          done = .next (
            match l.rows.findIdx? (fun bs => !(credRowOf bs).passes) with
            | some r => s.frameTaken.answered tag 0x62 .range (.failedRow l.table r none)
            | none =>
              ({ s.frameTaken with
                  creds := { state := .valid, rows := Vector.ofFn (fun i : Fin 512 => l.rows.getD i.val []), checksum := some expected }
                  scan := if s.scan.inRates then s.scan else { inRates := false, row := 0, crc := 0xFFFF#16 }
                  staging := none }).answered tag 0x62 .done .empty)) ∧
        (l.table = .rates →
          done = .next (
            match (List.range 8).find? (fun i => !rateRowPasses l.rows i) with
            | some r => s.frameTaken.answered tag 0x62 .range (.failedRow l.table r none)
            | none =>
              ({ s.frameTaken with
                  rates := { state := .valid, rows := Vector.ofFn (fun i : Fin 8 => l.rows.getD i.val []), checksum := some expected }
                  scan := if s.scan.inRates then { inRates := true, row := 0, crc := 0xFFFF#16 } else s.scan
                  staging := none }).answered tag 0x62 .done .empty)) ∧
        ∀ a, l.table = .stations a → a < 6 →
          ((s.arm a).state ≠ .disabled → done = .next (s.frameTaken.answered tag 0x62 .state .empty)) ∧
          ((s.arm a).state = .disabled → ∀ r clash, s.stationFailure a l.rows = some (r, clash) →
            done = .next (s.frameTaken.answered tag 0x62 .range (.failedRow l.table r clash))) ∧
          ((s.arm a).state = .disabled → s.stationFailure a l.rows = none →
            let t : State := (s.frameTaken.commitStations a l.rows expected).closeLoad
            done = .next (t.answered tag 0x62 .done .empty) ∧ t.staging = none ∧
              (∀ i, i < 30 → t.row a (i + 1) = (stagedAt l.rows i).inForce) ∧
              (t.arm a).checksum = some expected ∧ (t.arm a).state = .disabled ∧
              (∀ i, i < 30 → (t.slot a (i + 1)).station =
                if (stagedAt l.rows i).kind = .none then none
                else some ((s.slot a (i + 1)).station.getD { link := .unseen, missed := 0 })) ∧
              (let fresh : Detector := { run := 0, sum := 0, count := 0, latch := false, last := none }
                let point : Point := {
                  state := .off, enables := { credit := true, tap := true, office := true }, baseline := none, unattributed := 0
                  unconfirmed := 0, session := none }
                ∀ i, i < 30 → t.post? a (i + 1) =
                  if (stagedAt l.rows i).kind = .post then
                    match s.post? a (i + 1) with
                    | some p => some { p with det0 := fresh, det1 := fresh }
                    | none => some {
                        power0 := point, water0 := point, power1 := point, water1 := point, det0 := fresh, det1 := fresh
                        mark := none }
                  else none) ∧
              (t.arm a).pointer = (((List.range 30).map (· + 1)).filter (fun d => (t.row a d).kind != .none)).headD 1 ∧
              (t.arm a).anchor = (if (t.row a (s.arm a).anchor).kind = .none then 0 else (s.arm a).anchor) ∧
              (let all : List (Nat × Nat) := (List.range 6).flatMap (fun b => (List.range 30).map (fun k => (b, k + 1)));
                (∀ g, g < 8 →
                  let x := s.gate g
                  let place := all.find? (fun p => match t.row p.1 p.2 with
                    | .gate n _ _ => n == g
                    | _ => false)
                  let moved : Gate := { x with
                    station := place, monitor := .idle, strikeEnd := none, passageSeen := false, expiry := .taken
                    mark := if place ≠ none ∧ x.mode = .free then some { cmd := .holdRelease, setAgain := true } else none }
                  ((∀ p, x.station = some p → p.1 ≠ a) → (∀ p, place = some p → p.1 ≠ a) → t.gate g = x) ∧
                  (((∃ p, x.station = some p ∧ p.1 = a) ∨ ∃ p, place = some p ∧ p.1 = a) →
                    (place = none → t.gate g = moved) ∧
                    ∀ p n strike grace, place = some p → t.row p.1 p.2 = .gate n strike grace →
                      t.gate g = { moved with strikeTime := some strike, holdGrace := some grace })) ∧
                ∀ n, n < 4 →
                  let x := s.pump n
                  let place := all.find? (fun p => match t.row p.1 p.2 with
                    | .pump k _ _ => k == n
                    | _ => false);
                  (∀ p k g0 g1, place = some p → p.1 = a → t.row p.1 p.2 = .pump k g0 g1 →
                    t.pump n = { x with
                      station := some p, grade0 := g0, grade1 := g1, state := .offline, closedVolume := none, mark := none }) ∧
                  (place = none → (∃ p, x.station = some p ∧ p.1 = a) →
                    t.pump n = { x with station := none, state := .offline, mark := none }) ∧
                  ((∀ p, place = some p → p.1 ≠ a) → (place ≠ none ∨ ∀ p, x.station = some p → p.1 ≠ a) → t.pump n = x)) ∧
              (∀ p, p < 6 →
                ((t.pontoon p).tracking = .suspended ↔
                  ∃ g ∈ t.gates.toList, g.station.map Prod.fst = some p ∧ g.mode = .free) ∧
                (t.pontoon p).limit = (s.pontoon p).limit) ∧
              t.notices = (List.range 6).foldl (fun q p =>
                if (t.pontoon p).tracking = (s.pontoon p).tracking then q
                else q.post s.clock (.tracking p (t.pontoon p).tracking (s.count p))) s.notices ∧
              (∀ b, b ≠ a → t.arm b = s.arm b) ∧ t.creds = s.creds ∧ t.rates = s.rates ∧ t.scan = s.scan ∧
              t.berths = s.berths ∧ t.accounts = s.accounts ∧ t.presence = s.presence))

/-- SCAN-ROW (R209): a row folds into the running check, which starts at all ones at a table's first row; at the end of a table the check
is judged where the table is VALID (R58, R119), and the scan goes on with the other table. -/
def Obligations.ScanRowFoldsAndJudges : Prop :=
  ∀ s : State,
    let bytes := if s.scan.inRates then tabGet s.rates.rows [] s.scan.row else tabGet s.creds.rows [] s.scan.row
    let found := bytes.foldl crcByte (if s.scan.row = 0 then 0xFFFF#16 else s.scan.crc)
    let last := if s.scan.inRates then 7 else 511
    let moved (t : State) : State := { t with scan := { inRates := !s.scan.inRates, row := 0, crc := 0xFFFF#16 } }
    (s.scan.row < last →
      exec .scanRow s = .next ({ s with scan := { s.scan with row := s.scan.row + 1, crc := found } }).sendNext) ∧
    (last ≤ s.scan.row → s.scan.inRates = true → ∀ c, s.rates.state = .valid → s.rates.checksum = some c → found ≠ c →
      exec .scanRow s = .next
        (moved ((s.setRates { s.rates with state := .fault }).post (.tableFault true c found))).sendNext) ∧
    (last ≤ s.scan.row → s.scan.inRates = false → ∀ c, s.creds.state = .valid → s.creds.checksum = some c → found ≠ c →
      exec .scanRow s = .next
        (moved ((s.setCreds { s.creds with state := .fault }).post (.tableFault false c found))).sendNext) ∧
    (last ≤ s.scan.row → s.scan.inRates = true → (s.rates.state ≠ .valid ∨ s.rates.checksum = some found) →
      exec .scanRow s = .next (moved s).sendNext) ∧
    (last ≤ s.scan.row → s.scan.inRates = false → (s.creds.state ≠ .valid ∨ s.creds.checksum = some found) →
      exec .scanRow s = .next (moved s).sendNext)

/-! ### Time, restart and the trunk -/

/-- TIME-SET (R212): the clock takes the value, and the expiries are judged against it: close timeouts, then strike ends and hold grace gate
by gate, then the pump timers (the order is the model's choice, log entry 10). That RESTART posts the RELAY-DONE notices in the order in
which the requests were accepted (log entry 18) and empties the kept bytes (log entry 15) is the model's choice too. RESTART (R215, R27,
R49, R63, R88, R116, R134, R147, R172, R192, R199): what is cleared and what is kept, before the arbiters choose. The regular sweep pointer
goes to the lowest station on every arm (R188); that this holds of a DISABLED one too is DEDUCED (log entry 41). -/
def Obligations.TimeSetAndRestart : Prop :=
  (∀ (s : State) (tag time : Nat), s.Room →
    let set : State := { s.frameTaken with clock := time }
    let berths := ((List.range 200).map (· + 1)).foldl State.departureTimeout set
    let gates := (List.range 8).foldl (fun (t : State) g => (t.strikeExpiry g).holdExpiry g) berths
    let pumps := [0, 1, 2, 3].foldl (fun (t : State) p => (t.readyExpiry p).linkLossExpiry p) gates
    exec (.timeSet tag (.fields time)) s = .next (pumps.answeredBus tag 0x64 .done (.times s.clock time))) ∧
  ∀ (s : State) (tag : Nat), s.Room →
    ∃ t : State, exec (.restart tag (.fields ())) s = .next (t.answeredBus tag 0x66 .done .empty) ∧
      t.clock = s.clock ∧ t.staging = none ∧ t.scan = { inRates := false, row := 0, crc := 0xFFFF#16 } ∧
      t.trunk = { link := .connected, silenceTime := s.trunk.silenceTime, silenceCount := 0, replies := []
                  sending := s.trunk.sending, discarded := 0, rx := [] } ∧
      t.relays = [] ∧
      t.notices = (s.relays.map (fun q => NoticeBody.relayDone q.tag q.restarted.report)).foldl (fun q b => q.post s.clock b)
        { s.notices with queue := [], dropped := 0 } ∧
      t.berths = s.berths ∧ t.grace = s.grace ∧ t.scanPtr = s.scanPtr ∧ t.accounts = s.accounts ∧ t.creds = s.creds ∧
      t.pontoons = s.pontoons ∧ t.presence = s.presence ∧ t.rates = s.rates ∧ t.tripDelay = s.tripDelay ∧
      t.readyTimeout = s.readyTimeout ∧ t.linkLossWindow = s.linkLossWindow ∧ t.refusals = s.refusals ∧
      (∀ g, g < 8 →
        let x := s.gate g
        let y := t.gate g
        y.station = x.station ∧ y.strikeTime = x.strikeTime ∧ y.holdGrace = x.holdGrace ∧ y.mode = x.mode ∧
        y.doorOpen = x.doorOpen ∧ y.monitor = .idle ∧ y.strikeEnd = none ∧ y.passageSeen = false ∧
        y.mark.map (·.cmd) = if x.station.isSome = true ∧ x.mode = .free then some .holdRelease else none) ∧
      (∀ p, p < 4 →
        let x := s.pump p
        t.pump p =
          match x.state with
          | .ready | .fuelling | .stopping => { x with state := .suspect, suspendedFrom := some x.state, suspectSince := some s.clock }
          | .idle => { x with state := .offline }
          | _ => x) ∧
      ∀ a, a < 6 →
        let A := s.arm a
        let B := t.arm a
        (B.period = A.period ∧ B.slotInterval = A.slotInterval ∧ B.window = A.window ∧ B.silence = A.silence ∧ B.anchor = A.anchor ∧
          B.autoRestore = A.autoRestore ∧ B.checksum = A.checksum ∧ B.inFlight = none) ∧
        (∀ d, t.row a d = s.row a d ∧ t.post? a d =
          (s.post? a d).map (fun p => { p with
            det0 := { run := 0, sum := 0, count := 0, latch := false, last := none }
            det1 := { run := 0, sum := 0, count := 0, latch := false, last := none } })) ∧
        B.pointer = (((List.range 30).map (· + 1)).filter (fun d => (s.row a d).kind != .none)).headD 1 ∧
        (A.state = .disabled → B.state = .disabled ∧ B.errors = A.errors ∧ ∀ d, (t.slot a d).station = (s.slot a d).station) ∧
        (A.state ≠ .disabled →
          B.state = .active ∧ B.errors = 0 ∧ B.probes = 0 ∧ B.sweepWaiting = false ∧ B.pollDue = false ∧
          B.periodRunning = some A.period ∧ B.slotRunning = some A.slotInterval ∧
          ∀ d, (t.slot a d).station = (s.slot a d).station.map (fun _ => { link := .unseen, missed := 0 }))

/-- CLOCK-ADVANCE (R211): the clock after 4,294,967,295 is 0, the silence count runs in CONNECTED (R203), and a multiple of 86,400 is the
midnight event (R25). The expiries the new time brings are commands of their own (log entry 2). -/
def Obligations.ClockAdvanceCountsAndMakesMidnight : Prop :=
  ∀ s : State, s.clock ≤ 4294967295 →
    let now := (s.clock + 1) % 4294967296
    ∃ t : State, exec .clockAdvance s = .next t.sendNext ∧ t.clock = now ∧
      t.trunk = { s.trunk with
        silenceCount := if s.trunk.link = .connected then s.trunk.silenceCount + 1 else s.trunk.silenceCount } ∧
      (∀ n, t.berth n =
        if now % 86400 = 0 ∧ (s.berth n).state = .occupied ∧ (s.berth n).nightlyFee = true then
          { s.berth n with feesPending := if 255 ≤ (s.berth n).feesPending then 255 else (s.berth n).feesPending + 1 }
        else s.berth n) ∧
      t.accounts = s.accounts ∧ t.gates = s.gates ∧ t.pumps = s.pumps ∧ t.arms = s.arms ∧ t.presence = s.presence ∧
      t.notices = s.notices

/-- The frames that carry no request, and the silence of the trunk (R200, R201, R203): a valid frame that is no request acts on the link
alone; an unknown kind is answered UNKNOWN; after a bad or unfinished frame the port looks for the next start marker from the byte behind the
discarded one's, takes each whole frame it finds and keeps one that is not whole; and the count at the silence time makes the link AUTONOMOUS
(it acts where the count has come there, log entry 2). That the frames found are taken in the event of the discard, and that an unfinished
one is then kept, is the model's choice (log entry 44); that a valid frame empties the kept bytes (log entry 15) and that bytes which are no
bad or no unfinished frame change nothing (log entry 28) are too. -/
def Obligations.FramesThatAreNoRequests : Prop :=
  (∀ (s : State) (tag kind : Nat), exec (.nonRequestFrame tag kind) s = .next
    ({ s with trunk := { s.trunk with link := .connected, silenceCount := 0, rx := [] } }).sendNext) ∧
  (∀ (s : State) (tag kind : Nat), s.Room →
    exec (.unknownRequest tag kind) s = .next (s.frameTaken.answered tag kind .unknown .empty)) ∧
  (∀ s : State, exec (.interByteTimeout [0xC3#8]) s = .next { s with trunk := { s.trunk with rx := [] } }) ∧
  (∀ (s : State) (marker len : Byte) (rest : List Byte),
    let bytes := marker :: len :: rest
    let sized : Prop := 2 ≤ len.toNat ∧ len.toNat ≤ 242
    (marker = 0xC3#8 → ¬ sized →
      exec (.discardedFrame bytes) s = receive (len :: rest) s ∧ exec (.interByteTimeout bytes) s = .next s) ∧
    (marker = 0xC3#8 → sized → rest.length = len.toNat + 2 →
      exec (.interByteTimeout bytes) s = .next s ∧
      exec (.discardedFrame bytes) s =
        if natAt rest len.toNat 2 = (crc (len :: rest.take len.toNat)).toNat then .next s else receive (len :: rest) s) ∧
    (marker = 0xC3#8 → sized → rest.length < len.toNat + 2 →
      exec (.discardedFrame bytes) s = .next s ∧ exec (.interByteTimeout bytes) s = receive (len :: rest) s)) ∧
  (∀ (s : State) (before : List Byte), 0xC3#8 ∉ before →
    let kept (bs : List Byte) : State := { s with trunk := { s.trunk with rx := bs } }
    receive before s = .next (kept []) ∧ receive (before ++ [0xC3#8]) s = .next (kept [0xC3#8]) ∧
    ∀ (len : Byte) (rest : List Byte),
      let found := before ++ 0xC3#8 :: len :: rest
      let sized : Prop := 2 ≤ len.toNat ∧ len.toNat ≤ 242
      let frame := 0xC3#8 :: len :: rest.take (len.toNat + 2)
      (¬ sized → receive found s = receive (len :: rest) s) ∧
      (sized → rest.length < len.toNat + 2 → receive found s = .next (kept (0xC3#8 :: len :: rest))) ∧
      (sized → len.toNat + 2 ≤ rest.length →
        (natAt rest len.toNat 2 ≠ (crc (len :: rest.take len.toNat)).toNat → receive found s = receive (len :: rest) s) ∧
        (natAt rest len.toNat 2 = (crc (len :: rest.take len.toNat)).toNat →
          ∃ (c : Instr) (t : State), decodeFrame frame = some c ∧ exec c s = .next t ∧
            receive found s = receive (rest.drop (len.toNat + 2)) t))) ∧
  ∀ s : State,
    exec .trunkSilenceExpiry s = .next (State.sendNext (
      if s.trunk.link = .connected ∧ s.trunk.silenceTime ≤ s.trunk.silenceCount then
        (s.setTrunk { s.trunk with link := .autonomous }).post (.autonomous s.trunk.silenceTime)
      else s))

/-- A request that finds the reply list full is not taken and is counted, up to 65,535; one whose body does not suit its kind is
answered RANGE and changes nothing else (R201). For every command that carries a request. That a request counted and not taken empties the
kept bytes, as every valid frame does, is the model's choice (log entry 15). -/
def Obligations.RequestsNotJudgedAreDiscardedOrRefused : Prop :=
  ∀ (c : Instr) (s : State),
    (∀ tag, requestTag c = some tag → ¬ s.Room →
      let counted : State := { s with trunk := { s.trunk with
        link := .connected, silenceCount := 0, rx := [], discarded := min (s.trunk.discarded + 1) 65535 } }
      exec c s = .next counted.sendNext ∨ exec c s = .next counted.arbitrateAll.sendNext) ∧
    ∀ tag code, unsuitedRequest c = some (tag, code) → s.Room →
      exec c s = .next (s.frameTaken.answered tag code .range .empty) ∨
      exec c s = .next (s.frameTaken.answeredBus tag code .range .empty)

/-- The send side (R202): while a frame is being sent it chooses nothing; free, it takes the oldest made reply, waits on a withheld one,
and otherwise sends the notice at the head of the queue while the link is CONNECTED. TRUNK_FRAME_SENT frees it. -/
def Obligations.SendSideChoosesTheNextFrame : Prop :=
  ∀ s : State,
    (exec .trunkFrameSent s = .next ({ s with trunk := { s.trunk with sending := none } }).sendNext) ∧
    (∀ f, s.trunk.sending = some f → s.sendNext = s) ∧
    (∀ r rs, s.trunk.sending = none → s.trunk.replies = r :: rs →
      s.sendNext = { s with trunk := { s.trunk with sending := some (.reply r), replies := rs } }) ∧
    (∀ q ∈ s.relays, s.trunk.sending = none → s.trunk.replies = [] → q.wait = true → s.sendNext = s) ∧
    (s.trunk.sending = none → s.trunk.replies = [] → (∀ q ∈ s.relays, q.wait = false) →
      (s.trunk.link ≠ .connected → s.sendNext = s) ∧
      (s.notices.queue = [] → s.sendNext = s) ∧
      ∀ n ns, s.trunk.link = .connected → s.notices.queue = n :: ns →
        s.sendNext = { s with trunk := { s.trunk with sending := some (.notice n) }, notices := { s.notices with queue := ns } })

/-- Posting a notice (R213): the stamp, the number's advance for kept and dropped alike, and the overflow rule of a queue of 64. -/
def Obligations.NoticeQueueOverflow : Prop :=
  ∀ (q : NoticeQueue) (now : Nat) (b : NoticeBody), q.queue.length ≤ 64 → q.next ≤ 65535 →
    let n : Notice := { number := q.next, time := now, body := b }
    let next := if q.next = 65535 then 0 else q.next + 1
    let dropped := min (q.dropped + 1) 65535
    (q.post now b).queue.length ≤ 64 ∧ (q.post now b).next = next ∧
    (q.queue.length < 64 → q.post now b = { q with queue := q.queue ++ [n], next := next }) ∧
    (q.queue.length = 64 → b.cls = .routine → q.post now b = { q with next := next, dropped := dropped }) ∧
    (∀ l x r, q.queue.length = 64 → b.cls = .urgent → q.queue = l ++ x :: r → (∀ y ∈ l, y.body.cls = .urgent) →
      x.body.cls = .routine → q.post now b = { queue := l ++ r ++ [n], next := next, dropped := dropped }) ∧
    (∀ x r, q.queue.length = 64 → b.cls = .urgent → q.queue = x :: r → (∀ y ∈ q.queue, y.body.cls = .urgent) →
      q.post now b = { queue := r ++ [n], next := next, dropped := dropped })

/-! ### The laws of the part -/

/-- Every law of Safety.lean holds right after reset. -/
def Obligations.EveryLawHoldsAtReset : Prop :=
  Law .settings State.reset ∧ Law .berths State.reset ∧ Law .accounts State.reset ∧ Law .presence State.reset ∧
  Law .points State.reset ∧ Law .arms State.reset ∧ Law .pumps State.reset ∧ Law .queues State.reset ∧ Law .rows State.reset ∧
  Law .occupants State.reset ∧ Law .holds State.reset

/-- Every step, from any state, keeps the ranges of the settings, those of the arms and the pontoons included, the clock and the pointers,
with the waiting commands well formed, and the bounds of the notice queue, the reply list and their counts (R19, R20, R82, R136, R148,
R185, R198, R201, R203, R209, R211, R213). -/
def Obligations.EveryStepKeepsSettingsAndQueues : Prop :=
  ∀ s t : State, step s = .next t → (Law .settings s → Law .settings t) ∧ (Law .queues s → Law .queues t)

/-- Every step, from any state, keeps the berth records' law (R3, R4), the accounts' law (R28, R29, R36), the law that the account a berth
names is not CLOSED (R4), and the law that an account's hold list holds exactly one hold for each ACCOUNT sale on it whose pump is in READY,
FUELLING, STOPPING or SUSPECT, and no other hold (R36), with what of the pumps and their stations it rests on. -/
def Obligations.EveryStepKeepsBerthsAndAccounts : Prop :=
  ∀ s t : State, step s = .next t →
    (Law .berths s → Law .berths t) ∧ (Law .accounts s → Law .accounts t) ∧ (Law .occupants s → Law .occupants t) ∧
    (Law .holds s → Law .holds t)

/-- Every step, from any state, keeps the presence law (R80) and the law that no two live rows name one berth, gate or pump (R177). -/
def Obligations.EveryStepKeepsPresenceAndRows : Prop :=
  ∀ s t : State, step s = .next t → (Law .presence s → Law .presence t) ∧ (Law .rows s → Law .rows t)

/-- Every step, from any state, keeps the service points' law (R89, R90), the arms' law (R180 to R184) and the pumps' law (R148, R162): in it,
that every sale's preset and the preset's amount are within their limits (R155), and that every sale's amount, a completed one's too, is
that of its volume at the captured price (R157, R161). -/
def Obligations.EveryStepKeepsPointsArmsAndPumps : Prop :=
  ∀ s t : State, step s = .next t →
    (Law .points s → Law .points t) ∧ (Law .arms s → Law .arms t) ∧ (Law .pumps s → Law .pumps t)
end

