-- ==== Sys2Proof/Laws/State.lean ====
section
/-! SUPPORT. What each record update of the state leaves in each field: one lemma for each field and update. -/

namespace Sys2Proof.Machine

/-! ### `setBerth` -/

@[simp] theorem State.setBerth_pending (s : State) (n : Nat) (b : Berth) : (s.setBerth n b).pending = s.pending := rfl
@[simp] theorem State.setBerth_berths (s : State) (n : Nat) (b : Berth) : (s.setBerth n b).berths = numSet s.berths n b := rfl
@[simp] theorem State.setBerth_grace (s : State) (n : Nat) (b : Berth) : (s.setBerth n b).grace = s.grace := rfl
@[simp] theorem State.setBerth_scanPtr (s : State) (n : Nat) (b : Berth) : (s.setBerth n b).scanPtr = s.scanPtr := rfl
@[simp] theorem State.setBerth_accounts (s : State) (n : Nat) (b : Berth) : (s.setBerth n b).accounts = s.accounts := rfl
@[simp] theorem State.setBerth_creds (s : State) (n : Nat) (b : Berth) : (s.setBerth n b).creds = s.creds := rfl
@[simp] theorem State.setBerth_gates (s : State) (n : Nat) (b : Berth) : (s.setBerth n b).gates = s.gates := rfl
@[simp] theorem State.setBerth_pontoons (s : State) (n : Nat) (b : Berth) : (s.setBerth n b).pontoons = s.pontoons := rfl
@[simp] theorem State.setBerth_presence (s : State) (n : Nat) (b : Berth) : (s.setBerth n b).presence = s.presence := rfl
@[simp] theorem State.setBerth_arms (s : State) (n : Nat) (b : Berth) : (s.setBerth n b).arms = s.arms := rfl
@[simp] theorem State.setBerth_rates (s : State) (n : Nat) (b : Berth) : (s.setBerth n b).rates = s.rates := rfl
@[simp] theorem State.setBerth_tripDelay (s : State) (n : Nat) (b : Berth) : (s.setBerth n b).tripDelay = s.tripDelay := rfl
@[simp] theorem State.setBerth_pumps (s : State) (n : Nat) (b : Berth) : (s.setBerth n b).pumps = s.pumps := rfl
@[simp] theorem State.setBerth_readyTimeout (s : State) (n : Nat) (b : Berth) : (s.setBerth n b).readyTimeout = s.readyTimeout :=
    rfl
@[simp] theorem State.setBerth_linkLossWindow (s : State) (n : Nat) (b : Berth) : (s.setBerth n b).linkLossWindow = s.linkLossWindow :=
    rfl
@[simp] theorem State.setBerth_refusals (s : State) (n : Nat) (b : Berth) : (s.setBerth n b).refusals = s.refusals := rfl
@[simp] theorem State.setBerth_relays (s : State) (n : Nat) (b : Berth) : (s.setBerth n b).relays = s.relays := rfl
@[simp] theorem State.setBerth_trunk (s : State) (n : Nat) (b : Berth) : (s.setBerth n b).trunk = s.trunk := rfl
@[simp] theorem State.setBerth_staging (s : State) (n : Nat) (b : Berth) : (s.setBerth n b).staging = s.staging := rfl
@[simp] theorem State.setBerth_scan (s : State) (n : Nat) (b : Berth) : (s.setBerth n b).scan = s.scan := rfl
@[simp] theorem State.setBerth_clock (s : State) (n : Nat) (b : Berth) : (s.setBerth n b).clock = s.clock := rfl
@[simp] theorem State.setBerth_notices (s : State) (n : Nat) (b : Berth) : (s.setBerth n b).notices = s.notices := rfl

/-! ### `setAccount` -/

@[simp] theorem State.setAccount_pending (s : State) (n : Nat) (x : Account) : (s.setAccount n x).pending = s.pending := rfl
@[simp] theorem State.setAccount_berths (s : State) (n : Nat) (x : Account) : (s.setAccount n x).berths = s.berths := rfl
@[simp] theorem State.setAccount_grace (s : State) (n : Nat) (x : Account) : (s.setAccount n x).grace = s.grace := rfl
@[simp] theorem State.setAccount_scanPtr (s : State) (n : Nat) (x : Account) : (s.setAccount n x).scanPtr = s.scanPtr := rfl
@[simp] theorem State.setAccount_accounts (s : State) (n : Nat) (x : Account) : (s.setAccount n x).accounts = numSet s.accounts n x :=
    rfl
@[simp] theorem State.setAccount_creds (s : State) (n : Nat) (x : Account) : (s.setAccount n x).creds = s.creds := rfl
@[simp] theorem State.setAccount_gates (s : State) (n : Nat) (x : Account) : (s.setAccount n x).gates = s.gates := rfl
@[simp] theorem State.setAccount_pontoons (s : State) (n : Nat) (x : Account) : (s.setAccount n x).pontoons = s.pontoons := rfl
@[simp] theorem State.setAccount_presence (s : State) (n : Nat) (x : Account) : (s.setAccount n x).presence = s.presence := rfl
@[simp] theorem State.setAccount_arms (s : State) (n : Nat) (x : Account) : (s.setAccount n x).arms = s.arms := rfl
@[simp] theorem State.setAccount_rates (s : State) (n : Nat) (x : Account) : (s.setAccount n x).rates = s.rates := rfl
@[simp] theorem State.setAccount_tripDelay (s : State) (n : Nat) (x : Account) : (s.setAccount n x).tripDelay = s.tripDelay := rfl
@[simp] theorem State.setAccount_pumps (s : State) (n : Nat) (x : Account) : (s.setAccount n x).pumps = s.pumps := rfl
@[simp] theorem State.setAccount_readyTimeout (s : State) (n : Nat) (x : Account) : (s.setAccount n x).readyTimeout = s.readyTimeout :=
    rfl
@[simp] theorem State.setAccount_linkLossWindow (s : State) (n : Nat) (x : Account) : (s.setAccount n x).linkLossWindow = s.linkLossWindow :=
    rfl
@[simp] theorem State.setAccount_refusals (s : State) (n : Nat) (x : Account) : (s.setAccount n x).refusals = s.refusals := rfl
@[simp] theorem State.setAccount_relays (s : State) (n : Nat) (x : Account) : (s.setAccount n x).relays = s.relays := rfl
@[simp] theorem State.setAccount_trunk (s : State) (n : Nat) (x : Account) : (s.setAccount n x).trunk = s.trunk := rfl
@[simp] theorem State.setAccount_staging (s : State) (n : Nat) (x : Account) : (s.setAccount n x).staging = s.staging := rfl
@[simp] theorem State.setAccount_scan (s : State) (n : Nat) (x : Account) : (s.setAccount n x).scan = s.scan := rfl
@[simp] theorem State.setAccount_clock (s : State) (n : Nat) (x : Account) : (s.setAccount n x).clock = s.clock := rfl
@[simp] theorem State.setAccount_notices (s : State) (n : Nat) (x : Account) : (s.setAccount n x).notices = s.notices := rfl

/-! ### `setGate` -/

@[simp] theorem State.setGate_pending (s : State) (n : Nat) (x : Gate) : (s.setGate n x).pending = s.pending := rfl
@[simp] theorem State.setGate_berths (s : State) (n : Nat) (x : Gate) : (s.setGate n x).berths = s.berths := rfl
@[simp] theorem State.setGate_grace (s : State) (n : Nat) (x : Gate) : (s.setGate n x).grace = s.grace := rfl
@[simp] theorem State.setGate_scanPtr (s : State) (n : Nat) (x : Gate) : (s.setGate n x).scanPtr = s.scanPtr := rfl
@[simp] theorem State.setGate_accounts (s : State) (n : Nat) (x : Gate) : (s.setGate n x).accounts = s.accounts := rfl
@[simp] theorem State.setGate_creds (s : State) (n : Nat) (x : Gate) : (s.setGate n x).creds = s.creds := rfl
@[simp] theorem State.setGate_gates (s : State) (n : Nat) (x : Gate) : (s.setGate n x).gates = tabSet s.gates n x := rfl
@[simp] theorem State.setGate_pontoons (s : State) (n : Nat) (x : Gate) : (s.setGate n x).pontoons = s.pontoons := rfl
@[simp] theorem State.setGate_presence (s : State) (n : Nat) (x : Gate) : (s.setGate n x).presence = s.presence := rfl
@[simp] theorem State.setGate_arms (s : State) (n : Nat) (x : Gate) : (s.setGate n x).arms = s.arms := rfl
@[simp] theorem State.setGate_rates (s : State) (n : Nat) (x : Gate) : (s.setGate n x).rates = s.rates := rfl
@[simp] theorem State.setGate_tripDelay (s : State) (n : Nat) (x : Gate) : (s.setGate n x).tripDelay = s.tripDelay := rfl
@[simp] theorem State.setGate_pumps (s : State) (n : Nat) (x : Gate) : (s.setGate n x).pumps = s.pumps := rfl
@[simp] theorem State.setGate_readyTimeout (s : State) (n : Nat) (x : Gate) : (s.setGate n x).readyTimeout = s.readyTimeout := rfl
@[simp] theorem State.setGate_linkLossWindow (s : State) (n : Nat) (x : Gate) : (s.setGate n x).linkLossWindow = s.linkLossWindow :=
    rfl
@[simp] theorem State.setGate_refusals (s : State) (n : Nat) (x : Gate) : (s.setGate n x).refusals = s.refusals := rfl
@[simp] theorem State.setGate_relays (s : State) (n : Nat) (x : Gate) : (s.setGate n x).relays = s.relays := rfl
@[simp] theorem State.setGate_trunk (s : State) (n : Nat) (x : Gate) : (s.setGate n x).trunk = s.trunk := rfl
@[simp] theorem State.setGate_staging (s : State) (n : Nat) (x : Gate) : (s.setGate n x).staging = s.staging := rfl
@[simp] theorem State.setGate_scan (s : State) (n : Nat) (x : Gate) : (s.setGate n x).scan = s.scan := rfl
@[simp] theorem State.setGate_clock (s : State) (n : Nat) (x : Gate) : (s.setGate n x).clock = s.clock := rfl
@[simp] theorem State.setGate_notices (s : State) (n : Nat) (x : Gate) : (s.setGate n x).notices = s.notices := rfl

/-! ### `setPontoon` -/

@[simp] theorem State.setPontoon_pending (s : State) (n : Nat) (x : Pontoon) : (s.setPontoon n x).pending = s.pending := rfl
@[simp] theorem State.setPontoon_berths (s : State) (n : Nat) (x : Pontoon) : (s.setPontoon n x).berths = s.berths := rfl
@[simp] theorem State.setPontoon_grace (s : State) (n : Nat) (x : Pontoon) : (s.setPontoon n x).grace = s.grace := rfl
@[simp] theorem State.setPontoon_scanPtr (s : State) (n : Nat) (x : Pontoon) : (s.setPontoon n x).scanPtr = s.scanPtr := rfl
@[simp] theorem State.setPontoon_accounts (s : State) (n : Nat) (x : Pontoon) : (s.setPontoon n x).accounts = s.accounts := rfl
@[simp] theorem State.setPontoon_creds (s : State) (n : Nat) (x : Pontoon) : (s.setPontoon n x).creds = s.creds := rfl
@[simp] theorem State.setPontoon_gates (s : State) (n : Nat) (x : Pontoon) : (s.setPontoon n x).gates = s.gates := rfl
@[simp] theorem State.setPontoon_pontoons (s : State) (n : Nat) (x : Pontoon) : (s.setPontoon n x).pontoons = tabSet s.pontoons n x :=
    rfl
@[simp] theorem State.setPontoon_presence (s : State) (n : Nat) (x : Pontoon) : (s.setPontoon n x).presence = s.presence := rfl
@[simp] theorem State.setPontoon_arms (s : State) (n : Nat) (x : Pontoon) : (s.setPontoon n x).arms = s.arms := rfl
@[simp] theorem State.setPontoon_rates (s : State) (n : Nat) (x : Pontoon) : (s.setPontoon n x).rates = s.rates := rfl
@[simp] theorem State.setPontoon_tripDelay (s : State) (n : Nat) (x : Pontoon) : (s.setPontoon n x).tripDelay = s.tripDelay := rfl
@[simp] theorem State.setPontoon_pumps (s : State) (n : Nat) (x : Pontoon) : (s.setPontoon n x).pumps = s.pumps := rfl
@[simp] theorem State.setPontoon_readyTimeout (s : State) (n : Nat) (x : Pontoon) : (s.setPontoon n x).readyTimeout = s.readyTimeout :=
    rfl
@[simp] theorem State.setPontoon_linkLossWindow (s : State) (n : Nat) (x : Pontoon) : (s.setPontoon n x).linkLossWindow = s.linkLossWindow :=
    rfl
@[simp] theorem State.setPontoon_refusals (s : State) (n : Nat) (x : Pontoon) : (s.setPontoon n x).refusals = s.refusals := rfl
@[simp] theorem State.setPontoon_relays (s : State) (n : Nat) (x : Pontoon) : (s.setPontoon n x).relays = s.relays := rfl
@[simp] theorem State.setPontoon_trunk (s : State) (n : Nat) (x : Pontoon) : (s.setPontoon n x).trunk = s.trunk := rfl
@[simp] theorem State.setPontoon_staging (s : State) (n : Nat) (x : Pontoon) : (s.setPontoon n x).staging = s.staging := rfl
@[simp] theorem State.setPontoon_scan (s : State) (n : Nat) (x : Pontoon) : (s.setPontoon n x).scan = s.scan := rfl
@[simp] theorem State.setPontoon_clock (s : State) (n : Nat) (x : Pontoon) : (s.setPontoon n x).clock = s.clock := rfl
@[simp] theorem State.setPontoon_notices (s : State) (n : Nat) (x : Pontoon) : (s.setPontoon n x).notices = s.notices := rfl

/-! ### `setPresence` -/

@[simp] theorem State.setPresence_pending (s : State) (l : List Presence) : (s.setPresence l).pending = s.pending := rfl
@[simp] theorem State.setPresence_berths (s : State) (l : List Presence) : (s.setPresence l).berths = s.berths := rfl
@[simp] theorem State.setPresence_grace (s : State) (l : List Presence) : (s.setPresence l).grace = s.grace := rfl
@[simp] theorem State.setPresence_scanPtr (s : State) (l : List Presence) : (s.setPresence l).scanPtr = s.scanPtr := rfl
@[simp] theorem State.setPresence_accounts (s : State) (l : List Presence) : (s.setPresence l).accounts = s.accounts := rfl
@[simp] theorem State.setPresence_creds (s : State) (l : List Presence) : (s.setPresence l).creds = s.creds := rfl
@[simp] theorem State.setPresence_gates (s : State) (l : List Presence) : (s.setPresence l).gates = s.gates := rfl
@[simp] theorem State.setPresence_pontoons (s : State) (l : List Presence) : (s.setPresence l).pontoons = s.pontoons := rfl
@[simp] theorem State.setPresence_presence (s : State) (l : List Presence) : (s.setPresence l).presence = l := rfl
@[simp] theorem State.setPresence_arms (s : State) (l : List Presence) : (s.setPresence l).arms = s.arms := rfl
@[simp] theorem State.setPresence_rates (s : State) (l : List Presence) : (s.setPresence l).rates = s.rates := rfl
@[simp] theorem State.setPresence_tripDelay (s : State) (l : List Presence) : (s.setPresence l).tripDelay = s.tripDelay := rfl
@[simp] theorem State.setPresence_pumps (s : State) (l : List Presence) : (s.setPresence l).pumps = s.pumps := rfl
@[simp] theorem State.setPresence_readyTimeout (s : State) (l : List Presence) : (s.setPresence l).readyTimeout = s.readyTimeout :=
    rfl
@[simp] theorem State.setPresence_linkLossWindow (s : State) (l : List Presence) : (s.setPresence l).linkLossWindow = s.linkLossWindow :=
    rfl
@[simp] theorem State.setPresence_refusals (s : State) (l : List Presence) : (s.setPresence l).refusals = s.refusals := rfl
@[simp] theorem State.setPresence_relays (s : State) (l : List Presence) : (s.setPresence l).relays = s.relays := rfl
@[simp] theorem State.setPresence_trunk (s : State) (l : List Presence) : (s.setPresence l).trunk = s.trunk := rfl
@[simp] theorem State.setPresence_staging (s : State) (l : List Presence) : (s.setPresence l).staging = s.staging := rfl
@[simp] theorem State.setPresence_scan (s : State) (l : List Presence) : (s.setPresence l).scan = s.scan := rfl
@[simp] theorem State.setPresence_clock (s : State) (l : List Presence) : (s.setPresence l).clock = s.clock := rfl
@[simp] theorem State.setPresence_notices (s : State) (l : List Presence) : (s.setPresence l).notices = s.notices := rfl

/-! ### `setPump` -/

@[simp] theorem State.setPump_pending (s : State) (n : Nat) (x : Pump) : (s.setPump n x).pending = s.pending := rfl
@[simp] theorem State.setPump_berths (s : State) (n : Nat) (x : Pump) : (s.setPump n x).berths = s.berths := rfl
@[simp] theorem State.setPump_grace (s : State) (n : Nat) (x : Pump) : (s.setPump n x).grace = s.grace := rfl
@[simp] theorem State.setPump_scanPtr (s : State) (n : Nat) (x : Pump) : (s.setPump n x).scanPtr = s.scanPtr := rfl
@[simp] theorem State.setPump_accounts (s : State) (n : Nat) (x : Pump) : (s.setPump n x).accounts = s.accounts := rfl
@[simp] theorem State.setPump_creds (s : State) (n : Nat) (x : Pump) : (s.setPump n x).creds = s.creds := rfl
@[simp] theorem State.setPump_gates (s : State) (n : Nat) (x : Pump) : (s.setPump n x).gates = s.gates := rfl
@[simp] theorem State.setPump_pontoons (s : State) (n : Nat) (x : Pump) : (s.setPump n x).pontoons = s.pontoons := rfl
@[simp] theorem State.setPump_presence (s : State) (n : Nat) (x : Pump) : (s.setPump n x).presence = s.presence := rfl
@[simp] theorem State.setPump_arms (s : State) (n : Nat) (x : Pump) : (s.setPump n x).arms = s.arms := rfl
@[simp] theorem State.setPump_rates (s : State) (n : Nat) (x : Pump) : (s.setPump n x).rates = s.rates := rfl
@[simp] theorem State.setPump_tripDelay (s : State) (n : Nat) (x : Pump) : (s.setPump n x).tripDelay = s.tripDelay := rfl
@[simp] theorem State.setPump_pumps (s : State) (n : Nat) (x : Pump) : (s.setPump n x).pumps = tabSet s.pumps n x := rfl
@[simp] theorem State.setPump_readyTimeout (s : State) (n : Nat) (x : Pump) : (s.setPump n x).readyTimeout = s.readyTimeout := rfl
@[simp] theorem State.setPump_linkLossWindow (s : State) (n : Nat) (x : Pump) : (s.setPump n x).linkLossWindow = s.linkLossWindow :=
    rfl
@[simp] theorem State.setPump_refusals (s : State) (n : Nat) (x : Pump) : (s.setPump n x).refusals = s.refusals := rfl
@[simp] theorem State.setPump_relays (s : State) (n : Nat) (x : Pump) : (s.setPump n x).relays = s.relays := rfl
@[simp] theorem State.setPump_trunk (s : State) (n : Nat) (x : Pump) : (s.setPump n x).trunk = s.trunk := rfl
@[simp] theorem State.setPump_staging (s : State) (n : Nat) (x : Pump) : (s.setPump n x).staging = s.staging := rfl
@[simp] theorem State.setPump_scan (s : State) (n : Nat) (x : Pump) : (s.setPump n x).scan = s.scan := rfl
@[simp] theorem State.setPump_clock (s : State) (n : Nat) (x : Pump) : (s.setPump n x).clock = s.clock := rfl
@[simp] theorem State.setPump_notices (s : State) (n : Nat) (x : Pump) : (s.setPump n x).notices = s.notices := rfl

/-! ### `setArm` -/

@[simp] theorem State.setArm_pending (s : State) (n : Nat) (x : Arm) : (s.setArm n x).pending = s.pending := rfl
@[simp] theorem State.setArm_berths (s : State) (n : Nat) (x : Arm) : (s.setArm n x).berths = s.berths := rfl
@[simp] theorem State.setArm_grace (s : State) (n : Nat) (x : Arm) : (s.setArm n x).grace = s.grace := rfl
@[simp] theorem State.setArm_scanPtr (s : State) (n : Nat) (x : Arm) : (s.setArm n x).scanPtr = s.scanPtr := rfl
@[simp] theorem State.setArm_accounts (s : State) (n : Nat) (x : Arm) : (s.setArm n x).accounts = s.accounts := rfl
@[simp] theorem State.setArm_creds (s : State) (n : Nat) (x : Arm) : (s.setArm n x).creds = s.creds := rfl
@[simp] theorem State.setArm_gates (s : State) (n : Nat) (x : Arm) : (s.setArm n x).gates = s.gates := rfl
@[simp] theorem State.setArm_pontoons (s : State) (n : Nat) (x : Arm) : (s.setArm n x).pontoons = s.pontoons := rfl
@[simp] theorem State.setArm_presence (s : State) (n : Nat) (x : Arm) : (s.setArm n x).presence = s.presence := rfl
@[simp] theorem State.setArm_arms (s : State) (n : Nat) (x : Arm) : (s.setArm n x).arms = tabSet s.arms n x := rfl
@[simp] theorem State.setArm_rates (s : State) (n : Nat) (x : Arm) : (s.setArm n x).rates = s.rates := rfl
@[simp] theorem State.setArm_tripDelay (s : State) (n : Nat) (x : Arm) : (s.setArm n x).tripDelay = s.tripDelay := rfl
@[simp] theorem State.setArm_pumps (s : State) (n : Nat) (x : Arm) : (s.setArm n x).pumps = s.pumps := rfl
@[simp] theorem State.setArm_readyTimeout (s : State) (n : Nat) (x : Arm) : (s.setArm n x).readyTimeout = s.readyTimeout := rfl
@[simp] theorem State.setArm_linkLossWindow (s : State) (n : Nat) (x : Arm) : (s.setArm n x).linkLossWindow = s.linkLossWindow :=
    rfl
@[simp] theorem State.setArm_refusals (s : State) (n : Nat) (x : Arm) : (s.setArm n x).refusals = s.refusals := rfl
@[simp] theorem State.setArm_relays (s : State) (n : Nat) (x : Arm) : (s.setArm n x).relays = s.relays := rfl
@[simp] theorem State.setArm_trunk (s : State) (n : Nat) (x : Arm) : (s.setArm n x).trunk = s.trunk := rfl
@[simp] theorem State.setArm_staging (s : State) (n : Nat) (x : Arm) : (s.setArm n x).staging = s.staging := rfl
@[simp] theorem State.setArm_scan (s : State) (n : Nat) (x : Arm) : (s.setArm n x).scan = s.scan := rfl
@[simp] theorem State.setArm_clock (s : State) (n : Nat) (x : Arm) : (s.setArm n x).clock = s.clock := rfl
@[simp] theorem State.setArm_notices (s : State) (n : Nat) (x : Arm) : (s.setArm n x).notices = s.notices := rfl

/-! ### `setRates` -/

@[simp] theorem State.setRates_pending (s : State) (r : RateTable) : (s.setRates r).pending = s.pending := rfl
@[simp] theorem State.setRates_berths (s : State) (r : RateTable) : (s.setRates r).berths = s.berths := rfl
@[simp] theorem State.setRates_grace (s : State) (r : RateTable) : (s.setRates r).grace = s.grace := rfl
@[simp] theorem State.setRates_scanPtr (s : State) (r : RateTable) : (s.setRates r).scanPtr = s.scanPtr := rfl
@[simp] theorem State.setRates_accounts (s : State) (r : RateTable) : (s.setRates r).accounts = s.accounts := rfl
@[simp] theorem State.setRates_creds (s : State) (r : RateTable) : (s.setRates r).creds = s.creds := rfl
@[simp] theorem State.setRates_gates (s : State) (r : RateTable) : (s.setRates r).gates = s.gates := rfl
@[simp] theorem State.setRates_pontoons (s : State) (r : RateTable) : (s.setRates r).pontoons = s.pontoons := rfl
@[simp] theorem State.setRates_presence (s : State) (r : RateTable) : (s.setRates r).presence = s.presence := rfl
@[simp] theorem State.setRates_arms (s : State) (r : RateTable) : (s.setRates r).arms = s.arms := rfl
@[simp] theorem State.setRates_rates (s : State) (r : RateTable) : (s.setRates r).rates = r := rfl
@[simp] theorem State.setRates_tripDelay (s : State) (r : RateTable) : (s.setRates r).tripDelay = s.tripDelay := rfl
@[simp] theorem State.setRates_pumps (s : State) (r : RateTable) : (s.setRates r).pumps = s.pumps := rfl
@[simp] theorem State.setRates_readyTimeout (s : State) (r : RateTable) : (s.setRates r).readyTimeout = s.readyTimeout := rfl
@[simp] theorem State.setRates_linkLossWindow (s : State) (r : RateTable) : (s.setRates r).linkLossWindow = s.linkLossWindow :=
    rfl
@[simp] theorem State.setRates_refusals (s : State) (r : RateTable) : (s.setRates r).refusals = s.refusals := rfl
@[simp] theorem State.setRates_relays (s : State) (r : RateTable) : (s.setRates r).relays = s.relays := rfl
@[simp] theorem State.setRates_trunk (s : State) (r : RateTable) : (s.setRates r).trunk = s.trunk := rfl
@[simp] theorem State.setRates_staging (s : State) (r : RateTable) : (s.setRates r).staging = s.staging := rfl
@[simp] theorem State.setRates_scan (s : State) (r : RateTable) : (s.setRates r).scan = s.scan := rfl
@[simp] theorem State.setRates_clock (s : State) (r : RateTable) : (s.setRates r).clock = s.clock := rfl
@[simp] theorem State.setRates_notices (s : State) (r : RateTable) : (s.setRates r).notices = s.notices := rfl

/-! ### `setCreds` -/

@[simp] theorem State.setCreds_pending (s : State) (c : CredTable) : (s.setCreds c).pending = s.pending := rfl
@[simp] theorem State.setCreds_berths (s : State) (c : CredTable) : (s.setCreds c).berths = s.berths := rfl
@[simp] theorem State.setCreds_grace (s : State) (c : CredTable) : (s.setCreds c).grace = s.grace := rfl
@[simp] theorem State.setCreds_scanPtr (s : State) (c : CredTable) : (s.setCreds c).scanPtr = s.scanPtr := rfl
@[simp] theorem State.setCreds_accounts (s : State) (c : CredTable) : (s.setCreds c).accounts = s.accounts := rfl
@[simp] theorem State.setCreds_creds (s : State) (c : CredTable) : (s.setCreds c).creds = c := rfl
@[simp] theorem State.setCreds_gates (s : State) (c : CredTable) : (s.setCreds c).gates = s.gates := rfl
@[simp] theorem State.setCreds_pontoons (s : State) (c : CredTable) : (s.setCreds c).pontoons = s.pontoons := rfl
@[simp] theorem State.setCreds_presence (s : State) (c : CredTable) : (s.setCreds c).presence = s.presence := rfl
@[simp] theorem State.setCreds_arms (s : State) (c : CredTable) : (s.setCreds c).arms = s.arms := rfl
@[simp] theorem State.setCreds_rates (s : State) (c : CredTable) : (s.setCreds c).rates = s.rates := rfl
@[simp] theorem State.setCreds_tripDelay (s : State) (c : CredTable) : (s.setCreds c).tripDelay = s.tripDelay := rfl
@[simp] theorem State.setCreds_pumps (s : State) (c : CredTable) : (s.setCreds c).pumps = s.pumps := rfl
@[simp] theorem State.setCreds_readyTimeout (s : State) (c : CredTable) : (s.setCreds c).readyTimeout = s.readyTimeout := rfl
@[simp] theorem State.setCreds_linkLossWindow (s : State) (c : CredTable) : (s.setCreds c).linkLossWindow = s.linkLossWindow :=
    rfl
@[simp] theorem State.setCreds_refusals (s : State) (c : CredTable) : (s.setCreds c).refusals = s.refusals := rfl
@[simp] theorem State.setCreds_relays (s : State) (c : CredTable) : (s.setCreds c).relays = s.relays := rfl
@[simp] theorem State.setCreds_trunk (s : State) (c : CredTable) : (s.setCreds c).trunk = s.trunk := rfl
@[simp] theorem State.setCreds_staging (s : State) (c : CredTable) : (s.setCreds c).staging = s.staging := rfl
@[simp] theorem State.setCreds_scan (s : State) (c : CredTable) : (s.setCreds c).scan = s.scan := rfl
@[simp] theorem State.setCreds_clock (s : State) (c : CredTable) : (s.setCreds c).clock = s.clock := rfl
@[simp] theorem State.setCreds_notices (s : State) (c : CredTable) : (s.setCreds c).notices = s.notices := rfl

/-! ### `setRelays` -/

@[simp] theorem State.setRelays_pending (s : State) (l : List RelayRequest) : (s.setRelays l).pending = s.pending := rfl
@[simp] theorem State.setRelays_berths (s : State) (l : List RelayRequest) : (s.setRelays l).berths = s.berths := rfl
@[simp] theorem State.setRelays_grace (s : State) (l : List RelayRequest) : (s.setRelays l).grace = s.grace := rfl
@[simp] theorem State.setRelays_scanPtr (s : State) (l : List RelayRequest) : (s.setRelays l).scanPtr = s.scanPtr := rfl
@[simp] theorem State.setRelays_accounts (s : State) (l : List RelayRequest) : (s.setRelays l).accounts = s.accounts := rfl
@[simp] theorem State.setRelays_creds (s : State) (l : List RelayRequest) : (s.setRelays l).creds = s.creds := rfl
@[simp] theorem State.setRelays_gates (s : State) (l : List RelayRequest) : (s.setRelays l).gates = s.gates := rfl
@[simp] theorem State.setRelays_pontoons (s : State) (l : List RelayRequest) : (s.setRelays l).pontoons = s.pontoons := rfl
@[simp] theorem State.setRelays_presence (s : State) (l : List RelayRequest) : (s.setRelays l).presence = s.presence := rfl
@[simp] theorem State.setRelays_arms (s : State) (l : List RelayRequest) : (s.setRelays l).arms = s.arms := rfl
@[simp] theorem State.setRelays_rates (s : State) (l : List RelayRequest) : (s.setRelays l).rates = s.rates := rfl
@[simp] theorem State.setRelays_tripDelay (s : State) (l : List RelayRequest) : (s.setRelays l).tripDelay = s.tripDelay := rfl
@[simp] theorem State.setRelays_pumps (s : State) (l : List RelayRequest) : (s.setRelays l).pumps = s.pumps := rfl
@[simp] theorem State.setRelays_readyTimeout (s : State) (l : List RelayRequest) : (s.setRelays l).readyTimeout = s.readyTimeout :=
    rfl
@[simp] theorem State.setRelays_linkLossWindow (s : State) (l : List RelayRequest) : (s.setRelays l).linkLossWindow = s.linkLossWindow :=
    rfl
@[simp] theorem State.setRelays_refusals (s : State) (l : List RelayRequest) : (s.setRelays l).refusals = s.refusals := rfl
@[simp] theorem State.setRelays_relays (s : State) (l : List RelayRequest) : (s.setRelays l).relays = l := rfl
@[simp] theorem State.setRelays_trunk (s : State) (l : List RelayRequest) : (s.setRelays l).trunk = s.trunk := rfl
@[simp] theorem State.setRelays_staging (s : State) (l : List RelayRequest) : (s.setRelays l).staging = s.staging := rfl
@[simp] theorem State.setRelays_scan (s : State) (l : List RelayRequest) : (s.setRelays l).scan = s.scan := rfl
@[simp] theorem State.setRelays_clock (s : State) (l : List RelayRequest) : (s.setRelays l).clock = s.clock := rfl
@[simp] theorem State.setRelays_notices (s : State) (l : List RelayRequest) : (s.setRelays l).notices = s.notices := rfl

/-! ### `setTrunk` -/

@[simp] theorem State.setTrunk_pending (s : State) (t : Trunk) : (s.setTrunk t).pending = s.pending := rfl
@[simp] theorem State.setTrunk_berths (s : State) (t : Trunk) : (s.setTrunk t).berths = s.berths := rfl
@[simp] theorem State.setTrunk_grace (s : State) (t : Trunk) : (s.setTrunk t).grace = s.grace := rfl
@[simp] theorem State.setTrunk_scanPtr (s : State) (t : Trunk) : (s.setTrunk t).scanPtr = s.scanPtr := rfl
@[simp] theorem State.setTrunk_accounts (s : State) (t : Trunk) : (s.setTrunk t).accounts = s.accounts := rfl
@[simp] theorem State.setTrunk_creds (s : State) (t : Trunk) : (s.setTrunk t).creds = s.creds := rfl
@[simp] theorem State.setTrunk_gates (s : State) (t : Trunk) : (s.setTrunk t).gates = s.gates := rfl
@[simp] theorem State.setTrunk_pontoons (s : State) (t : Trunk) : (s.setTrunk t).pontoons = s.pontoons := rfl
@[simp] theorem State.setTrunk_presence (s : State) (t : Trunk) : (s.setTrunk t).presence = s.presence := rfl
@[simp] theorem State.setTrunk_arms (s : State) (t : Trunk) : (s.setTrunk t).arms = s.arms := rfl
@[simp] theorem State.setTrunk_rates (s : State) (t : Trunk) : (s.setTrunk t).rates = s.rates := rfl
@[simp] theorem State.setTrunk_tripDelay (s : State) (t : Trunk) : (s.setTrunk t).tripDelay = s.tripDelay := rfl
@[simp] theorem State.setTrunk_pumps (s : State) (t : Trunk) : (s.setTrunk t).pumps = s.pumps := rfl
@[simp] theorem State.setTrunk_readyTimeout (s : State) (t : Trunk) : (s.setTrunk t).readyTimeout = s.readyTimeout := rfl
@[simp] theorem State.setTrunk_linkLossWindow (s : State) (t : Trunk) : (s.setTrunk t).linkLossWindow = s.linkLossWindow := rfl
@[simp] theorem State.setTrunk_refusals (s : State) (t : Trunk) : (s.setTrunk t).refusals = s.refusals := rfl
@[simp] theorem State.setTrunk_relays (s : State) (t : Trunk) : (s.setTrunk t).relays = s.relays := rfl
@[simp] theorem State.setTrunk_trunk (s : State) (t : Trunk) : (s.setTrunk t).trunk = t := rfl
@[simp] theorem State.setTrunk_staging (s : State) (t : Trunk) : (s.setTrunk t).staging = s.staging := rfl
@[simp] theorem State.setTrunk_scan (s : State) (t : Trunk) : (s.setTrunk t).scan = s.scan := rfl
@[simp] theorem State.setTrunk_clock (s : State) (t : Trunk) : (s.setTrunk t).clock = s.clock := rfl
@[simp] theorem State.setTrunk_notices (s : State) (t : Trunk) : (s.setTrunk t).notices = s.notices := rfl

/-! ### `setNotices` -/

@[simp] theorem State.setNotices_pending (s : State) (q : NoticeQueue) : (s.setNotices q).pending = s.pending := rfl
@[simp] theorem State.setNotices_berths (s : State) (q : NoticeQueue) : (s.setNotices q).berths = s.berths := rfl
@[simp] theorem State.setNotices_grace (s : State) (q : NoticeQueue) : (s.setNotices q).grace = s.grace := rfl
@[simp] theorem State.setNotices_scanPtr (s : State) (q : NoticeQueue) : (s.setNotices q).scanPtr = s.scanPtr := rfl
@[simp] theorem State.setNotices_accounts (s : State) (q : NoticeQueue) : (s.setNotices q).accounts = s.accounts := rfl
@[simp] theorem State.setNotices_creds (s : State) (q : NoticeQueue) : (s.setNotices q).creds = s.creds := rfl
@[simp] theorem State.setNotices_gates (s : State) (q : NoticeQueue) : (s.setNotices q).gates = s.gates := rfl
@[simp] theorem State.setNotices_pontoons (s : State) (q : NoticeQueue) : (s.setNotices q).pontoons = s.pontoons := rfl
@[simp] theorem State.setNotices_presence (s : State) (q : NoticeQueue) : (s.setNotices q).presence = s.presence := rfl
@[simp] theorem State.setNotices_arms (s : State) (q : NoticeQueue) : (s.setNotices q).arms = s.arms := rfl
@[simp] theorem State.setNotices_rates (s : State) (q : NoticeQueue) : (s.setNotices q).rates = s.rates := rfl
@[simp] theorem State.setNotices_tripDelay (s : State) (q : NoticeQueue) : (s.setNotices q).tripDelay = s.tripDelay := rfl
@[simp] theorem State.setNotices_pumps (s : State) (q : NoticeQueue) : (s.setNotices q).pumps = s.pumps := rfl
@[simp] theorem State.setNotices_readyTimeout (s : State) (q : NoticeQueue) : (s.setNotices q).readyTimeout = s.readyTimeout :=
    rfl
@[simp] theorem State.setNotices_linkLossWindow (s : State) (q : NoticeQueue) : (s.setNotices q).linkLossWindow = s.linkLossWindow :=
    rfl
@[simp] theorem State.setNotices_refusals (s : State) (q : NoticeQueue) : (s.setNotices q).refusals = s.refusals := rfl
@[simp] theorem State.setNotices_relays (s : State) (q : NoticeQueue) : (s.setNotices q).relays = s.relays := rfl
@[simp] theorem State.setNotices_trunk (s : State) (q : NoticeQueue) : (s.setNotices q).trunk = s.trunk := rfl
@[simp] theorem State.setNotices_staging (s : State) (q : NoticeQueue) : (s.setNotices q).staging = s.staging := rfl
@[simp] theorem State.setNotices_scan (s : State) (q : NoticeQueue) : (s.setNotices q).scan = s.scan := rfl
@[simp] theorem State.setNotices_clock (s : State) (q : NoticeQueue) : (s.setNotices q).clock = s.clock := rfl
@[simp] theorem State.setNotices_notices (s : State) (q : NoticeQueue) : (s.setNotices q).notices = q := rfl

/-! ### `withQueue` -/

@[simp] theorem State.withQueue_pending (s : State) (q : List Instr) : (s.withQueue q).pending = q := rfl
@[simp] theorem State.withQueue_berths (s : State) (q : List Instr) : (s.withQueue q).berths = s.berths := rfl
@[simp] theorem State.withQueue_grace (s : State) (q : List Instr) : (s.withQueue q).grace = s.grace := rfl
@[simp] theorem State.withQueue_scanPtr (s : State) (q : List Instr) : (s.withQueue q).scanPtr = s.scanPtr := rfl
@[simp] theorem State.withQueue_accounts (s : State) (q : List Instr) : (s.withQueue q).accounts = s.accounts := rfl
@[simp] theorem State.withQueue_creds (s : State) (q : List Instr) : (s.withQueue q).creds = s.creds := rfl
@[simp] theorem State.withQueue_gates (s : State) (q : List Instr) : (s.withQueue q).gates = s.gates := rfl
@[simp] theorem State.withQueue_pontoons (s : State) (q : List Instr) : (s.withQueue q).pontoons = s.pontoons := rfl
@[simp] theorem State.withQueue_presence (s : State) (q : List Instr) : (s.withQueue q).presence = s.presence := rfl
@[simp] theorem State.withQueue_arms (s : State) (q : List Instr) : (s.withQueue q).arms = s.arms := rfl
@[simp] theorem State.withQueue_rates (s : State) (q : List Instr) : (s.withQueue q).rates = s.rates := rfl
@[simp] theorem State.withQueue_tripDelay (s : State) (q : List Instr) : (s.withQueue q).tripDelay = s.tripDelay := rfl
@[simp] theorem State.withQueue_pumps (s : State) (q : List Instr) : (s.withQueue q).pumps = s.pumps := rfl
@[simp] theorem State.withQueue_readyTimeout (s : State) (q : List Instr) : (s.withQueue q).readyTimeout = s.readyTimeout := rfl
@[simp] theorem State.withQueue_linkLossWindow (s : State) (q : List Instr) : (s.withQueue q).linkLossWindow = s.linkLossWindow :=
    rfl
@[simp] theorem State.withQueue_refusals (s : State) (q : List Instr) : (s.withQueue q).refusals = s.refusals := rfl
@[simp] theorem State.withQueue_relays (s : State) (q : List Instr) : (s.withQueue q).relays = s.relays := rfl
@[simp] theorem State.withQueue_trunk (s : State) (q : List Instr) : (s.withQueue q).trunk = s.trunk := rfl
@[simp] theorem State.withQueue_staging (s : State) (q : List Instr) : (s.withQueue q).staging = s.staging := rfl
@[simp] theorem State.withQueue_scan (s : State) (q : List Instr) : (s.withQueue q).scan = s.scan := rfl
@[simp] theorem State.withQueue_clock (s : State) (q : List Instr) : (s.withQueue q).clock = s.clock := rfl
@[simp] theorem State.withQueue_notices (s : State) (q : List Instr) : (s.withQueue q).notices = s.notices := rfl

/-! ### `post` -/

@[simp] theorem State.post_pending (s : State) (b : NoticeBody) : (s.post b).pending = s.pending := rfl
@[simp] theorem State.post_berths (s : State) (b : NoticeBody) : (s.post b).berths = s.berths := rfl
@[simp] theorem State.post_grace (s : State) (b : NoticeBody) : (s.post b).grace = s.grace := rfl
@[simp] theorem State.post_scanPtr (s : State) (b : NoticeBody) : (s.post b).scanPtr = s.scanPtr := rfl
@[simp] theorem State.post_accounts (s : State) (b : NoticeBody) : (s.post b).accounts = s.accounts := rfl
@[simp] theorem State.post_creds (s : State) (b : NoticeBody) : (s.post b).creds = s.creds := rfl
@[simp] theorem State.post_gates (s : State) (b : NoticeBody) : (s.post b).gates = s.gates := rfl
@[simp] theorem State.post_pontoons (s : State) (b : NoticeBody) : (s.post b).pontoons = s.pontoons := rfl
@[simp] theorem State.post_presence (s : State) (b : NoticeBody) : (s.post b).presence = s.presence := rfl
@[simp] theorem State.post_arms (s : State) (b : NoticeBody) : (s.post b).arms = s.arms := rfl
@[simp] theorem State.post_rates (s : State) (b : NoticeBody) : (s.post b).rates = s.rates := rfl
@[simp] theorem State.post_tripDelay (s : State) (b : NoticeBody) : (s.post b).tripDelay = s.tripDelay := rfl
@[simp] theorem State.post_pumps (s : State) (b : NoticeBody) : (s.post b).pumps = s.pumps := rfl
@[simp] theorem State.post_readyTimeout (s : State) (b : NoticeBody) : (s.post b).readyTimeout = s.readyTimeout := rfl
@[simp] theorem State.post_linkLossWindow (s : State) (b : NoticeBody) : (s.post b).linkLossWindow = s.linkLossWindow := rfl
@[simp] theorem State.post_refusals (s : State) (b : NoticeBody) : (s.post b).refusals = s.refusals := rfl
@[simp] theorem State.post_relays (s : State) (b : NoticeBody) : (s.post b).relays = s.relays := rfl
@[simp] theorem State.post_trunk (s : State) (b : NoticeBody) : (s.post b).trunk = s.trunk := rfl
@[simp] theorem State.post_staging (s : State) (b : NoticeBody) : (s.post b).staging = s.staging := rfl
@[simp] theorem State.post_scan (s : State) (b : NoticeBody) : (s.post b).scan = s.scan := rfl
@[simp] theorem State.post_clock (s : State) (b : NoticeBody) : (s.post b).clock = s.clock := rfl
@[simp] theorem State.post_notices (s : State) (b : NoticeBody) : (s.post b).notices = s.notices.post s.clock b := rfl

/-! ### `pushReply` -/

@[simp] theorem State.pushReply_pending (s : State) (r : Reply) : (s.pushReply r).pending = s.pending := rfl
@[simp] theorem State.pushReply_berths (s : State) (r : Reply) : (s.pushReply r).berths = s.berths := rfl
@[simp] theorem State.pushReply_grace (s : State) (r : Reply) : (s.pushReply r).grace = s.grace := rfl
@[simp] theorem State.pushReply_scanPtr (s : State) (r : Reply) : (s.pushReply r).scanPtr = s.scanPtr := rfl
@[simp] theorem State.pushReply_accounts (s : State) (r : Reply) : (s.pushReply r).accounts = s.accounts := rfl
@[simp] theorem State.pushReply_creds (s : State) (r : Reply) : (s.pushReply r).creds = s.creds := rfl
@[simp] theorem State.pushReply_gates (s : State) (r : Reply) : (s.pushReply r).gates = s.gates := rfl
@[simp] theorem State.pushReply_pontoons (s : State) (r : Reply) : (s.pushReply r).pontoons = s.pontoons := rfl
@[simp] theorem State.pushReply_presence (s : State) (r : Reply) : (s.pushReply r).presence = s.presence := rfl
@[simp] theorem State.pushReply_arms (s : State) (r : Reply) : (s.pushReply r).arms = s.arms := rfl
@[simp] theorem State.pushReply_rates (s : State) (r : Reply) : (s.pushReply r).rates = s.rates := rfl
@[simp] theorem State.pushReply_tripDelay (s : State) (r : Reply) : (s.pushReply r).tripDelay = s.tripDelay := rfl
@[simp] theorem State.pushReply_pumps (s : State) (r : Reply) : (s.pushReply r).pumps = s.pumps := rfl
@[simp] theorem State.pushReply_readyTimeout (s : State) (r : Reply) : (s.pushReply r).readyTimeout = s.readyTimeout := rfl
@[simp] theorem State.pushReply_linkLossWindow (s : State) (r : Reply) : (s.pushReply r).linkLossWindow = s.linkLossWindow := rfl
@[simp] theorem State.pushReply_refusals (s : State) (r : Reply) : (s.pushReply r).refusals = s.refusals := rfl
@[simp] theorem State.pushReply_relays (s : State) (r : Reply) : (s.pushReply r).relays = s.relays := rfl
@[simp] theorem State.pushReply_trunk (s : State) (r : Reply) : (s.pushReply r).trunk = { s.trunk with replies := s.trunk.replies ++ [r] } :=
    rfl
@[simp] theorem State.pushReply_staging (s : State) (r : Reply) : (s.pushReply r).staging = s.staging := rfl
@[simp] theorem State.pushReply_scan (s : State) (r : Reply) : (s.pushReply r).scan = s.scan := rfl
@[simp] theorem State.pushReply_clock (s : State) (r : Reply) : (s.pushReply r).clock = s.clock := rfl
@[simp] theorem State.pushReply_notices (s : State) (r : Reply) : (s.pushReply r).notices = s.notices := rfl

/-! ### `frameTaken` -/

@[simp] theorem State.frameTaken_pending (s : State) : (s.frameTaken).pending = s.pending := rfl
@[simp] theorem State.frameTaken_berths (s : State) : (s.frameTaken).berths = s.berths := rfl
@[simp] theorem State.frameTaken_grace (s : State) : (s.frameTaken).grace = s.grace := rfl
@[simp] theorem State.frameTaken_scanPtr (s : State) : (s.frameTaken).scanPtr = s.scanPtr := rfl
@[simp] theorem State.frameTaken_accounts (s : State) : (s.frameTaken).accounts = s.accounts := rfl
@[simp] theorem State.frameTaken_creds (s : State) : (s.frameTaken).creds = s.creds := rfl
@[simp] theorem State.frameTaken_gates (s : State) : (s.frameTaken).gates = s.gates := rfl
@[simp] theorem State.frameTaken_pontoons (s : State) : (s.frameTaken).pontoons = s.pontoons := rfl
@[simp] theorem State.frameTaken_presence (s : State) : (s.frameTaken).presence = s.presence := rfl
@[simp] theorem State.frameTaken_arms (s : State) : (s.frameTaken).arms = s.arms := rfl
@[simp] theorem State.frameTaken_rates (s : State) : (s.frameTaken).rates = s.rates := rfl
@[simp] theorem State.frameTaken_tripDelay (s : State) : (s.frameTaken).tripDelay = s.tripDelay := rfl
@[simp] theorem State.frameTaken_pumps (s : State) : (s.frameTaken).pumps = s.pumps := rfl
@[simp] theorem State.frameTaken_readyTimeout (s : State) : (s.frameTaken).readyTimeout = s.readyTimeout := rfl
@[simp] theorem State.frameTaken_linkLossWindow (s : State) : (s.frameTaken).linkLossWindow = s.linkLossWindow := rfl
@[simp] theorem State.frameTaken_refusals (s : State) : (s.frameTaken).refusals = s.refusals := rfl
@[simp] theorem State.frameTaken_relays (s : State) : (s.frameTaken).relays = s.relays := rfl
@[simp] theorem State.frameTaken_trunk (s : State) : (s.frameTaken).trunk = { s.trunk with link := .connected, silenceCount := 0, rx := [] } :=
    rfl
@[simp] theorem State.frameTaken_staging (s : State) : (s.frameTaken).staging = s.staging := rfl
@[simp] theorem State.frameTaken_scan (s : State) : (s.frameTaken).scan = s.scan := rfl
@[simp] theorem State.frameTaken_clock (s : State) : (s.frameTaken).clock = s.clock := rfl
@[simp] theorem State.frameTaken_notices (s : State) : (s.frameTaken).notices = s.notices := rfl

end Sys2Proof.Machine
end

