-- ==== Sys2Proof/Laws/Ops.lean ====
section
/-! SUPPORT. What the named reads and writes of records do, and what posting, taking a request and choosing a frame to send do, each
said once. -/

namespace Sys2Proof.Machine

/-! ### Tables of records -/

theorem tabGet_tabSet {α : Type} {n : Nat} (v : Vector α n) (d x : α) (i j : Nat) :
    tabGet (tabSet v i x) d j = if i = j ∧ j < n then x else tabGet v d j := by
  simp only [tabGet, tabSet, Vector.getElem?_setIfInBounds]
  by_cases h : i = j
  · subst h
    by_cases hn : i < n
    · rw [if_pos rfl, if_pos hn, if_pos ⟨rfl, hn⟩]
      rfl
    · rw [if_pos rfl, if_neg hn, if_neg (fun k => hn k.2), Vector.getElem?_eq_none (Nat.le_of_not_lt hn)]
  · rw [if_neg h, if_neg (fun k => h k.1)]

theorem tabGet_replicate {α : Type} (n : Nat) (x : α) (i : Nat) : tabGet (Vector.replicate n x) x i = x := by
  simp only [tabGet, Vector.getElem?_replicate]
  split <;> rfl

theorem tabGet_map {α β : Type} {n : Nat} (v : Vector α n) (f : α → β) (d : β) (e : α) (i : Nat) :
    tabGet (v.map f) d i = if i < n then f (tabGet v e i) else d := by
  simp only [tabGet, Vector.getElem?_map]
  by_cases h : i < n
  · simp [h]
  · simp [h]

theorem numGet_numSet {α : Type} {n : Nat} (v : Vector α n) (d x : α) (i j : Nat) :
    numGet (numSet v i x) d j = if i = j ∧ 1 ≤ j ∧ j ≤ n then x else numGet v d j := by
  cases i with
  | zero =>
    rw [if_neg (by omega)]
    rfl
  | succ i =>
    cases j with
    | zero =>
      rw [if_neg (by omega)]
      rfl
    | succ j =>
      simp only [numGet, numSet, tabGet_tabSet]
      by_cases h : i = j ∧ j < n
      · rw [if_pos h, if_pos (by omega)]
      · rw [if_neg h, if_neg (by omega)]

theorem numGet_replicate {α : Type} (n : Nat) (x : α) (i : Nat) : numGet (Vector.replicate n x) x i = x := by
  cases i <;> simp [numGet, tabGet_replicate]

theorem numGet_map {α β : Type} {n : Nat} (v : Vector α n) (f : α → β) (d : β) (e : α) (i : Nat) :
    numGet (v.map f) d i = if 1 ≤ i ∧ i ≤ n then f (numGet v e i) else d := by
  cases i with
  | zero =>
    rw [if_neg (by omega)]
    rfl
  | succ i =>
    simp only [numGet, tabGet_map v f d e]
    by_cases h : i < n
    · rw [if_pos h, if_pos (by omega)]
    · rw [if_neg h, if_neg (by omega)]

theorem tabGet_cases {α : Type} {n : Nat} (v : Vector α n) (d x : α) (i j : Nat) :
    tabGet (tabSet v i x) d j = x ∨ tabGet (tabSet v i x) d j = tabGet v d j := by
  rw [tabGet_tabSet]
  split <;> simp

theorem numGet_cases {α : Type} {n : Nat} (v : Vector α n) (d x : α) (i j : Nat) :
    numGet (numSet v i x) d j = x ∨ numGet (numSet v i x) d j = numGet v d j := by
  rw [numGet_numSet]
  split <;> simp

theorem State.berth_setBerth (s : State) (n m : Nat) (b : Berth) :
    (s.setBerth n b).berth m = if n = m ∧ 1 ≤ m ∧ m ≤ 200 then b else s.berth m :=
  numGet_numSet ..

theorem State.account_setAccount (s : State) (n m : Nat) (a : Account) :
    (s.setAccount n a).account m = if n = m ∧ 1 ≤ m ∧ m ≤ 256 then a else s.account m :=
  numGet_numSet ..

theorem State.gate_setGate (s : State) (n m : Nat) (x : Gate) :
    (s.setGate n x).gate m = if n = m ∧ m < 8 then x else s.gate m :=
  tabGet_tabSet ..

theorem State.pontoon_setPontoon (s : State) (n m : Nat) (x : Pontoon) :
    (s.setPontoon n x).pontoon m = if n = m ∧ m < 6 then x else s.pontoon m :=
  tabGet_tabSet ..

theorem State.pump_setPump (s : State) (n m : Nat) (x : Pump) :
    (s.setPump n x).pump m = if n = m ∧ m < 4 then x else s.pump m :=
  tabGet_tabSet ..

theorem State.arm_setArm (s : State) (n m : Nat) (x : Arm) :
    (s.setArm n x).arm m = if n = m ∧ m < 6 then x else s.arm m :=
  tabGet_tabSet ..

theorem Arm.slot_setSlot (A : Arm) (n m : Nat) (x : Slot) :
    (A.setSlot n x).slot m = if n = m ∧ 1 ≤ m ∧ m ≤ 30 then x else A.slot m :=
  numGet_numSet ..

theorem mem_addresses {d : Nat} : d ∈ addresses ↔ 1 ≤ d ∧ d ≤ 30 := by
  simp only [addresses, List.mem_map, List.mem_range]
  exact ⟨fun ⟨x, h, e⟩ => by omega, fun h => ⟨d - 1, by omega, by omega⟩⟩

theorem State.slot_setArm (s : State) (n m d : Nat) (x : Arm) :
    (s.setArm n x).slot m d = if n = m ∧ m < 6 then x.slot d else s.slot m d := by
  simp only [State.slot, State.arm_setArm]
  split <;> rfl

theorem State.slot_setSlot (s : State) (n d m e : Nat) (x : Slot) :
    (s.setSlot n d x).slot m e = if (n = m ∧ m < 6) ∧ d = e ∧ 1 ≤ e ∧ e ≤ 30 then x else s.slot m e := by
  simp only [State.setSlot, State.slot_setArm, Arm.slot_setSlot]
  by_cases h : n = m ∧ m < 6
  · by_cases k : d = e ∧ 1 ≤ e ∧ e ≤ 30
    · rw [if_pos h, if_pos k, if_pos ⟨h, k⟩]
    · rw [if_pos h, if_neg k, if_neg (fun j => k j.2), h.1]
      rfl
  · rw [if_neg h, if_neg (fun j => h j.1)]

/-! ### Notices (R213) -/

theorem dropForUrgent_length (q : List Notice) : (dropForUrgent q).length = q.length - 1 := by
  unfold dropForUrgent
  split
  · rename_i hr
    obtain ⟨x, hx, hc⟩ := List.any_eq_true.mp hr
    exact List.length_eraseP_of_mem hx hc
  · simp

/-- Posting stamps the next number and keeps the queue within 64 (R213). -/
theorem NoticeQueue.post_bounds (q : NoticeQueue) (now : Nat) (b : NoticeBody)
    (h : q.queue.length ≤ 64 ∧ q.next ≤ 65535 ∧ q.dropped ≤ 65535) :
    (q.post now b).queue.length ≤ 64 ∧ (q.post now b).next ≤ 65535 ∧ (q.post now b).dropped ≤ 65535 := by
  obtain ⟨h1, h2, h3⟩ := h
  have hm : (q.next + 1) % 65536 ≤ 65535 := by omega
  unfold NoticeQueue.post
  split
  · simp; omega
  · split
    · simp [satAdd]; omega
    · have hd := dropForUrgent_length q.queue
      simp [satAdd]
      omega

/-! ### Requests (R201) -/

theorem takeRequest_full {α : Type} {code tag : Nat} {b : Body α} {judge : State → α → Judged} {s : State}
    (h : s.frameTaken.replyRoom = false) : takeRequest code tag b judge s = s.frameTaken.discardRequest := by
  simp [takeRequest, h]

theorem takeRequest_unsuited {α : Type} {code tag : Nat} {judge : State → α → Judged} {s : State}
    (h : s.frameTaken.replyRoom = true) :
    takeRequest code tag .unsuited judge s =
      s.frameTaken.pushReply { tag := tag, kind := code, result := .range, body := .empty } := by
  simp [takeRequest, h]

theorem takeRequest_answered {α : Type} {code tag : Nat} {f : α} {judge : State → α → Judged} {s t : State} {r : Answer}
    (h : s.frameTaken.replyRoom = true) (hj : judge s.frameTaken f = (t, some r)) :
    takeRequest code tag (.fields f) judge s = t.pushReply { tag := tag, kind := code, result := r.result, body := r.body } := by
  simp [takeRequest, h, hj]

theorem takeRequest_withheld {α : Type} {code tag : Nat} {f : α} {judge : State → α → Judged} {s t : State}
    (h : s.frameTaken.replyRoom = true) (hj : judge s.frameTaken f = (t, none)) :
    takeRequest code tag (.fields f) judge s = t := by
  simp [takeRequest, h, hj]

/-- A request is discarded, answered or withheld, and nothing else. -/
theorem takeRequest_cases {α : Type} (code tag : Nat) (b : Body α) (judge : State → α → Judged) (s : State) :
    (s.frameTaken.replyRoom = false ∧ takeRequest code tag b judge s = s.frameTaken.discardRequest) ∨
    (s.frameTaken.replyRoom = true ∧ b = .unsuited ∧ takeRequest code tag b judge s =
      s.frameTaken.pushReply { tag := tag, kind := code, result := .range, body := .empty }) ∨
    (∃ f t r, s.frameTaken.replyRoom = true ∧ b = .fields f ∧ judge s.frameTaken f = (t, some r) ∧
      takeRequest code tag b judge s = t.pushReply { tag := tag, kind := code, result := r.result, body := r.body }) ∨
    (∃ f t, s.frameTaken.replyRoom = true ∧ b = .fields f ∧ judge s.frameTaken f = (t, none) ∧
      takeRequest code tag b judge s = t) := by
  cases h : s.frameTaken.replyRoom with
  | false => exact .inl ⟨rfl, takeRequest_full h⟩
  | true =>
    cases b with
    | unsuited => exact .inr (.inl ⟨rfl, rfl, takeRequest_unsuited h⟩)
    | fields f =>
      match hj : judge s.frameTaken f with
      | (t, some r) => exact .inr (.inr (.inl ⟨f, t, r, rfl, rfl, hj, takeRequest_answered h hj⟩))
      | (t, none) => exact .inr (.inr (.inr ⟨f, t, rfl, rfl, hj, takeRequest_withheld h hj⟩))

/-! ### The send side (R202) -/

/-- What the send side's choice can do: nothing, take the oldest reply, or take the oldest notice. -/
theorem State.sendNext_cases (s : State) :
    s.sendNext = s ∨
    (∃ r rs, s.trunk.sending = none ∧ s.trunk.replies = r :: rs ∧
      s.sendNext = s.setTrunk { s.trunk with sending := some (.reply r), replies := rs }) ∨
    (∃ n ns, s.trunk.sending = none ∧ s.trunk.replies = [] ∧ s.withheld = 0 ∧ s.trunk.link = .connected ∧ s.notices.queue = n :: ns ∧
      s.sendNext =
        (s.setTrunk { s.trunk with sending := some (.notice n) }).setNotices { s.notices with queue := ns }) := by
  unfold State.sendNext
  split
  · exact .inl rfl
  · split
    · exact .inr (.inl ⟨_, _, ‹_›, ‹_›, rfl⟩)
    · split
      · exact .inl rfl
      · split
        · split
          · exact .inl rfl
          · exact .inr (.inr ⟨_, _, ‹_›, ‹_›, by omega, ‹_›, ‹_›, rfl⟩)
        · exact .inl rfl

/-- A command that ends in the send side's choice has a next state. -/
theorem finish_next (s : State) : finish s = .next s.sendNext := rfl

theorem finishBus_next (s : State) : finishBus s = .next s.arbitrateAll.sendNext := rfl

end Sys2Proof.Machine
end

