-- ==== Sys2Proof/Laws/Frames.lean ====
section
/-! SUPPORT. What the shared operations on accounts leave alone: a change of standing, a debit, a hold, a settlement and a release change
accounts, arms (their posts' points and marks) and notices, and nothing else. -/

namespace Sys2Proof.Machine

/-- Two states that agree outside accounts, arms and the notice queue. -/
def SameButAccounts (s t : State) : Prop :=
  t = { s with accounts := t.accounts, arms := t.arms, notices := t.notices }

theorem SameButAccounts.refl (s : State) : SameButAccounts s s := rfl

theorem SameButAccounts.trans {s t u : State} (h : SameButAccounts s t) (k : SameButAccounts t u) : SameButAccounts s u := by
  unfold SameButAccounts at *
  rw [k, h]

theorem SameButAccounts.pending {s t : State} (h : SameButAccounts s t) : t.pending = s.pending := by
  unfold SameButAccounts at h
  rw [h]
theorem SameButAccounts.berths {s t : State} (h : SameButAccounts s t) : t.berths = s.berths := by
  unfold SameButAccounts at h
  rw [h]
theorem SameButAccounts.grace {s t : State} (h : SameButAccounts s t) : t.grace = s.grace := by
  unfold SameButAccounts at h
  rw [h]
theorem SameButAccounts.scanPtr {s t : State} (h : SameButAccounts s t) : t.scanPtr = s.scanPtr := by
  unfold SameButAccounts at h
  rw [h]
theorem SameButAccounts.creds {s t : State} (h : SameButAccounts s t) : t.creds = s.creds := by
  unfold SameButAccounts at h
  rw [h]
theorem SameButAccounts.gates {s t : State} (h : SameButAccounts s t) : t.gates = s.gates := by
  unfold SameButAccounts at h
  rw [h]
theorem SameButAccounts.pontoons {s t : State} (h : SameButAccounts s t) : t.pontoons = s.pontoons := by
  unfold SameButAccounts at h
  rw [h]
theorem SameButAccounts.presence {s t : State} (h : SameButAccounts s t) : t.presence = s.presence := by
  unfold SameButAccounts at h
  rw [h]
theorem SameButAccounts.rates {s t : State} (h : SameButAccounts s t) : t.rates = s.rates := by
  unfold SameButAccounts at h
  rw [h]
theorem SameButAccounts.tripDelay {s t : State} (h : SameButAccounts s t) : t.tripDelay = s.tripDelay := by
  unfold SameButAccounts at h
  rw [h]
theorem SameButAccounts.pumps {s t : State} (h : SameButAccounts s t) : t.pumps = s.pumps := by
  unfold SameButAccounts at h
  rw [h]
theorem SameButAccounts.readyTimeout {s t : State} (h : SameButAccounts s t) : t.readyTimeout = s.readyTimeout := by
  unfold SameButAccounts at h
  rw [h]
theorem SameButAccounts.linkLossWindow {s t : State} (h : SameButAccounts s t) : t.linkLossWindow = s.linkLossWindow := by
  unfold SameButAccounts at h
  rw [h]
theorem SameButAccounts.refusals {s t : State} (h : SameButAccounts s t) : t.refusals = s.refusals := by
  unfold SameButAccounts at h
  rw [h]
theorem SameButAccounts.relays {s t : State} (h : SameButAccounts s t) : t.relays = s.relays := by
  unfold SameButAccounts at h
  rw [h]
theorem SameButAccounts.trunk {s t : State} (h : SameButAccounts s t) : t.trunk = s.trunk := by
  unfold SameButAccounts at h
  rw [h]
theorem SameButAccounts.staging {s t : State} (h : SameButAccounts s t) : t.staging = s.staging := by
  unfold SameButAccounts at h
  rw [h]
theorem SameButAccounts.scan {s t : State} (h : SameButAccounts s t) : t.scan = s.scan := by
  unfold SameButAccounts at h
  rw [h]
theorem SameButAccounts.clock {s t : State} (h : SameButAccounts s t) : t.clock = s.clock := by
  unfold SameButAccounts at h
  rw [h]

theorem sameButAccounts_setAccount (s : State) (n : Nat) (a : Account) : SameButAccounts s (s.setAccount n a) := rfl

theorem sameButAccounts_post (s : State) (b : NoticeBody) : SameButAccounts s (s.post b) := rfl

theorem sameButAccounts_postIf (s : State) (c : Bool) (b : NoticeBody) : SameButAccounts s (s.postIf c b) := by
  cases c <;> rfl

theorem sameButAccounts_suspendAccount (s : State) (n : Nat) (r : SuspReason) : SameButAccounts s (s.suspendAccount n r) := rfl

theorem sameButAccounts_creditRelease (s : State) (n : Nat) : SameButAccounts s (s.creditRelease n) := rfl

theorem sameButAccounts_onStanding (s : State) (n : Nat) (old new : Standing) : SameButAccounts s (s.onStanding n old new) := by
  unfold State.onStanding
  dsimp only
  split
  · rfl
  · split <;> (try split) <;> rfl

/-- A recomputation with its action on a change of standing (R31, R32). -/
theorem sameButAccounts_recompute (s : State) (n : Nat) : SameButAccounts s (s.recompute n) :=
  (sameButAccounts_setAccount ..).trans (sameButAccounts_onStanding ..)

/-- A DEBIT (R33, R35). -/
theorem sameButAccounts_debit (s : State) (n d : Nat) (src : DebitSource) : SameButAccounts s (s.debit n d src) := by
  unfold State.debit
  dsimp only
  split
  · exact (sameButAccounts_setAccount ..).trans (sameButAccounts_recompute ..)
  · rfl

/-- A HOLD (R37). -/
theorem sameButAccounts_hold (s : State) (n p w m : Nat) : SameButAccounts s (s.hold n p w m).1 := by
  unfold State.hold
  dsimp only
  split
  · rfl
  · exact (sameButAccounts_setAccount ..).trans (sameButAccounts_recompute ..)

/-- SETTLE (R38). -/
theorem sameButAccounts_settle (s : State) (n i d : Nat) : SameButAccounts s (s.settle n i d) := by
  unfold State.settle
  dsimp only
  split
  · exact ((sameButAccounts_setAccount ..).trans (sameButAccounts_recompute ..)).trans (sameButAccounts_postIf ..)
  · rfl

/-- RELEASE (R39). -/
theorem sameButAccounts_release (s : State) (n i : Nat) : SameButAccounts s (s.release n i) := by
  unfold State.release
  dsimp only
  split
  · exact (sameButAccounts_setAccount ..).trans (sameButAccounts_recompute ..)
  · rfl

end Sys2Proof.Machine
end

