-- ==== Sys2Proof/Laws/Kept.lean ====
section
/-! SUPPORT. The laws of Safety.lean are kept: one lemma for each record update, with what the new record must satisfy for the laws that
are about it, and for each shared operation of Ops.lean. -/

set_option Elab.async false

namespace Sys2Proof.Machine

variable {k : LawName} {s : State}

/-! ### The parts of the law of the holds (R36) -/

section
variable {f : Nat → Option (Nat × Hold)}

theorem HoldsPaired.entry (h : HoldsPaired f s) (n : Nat) (e : Hold) : e ∈ (s.account n).holds ↔ f e.pump = some (n, e) := h.1 n e
theorem HoldsPaired.ids (h : HoldsPaired f s) (n : Nat) : ((s.account n).holds.map (·.id)).Nodup := h.2.1 n
theorem HoldsPaired.closed (h : HoldsPaired f s) (n : Nat) : (s.account n).standing = .closed → (s.account n).holds = [] := h.2.2 n

theorem PumpsPlaced.row (h : PumpsPlaced s) {p : Nat} (hp : p < 4) (a d : Nat) :
    (s.pump p).station = some (a, d) ↔ .pump p ∈ (s.row a d).claims := h.1 p hp a d
theorem PumpsPlaced.line (h : PumpsPlaced s) {p : Nat} (hp : (s.pump p).state.holdsFunds = true) :
    ∃ a d, (s.pump p).station = some (a, d) ∧ (s.arm a).state ≠ .disabled := h.2.1 p hp
theorem PumpsPlaced.idle (h : PumpsPlaced s) {p : Nat} (hp : (s.pump p).state = .idle) : s.pumpPresent p = true := h.2.2.1 p hp
theorem PumpsPlaced.present (h : PumpsPlaced s) {a d : Nat} (hp : s.isPresent a d = true) : (s.arm a).state ≠ .disabled :=
  h.2.2.2.1 a d hp
theorem PumpsPlaced.quiet (h : PumpsPlaced s) {a : Nat} (ha : (s.arm a).state = .disabled) : (s.arm a).inFlight = none :=
  h.2.2.2.2 a ha

theorem Law.paired (h : Law .holds s) : HoldsPaired s.holder s := h.1
theorem Law.bound (h : Law .holds s) (p : Nat) : SaleBound (s.pump p) := h.2.1 p
theorem Law.placed (h : Law .holds s) : PumpsPlaced s := h.2.2

end

/-! ### Record updates -/

/-- What a berth's new record must satisfy. -/
structure BerthFits (k : LawName) (s : State) (n : Nat) (b : Berth) : Prop where
  berths : k = .berths → BerthOk b
  occupants : k = .occupants → ∀ m, b.occupant = some m → (s.account m).standing ≠ .closed

/-- A berth record that keeps its occupant. -/
theorem BerthFits.of_occupant {n : Nat} {b : Berth} (h : Law k s) (hb : k = .berths → BerthOk b)
    (e : b.occupant = (s.berth n).occupant := by rfl) : BerthFits k s n b :=
  ⟨hb, fun hk m hm => by subst hk; exact h n m (e ▸ hm)⟩

/-- A berth record that names no occupant. -/
theorem BerthFits.vacant {n : Nat} {b : Berth} (hb : k = .berths → BerthOk b) (e : b.occupant = none := by rfl) :
    BerthFits k s n b :=
  ⟨hb, fun _ m hm => by rw [e] at hm; cases hm⟩

theorem Law.setBerth {n : Nat} {b : Berth} (h : Law k s) (hb : BerthFits k s n b) : Law k (s.setBerth n b) := by
  cases k <;> first | exact h | skip
  case berths =>
    intro m
    rcases numGet_cases s.berths Berth.reset b n m with e | e
    · exact (congrArg BerthOk e).mpr (hb.berths rfl)
    · exact (congrArg BerthOk e).mpr (h m)
  case occupants =>
    intro m i hi
    change ((s.setBerth n b).berth m).occupant = some i at hi
    rw [State.berth_setBerth] at hi
    split at hi
    · exact hb.occupants rfl i hi
    · exact h m i hi

/-- What an account's new record must satisfy. -/
structure AccountFits (k : LawName) (s : State) (n : Nat) (a : Account) : Prop where
  accounts : k = .accounts → AccountOk a
  occupants : k = .occupants → a.standing = .closed → ∀ b, (s.berth b).occupant ≠ some n
  holds : k = .holds → a.holds = (s.account n).holds ∧ (a.standing = .closed → a.holds = [])

/-- An account record that keeps its hold list and is CLOSED only where it was. -/
theorem AccountFits.of_holds {n : Nat} {a : Account} (h : Law k s) (ha : k = .accounts → AccountOk a)
    (hs : a.standing = .closed → (s.account n).standing = .closed) (e : k = .holds → a.holds = (s.account n).holds) :
    AccountFits k s n a := by
  refine ⟨ha, fun hk hc b hb => ?_, fun hk => ⟨e hk, fun hc => ?_⟩⟩
  · subst hk; exact h b n hb (hs hc)
  · rw [e hk]; subst hk; exact h.paired.closed n (hs hc)

/-- The accounts as a HOLD pairing sees them. -/
theorem HoldsPaired.setAccount {f : Nat → Option (Nat × Hold)} {n : Nat} {a : Account} (h : HoldsPaired f s)
    (e : a.holds = (s.account n).holds) (hc : a.standing = .closed → a.holds = []) : HoldsPaired f (s.setAccount n a) := by
  have hh : ∀ m, ((s.setAccount n a).account m).holds = (s.account m).holds := by
    intro m
    rw [State.account_setAccount]
    split
    · rename_i c; rw [e, c.1]
    · rfl
  refine ⟨fun m x => by rw [hh]; exact h.entry m x, fun m => by rw [hh]; exact h.ids m, fun m => ?_⟩
  rw [State.account_setAccount]
  split
  · exact hc
  · exact h.closed m

theorem Law.setAccount {n : Nat} {a : Account} (h : Law k s) (ha : AccountFits k s n a) : Law k (s.setAccount n a) := by
  cases k <;> first | exact h | skip
  case accounts =>
    intro m
    rcases numGet_cases s.accounts Account.reset a n m with e | e
    · exact (congrArg AccountOk e).mpr (ha.accounts rfl)
    · exact (congrArg AccountOk e).mpr (h m)
  case occupants =>
    intro b m hb hc
    rw [State.account_setAccount] at hc
    split at hc
    · rename_i c; exact ha.occupants rfl hc b (c.1 ▸ hb)
    · exact h b m hb hc
  case holds => exact ⟨h.paired.setAccount (ha.holds rfl).1 (ha.holds rfl).2, h.bound, h.placed⟩

theorem Law.setGate {n : Nat} {x : Gate} (h : Law k s) : Law k (s.setGate n x) := by
  cases k <;> exact h

theorem Law.setRates {r : RateTable} (h : Law k s) : Law k (s.setRates r) := by
  cases k <;> exact h

theorem Law.setCreds {c : CredTable} (h : Law k s) : Law k (s.setCreds c) := by
  cases k <;> exact h

theorem Law.setPontoon {n : Nat} {x : Pontoon} (h : Law k s) (hx : k = .presence → n < 6 → s.count n ≤ x.limit)
    (hl : k = .settings → x.limit ≤ 256) : Law k (s.setPontoon n x) := by
  cases k <;> first | exact h | skip
  case settings =>
    obtain ⟨h1, h2, h3, h4, h5, h6, h7, h8, h9, h10, h11, h12, h13⟩ := h
    refine ⟨h1, h2, h3, h4, h5, h6, h7, h8, h9, h10, h11, h12, fun p => ?_⟩
    rw [State.pontoon_setPontoon]
    split
    · exact hl rfl
    · exact h13 p
  refine ⟨h.1, h.2.1, fun p hp => ?_⟩
  show s.count p ≤ ((s.setPontoon n x).pontoon p).limit
  rw [State.pontoon_setPontoon]
  split
  · rename_i e; rw [← e.1]; exact hx rfl (e.1 ▸ hp)
  · exact h.2.2 p hp

theorem Law.setPresence {l : List Presence} (h : Law k s) (hl : k = .presence → PresenceLaw (s.setPresence l)) :
    Law k (s.setPresence l) := by
  cases k <;> first | exact h | exact hl rfl

/-- What a pump's new record must satisfy for the pumps' places. -/
structure PumpFitsPlace (s : State) (p : Nat) (x : Pump) : Prop where
  bound : SaleBound x
  station : x.station = (s.pump p).station
  line : x.state.holdsFunds = true → (s.pump p).state.holdsFunds = true ∨ (s.pump p).state = .idle
  idle : x.state = .idle → s.pumpPresent p = true

/-- A record of a pump that stands at its station is one the places allow. -/
theorem PumpsPlaced.setPump {p : Nat} {x : Pump} (h : PumpsPlaced s) (hx : p < 4 → PumpFitsPlace s p x) :
    PumpsPlaced (s.setPump p x) := by
  have hst : ∀ q, ((s.setPump p x).pump q).station = (s.pump q).station := by
    intro q
    rw [State.pump_setPump]
    split
    · rename_i c; rw [(hx (c.1 ▸ c.2)).station, c.1]
    · rfl
  have hpr : ∀ q, (s.setPump p x).pumpPresent q = s.pumpPresent q := by
    intro q
    unfold State.pumpPresent
    rw [hst]
    rfl
  refine ⟨fun q hq a d => by rw [hst]; exact h.row hq a d, fun q hq => ?_, fun q hq => ?_, h.2.2.2.1, h.2.2.2.2⟩
  · rw [hst]
    rw [State.pump_setPump] at hq
    split at hq
    · rename_i c
      obtain ⟨rfl, hp⟩ := c
      rcases (hx hp).line hq with e | e
      · exact h.line e
      · have e := h.idle e
        unfold State.pumpPresent at e
        split at e
        · exact ⟨_, _, ‹_›, h.present e⟩
        · cases e
    · exact h.line hq
  · rw [hpr]
    rw [State.pump_setPump] at hq
    split at hq
    · rename_i c
      obtain ⟨rfl, hp⟩ := c
      exact (hx hp).idle hq
    · exact h.idle hq

/-- What a pump's new record must satisfy. -/
structure PumpFits (k : LawName) (s : State) (p : Nat) (x : Pump) : Prop where
  pumps : k = .pumps → PumpOk x
  holder : k = .holds → x.holder p = s.holder p
  place : k = .holds → p < 4 → PumpFitsPlace s p x

theorem State.holder_setPump (s : State) (p q : Nat) (x : Pump) :
    (s.setPump p x).holder q = if p = q ∧ q < 4 then x.holder q else s.holder q := by
  unfold State.holder
  rw [State.pump_setPump]
  split <;> rfl

theorem Law.setPump {p : Nat} {x : Pump} (h : Law k s) (hx : PumpFits k s p x) : Law k (s.setPump p x) := by
  cases k <;> first | exact h | skip
  case pumps =>
    intro m
    rcases tabGet_cases s.pumps Pump.reset x p m with e | e
    · exact (congrArg PumpOk e).mpr (hx.pumps rfl)
    · exact (congrArg PumpOk e).mpr (h m)
  case holds =>
    refine ⟨?_, fun q => ?_, h.placed.setPump (hx.place rfl)⟩
    · have e : (s.setPump p x).holder = s.holder := by
        funext q
        rw [State.holder_setPump]
        split
        · rename_i c; rw [← c.1]; exact hx.holder rfl
        · rfl
      rw [e]
      exact h.paired
    · rw [State.pump_setPump]
      split
      · rename_i c; exact (hx.place rfl (c.1 ▸ c.2)).bound
      · exact h.bound q

/-- The settings of an arm (R185). -/
def Arm.settings (A : Arm) : Nat × Nat × Nat × Nat × Nat :=
  (A.period, A.slotInterval, A.window, A.silence, A.anchor)

theorem ArmSettingsOk.of_eq {A B : Arm} (h : ArmSettingsOk B) (e : A.settings = B.settings) : ArmSettingsOk A := by
  simp only [Arm.settings, Prod.mk.injEq] at e
  obtain ⟨e1, e2, e3, e4, e5⟩ := e
  unfold ArmSettingsOk
  rw [e1, e2, e3, e4, e5]
  exact h

theorem Law.armSettings (h : Law .settings s) (a : Nat) : ArmSettingsOk (s.arm a) :=
  h.2.2.2.2.2.2.2.2.2.2.2.1 a

/-- The settings law when the six arms are replaced. -/
theorem Law.replaceArms {v : Vector Arm 6} (h : Law .settings s) (hv : ∀ a, ArmSettingsOk (tabGet v Arm.reset a)) :
    Law .settings { s with arms := v } := by
  obtain ⟨h1, h2, h3, h4, h5, h6, h7, h8, h9, h10, h11, -, h13⟩ := h
  exact ⟨h1, h2, h3, h4, h5, h6, h7, h8, h9, h10, h11, hv, h13⟩

/-- Whether a slot's station is PRESENT. -/
def Slot.present (x : Slot) : Bool :=
  x.station.any (fun st => st.link == .present)

theorem State.isPresent_eq (s : State) (a d : Nat) : s.isPresent a d = (s.slot a d).present := by
  unfold State.isPresent State.link Slot.present
  cases (s.slot a d).station <;> rfl

theorem State.pumpPresent_at {p a d : Nat} (e : (s.pump p).station = some (a, d)) : s.pumpPresent p = s.isPresent a d := by
  unfold State.pumpPresent
  rw [e]

/-- An IDLE pump's station is PRESENT. -/
theorem PumpsPlaced.idleAt (h : PumpsPlaced s) {p a d : Nat} (hi : (s.pump p).state = .idle)
    (e : (s.pump p).station = some (a, d)) : s.isPresent a d = true :=
  State.pumpPresent_at e ▸ h.idle hi

/-- What an arm's new record must satisfy for the pumps' places. -/
structure ArmFitsPlace (s : State) (a : Nat) (A : Arm) : Prop where
  row : ∀ d, (A.slot d).row = (s.slot a d).row
  idle : ∀ p d, (s.pump p).state = .idle → (s.pump p).station = some (a, d) → (A.slot d).present = true
  disabled : A.state = .disabled → A.inFlight = none ∧ (∀ d, (A.slot d).present = false) ∧
    ∀ p d, (s.pump p).state.holdsFunds = true → (s.pump p).station ≠ some (a, d)

theorem PumpsPlaced.setArm {a : Nat} {A : Arm} (h : PumpsPlaced s) (hA : a < 6 → ArmFitsPlace s a A) : PumpsPlaced (s.setArm a A) := by
  have hr : ∀ b d, (s.setArm a A).row b d = s.row b d := by
    intro b d
    show ((s.setArm a A).slot b d).row = (s.slot b d).row
    rw [State.slot_setArm]
    split
    · rename_i c; rw [← c.1]; exact (hA (c.1 ▸ c.2)).row d
    · rfl
  refine ⟨fun p hp b d => by rw [hr]; exact h.row hp b d, fun p hp => ?_, fun p hp => ?_, fun b d hb => ?_, fun b hb => ?_⟩
  · obtain ⟨b, d, hs, hb⟩ := h.line hp
    refine ⟨b, d, hs, fun hd => ?_⟩
    rw [State.arm_setArm] at hd
    split at hd
    · rename_i c; exact ((hA (c.1 ▸ c.2)).disabled hd).2.2 p d hp (c.1 ▸ hs)
    · exact hb hd
  · have e := h.idle hp
    cases hs : (s.pump p).station with
    | none =>
      unfold State.pumpPresent at e
      rw [hs] at e
      cases e
    | some x =>
      rw [State.pumpPresent_at hs] at e
      rw [State.pumpPresent_at (s := s.setArm a A) hs, State.isPresent_eq, State.slot_setArm]
      split
      · rename_i c; exact (hA (c.1 ▸ c.2)).idle p x.2 hp (c.1 ▸ hs)
      · rw [← State.isPresent_eq]; exact e
  · rw [State.isPresent_eq, State.slot_setArm] at hb
    rw [State.arm_setArm]
    split at hb
    · rename_i c
      rw [if_pos c]
      intro hd
      rw [((hA (c.1 ▸ c.2)).disabled hd).2.1 d] at hb
      cases hb
    · rename_i c
      rw [if_neg c]
      rw [← State.isPresent_eq] at hb
      exact h.present hb
  · rw [State.arm_setArm] at hb ⊢
    split at hb
    · rename_i c
      rw [if_pos c]
      exact ((hA (c.1 ▸ c.2)).disabled hb).1
    · rename_i c
      rw [if_neg c]
      exact h.quiet hb

/-- A record of an arm that keeps its rows and its PRESENT stations, and is DISABLED only where it was. -/
theorem ArmFitsPlace.of_present {a : Nat} {A : Arm} (h : PumpsPlaced s) (hr : ∀ d, (A.slot d).row = (s.slot a d).row)
    (hp : ∀ d, (A.slot d).present = (s.slot a d).present)
    (hd : A.state = .disabled → (s.arm a).state = .disabled ∧ A.inFlight = none) : ArmFitsPlace s a A := by
  refine ⟨hr, fun p d hi hs => ?_, fun he => ⟨(hd he).2, fun d => ?_, fun p d hf hs => ?_⟩⟩
  · rw [hp, ← State.isPresent_eq]
    exact h.idleAt hi hs
  · rw [hp, ← State.isPresent_eq]
    exact Bool.eq_false_iff.mpr (fun e => h.present e (hd he).1)
  · obtain ⟨b, e, hb, hn⟩ := h.line hf
    rw [hs] at hb
    cases hb
    exact hn (hd he).1

/-- What an arm's new record must satisfy. -/
structure ArmFits (k : LawName) (s : State) (a : Nat) (A : Arm) : Prop where
  arms : k = .arms → ArmOk A
  settings : k = .settings → ArmSettingsOk A
  points : k = .points → ∀ d p, (A.slot d).post = some p → PostOk p
  rows : k = .rows → ∀ d, (A.slot d).row = (s.slot a d).row
  holds : k = .holds → a < 6 → ArmFitsPlace s a A

theorem Law.setArm {a : Nat} {A : Arm} (h : Law k s) (hA : ArmFits k s a A) : Law k (s.setArm a A) := by
  cases k <;> first | exact h | skip
  case settings =>
    refine Law.replaceArms h (fun b => ?_)
    rcases tabGet_cases s.arms Arm.reset A a b with e | e
    · exact (congrArg ArmSettingsOk e).mpr (hA.settings rfl)
    · exact (congrArg ArmSettingsOk e).mpr (Law.armSettings h b)
  case points =>
    intro b d p hp
    change ((s.setArm a A).slot b d).post = some p at hp
    rw [State.slot_setArm] at hp
    split at hp
    · exact hA.points rfl d p hp
    · exact h b d p hp
  case arms =>
    intro b
    rcases tabGet_cases s.arms Arm.reset A a b with e | e
    · exact (congrArg ArmOk e).mpr (hA.arms rfl)
    · exact (congrArg ArmOk e).mpr (h b)
  case rows =>
    have e : ∀ b d, (s.setArm a A).row b d = s.row b d := by
      intro b d
      show ((s.setArm a A).slot b d).row = (s.slot b d).row
      rw [State.slot_setArm]
      split
      · rename_i c; rw [← c.1]; exact hA.rows rfl d
      · rfl
    show RowLaw (s.setArm a A)
    simp only [RowLaw, e]
    exact h
  case holds => exact ⟨h.paired, h.bound, h.placed.setArm (hA.holds rfl)⟩

/-- An arm's new record keeps the laws of its slots when its slots stay. -/
theorem ArmFits.of_slots_settings {a : Nat} {A : Arm} (h : Law k s) (e : A.slots = (s.arm a).slots)
    (hA : k = .arms → A.errors ≤ 255 ∧ A.probes ≤ 16 ∧ (A.state = .isolated → ∀ ex, A.inFlight = some ex → ex.req = .probe) ∧
      (A.state = .disabled → A.inFlight = none))
    (he : k = .settings → ArmSettingsOk A)
    (hd : k = .holds → A.state = .disabled → (s.arm a).state = .disabled ∧ A.inFlight = none) : ArmFits k s a A := by
  have hs : ∀ d, A.slot d = s.slot a d := fun d => by simp [Arm.slot, State.slot, e]
  refine ⟨fun hk => ?_, he, fun hk d p hp => ?_, fun _ d => by rw [hs], fun hk _ => ?_⟩
  · obtain ⟨h1, h2, h3, h4⟩ := hA hk
    subst hk
    exact ⟨h1, h2, fun d st hst => (h a).2.2.1 d st (by rw [hs] at hst; exact hst), h3, h4⟩
  · subst hk
    rw [hs] at hp
    exact h a d p hp
  · subst hk
    exact .of_present h.placed (fun d => by rw [hs]) (fun d => by rw [hs]) (hd rfl)

/-- The same where the settings stay too. -/
theorem ArmFits.of_slots {a : Nat} {A : Arm} (h : Law k s) (e : A.slots = (s.arm a).slots)
    (hA : k = .arms → A.errors ≤ 255 ∧ A.probes ≤ 16 ∧ (A.state = .isolated → ∀ ex, A.inFlight = some ex → ex.req = .probe) ∧
      (A.state = .disabled → A.inFlight = none))
    (hd : k = .holds → A.state = .disabled → (s.arm a).state = .disabled ∧ A.inFlight = none)
    (he : A.settings = (s.arm a).settings := by rfl) : ArmFits k s a A :=
  .of_slots_settings h e hA (fun hk => by subst hk; exact (h.armSettings a).of_eq he) hd

/-- What a slot's new record must satisfy. -/
structure SlotFits (k : LawName) (s : State) (a d : Nat) (x : Slot) : Prop where
  arms : k = .arms → ∀ st, x.station = some st → st.missed ≤ 15
  points : k = .points → ∀ p, x.post = some p → PostOk p
  rows : x.row = (s.slot a d).row
  holds : k = .holds → (x.present = true → (s.slot a d).present = true ∨ (s.arm a).state ≠ .disabled) ∧
    ∀ p, (s.pump p).state = .idle → (s.pump p).station = some (a, d) → x.present = true

theorem Law.setSlot {a d : Nat} {x : Slot} (h : Law k s) (hx : SlotFits k s a d x) : Law k (s.setSlot a d x) := by
  have hrow : ∀ e, (((s.arm a).setSlot d x).slot e).row = (s.slot a e).row := by
    intro e
    rw [Arm.slot_setSlot]
    split
    · rename_i c; rw [← c.1]; exact hx.rows
    · rfl
  refine h.setArm ⟨fun hk => ?_, fun hk => by subst hk; exact (h.armSettings a).of_eq rfl, fun hk e p hp => ?_, fun _ => hrow,
    fun hk _ => ⟨hrow, fun p e hi hs => ?_, fun hd => ?_⟩⟩
  · subst hk
    refine ⟨(h a).1, (h a).2.1, fun e st hst => ?_, (h a).2.2.2.1, (h a).2.2.2.2⟩
    rw [Arm.slot_setSlot] at hst
    split at hst
    · exact hx.arms rfl st hst
    · exact (h a).2.2.1 e st hst
  · subst hk
    rw [Arm.slot_setSlot] at hp
    split at hp
    · exact hx.points rfl p hp
    · exact h a e p hp
  · subst hk
    have hh := hx.holds rfl
    rw [Arm.slot_setSlot]
    split
    · rename_i c; rw [← c.1] at hs; exact hh.2 p hi hs
    · exact State.isPresent_eq s a _ ▸ h.placed.idleAt hi hs
  · subst hk
    have hh := hx.holds rfl
    have hd : (s.arm a).state = .disabled := hd
    have old : ∀ e, (s.slot a e).present = false := fun e => by
      rw [← State.isPresent_eq]
      exact Bool.eq_false_iff.mpr (fun c => h.placed.present c hd)
    refine ⟨h.placed.quiet hd, fun e => ?_, fun p e hf hs => ?_⟩
    · rw [Arm.slot_setSlot]
      split
      · refine Bool.eq_false_iff.mpr (fun c => ?_)
        rcases hh.1 c with c | c
        · rw [old] at c; cases c
        · exact c hd
      · exact old e
    · obtain ⟨b, c, hb, hn⟩ := h.placed.line hf
      rw [hs] at hb
      cases hb
      exact hn hd

/-- A slot record that keeps its row and its station. -/
theorem SlotFits.of_station {a d : Nat} {x : Slot} (h : Law k s) (hr : x.row = (s.slot a d).row)
    (hs : x.station = (s.slot a d).station) (hp : k = .points → ∀ p, x.post = some p → PostOk p) : SlotFits k s a d x := by
  have e : x.present = (s.slot a d).present := by unfold Slot.present; rw [hs]
  refine ⟨fun hk st hst => ?_, hp, hr, fun hk => ⟨fun c => .inl (e ▸ c), fun p hi hst => ?_⟩⟩
  · subst hk
    exact (h a).2.2.1 d st (by rw [hs] at hst; exact hst)
  · subst hk
    rw [e, ← State.isPresent_eq]
    exact h.placed.idleAt hi hst

theorem Law.slot_missed {a d : Nat} (h : Law .arms s) : ∀ st, (s.slot a d).station = some st → st.missed ≤ 15 :=
  fun st hst => (h a).2.2.1 d st hst

theorem Law.slot_post {a d : Nat} (h : Law .points s) : ∀ p, (s.slot a d).post = some p → PostOk p :=
  fun p hp => h a d p hp

theorem Law.setPost {a d : Nat} {p : Post} (h : Law k s) (hp : k = .points → PostOk p) : Law k (s.setPost a d p) := by
  refine h.setSlot (.of_station h rfl rfl (fun hk q hq => ?_))
  cases hq
  exact hp hk

/-- A station record whose link is PRESENT only on an arm in service or where it was, and stays PRESENT for an IDLE pump. -/
theorem Law.setStation {a d : Nat} {st : Station} (h : Law k s) (hs : k = .arms → st.missed ≤ 15)
    (hl : k = .holds → (st.link = .present → s.isPresent a d = true ∨ (s.arm a).state ≠ .disabled) ∧
      ∀ p, (s.pump p).state = .idle → (s.pump p).station = some (a, d) → st.link = .present) :
    Law k (s.setSlot a d { s.slot a d with station := some st }) := by
  refine h.setSlot ⟨fun hk q hq => ?_, fun hk => ?_, rfl, fun hk => ?_⟩
  · cases hq; exact hs hk
  · subst hk; exact h.slot_post
  · rw [← State.isPresent_eq]
    exact ⟨fun c => (hl hk).1 (by simpa [Slot.present] using c), fun p hi he => by simp [Slot.present, (hl hk).2 p hi he]⟩

/-! ### The trunk and the notices -/

/-- What the trunk's new record must satisfy. -/
structure TrunkFits (k : LawName) (s : State) (t : Trunk) : Prop where
  settings : k = .settings → 5 ≤ t.silenceTime ∧ t.silenceTime ≤ 255
  queues : k = .queues → t.replies.length + s.withheld ≤ 16 ∧ t.discarded ≤ 65535
  replies : ∀ n, k = .repliesAtMost n → t.replies.length + s.withheld ≤ n

theorem Law.setTrunk {t : Trunk} (h : Law k s) (ht : TrunkFits k s t) : Law k (s.setTrunk t) := by
  cases k <;> first | exact h | skip
  case settings =>
    obtain ⟨h1, h2, h3, h4, h5, h6, h7, -, h9⟩ := h
    exact ⟨h1, h2, h3, h4, h5, h6, h7, ht.settings rfl, h9⟩
  case queues =>
    obtain ⟨h1, h2, h3, -, -⟩ := h
    exact ⟨h1, h2, h3, (ht.queues rfl).1, (ht.queues rfl).2⟩
  case repliesAtMost n => exact ht.replies n rfl

/-- A trunk record that keeps the silence time, the reply list and the count of discarded requests fits. -/
theorem TrunkFits.of_eq {t : Trunk} (h : Law k s) (h1 : t.silenceTime = s.trunk.silenceTime)
    (h2 : t.replies.length ≤ s.trunk.replies.length) (h3 : t.discarded ≤ 65535 ∨ t.discarded ≤ s.trunk.discarded) :
    TrunkFits k s t := by
  refine ⟨fun hk => ?_, fun hk => ?_, fun n hk => ?_⟩ <;> subst hk
  · rw [h1]; exact h.2.2.2.2.2.2.2.1
  · have a : s.trunk.replies.length + s.withheld ≤ 16 := h.2.2.2.1
    have b : s.trunk.discarded ≤ 65535 := h.2.2.2.2
    omega
  · have a : s.trunk.replies.length + s.withheld ≤ n := h
    omega

theorem Law.frameTaken (h : Law k s) : Law k s.frameTaken :=
  h.setTrunk (.of_eq h rfl (Nat.le_refl _) (.inr (Nat.le_refl _)))

theorem Law.discardRequest (h : Law k s) : Law k s.discardRequest :=
  h.setTrunk (.of_eq h rfl (Nat.le_refl _) (.inl (Nat.min_le_right ..)))

/-- A reply joins the list where there is room for it. -/
theorem Law.pushReply {r : Reply} (h : Law k s) (hr : RepliesAtMost 15 s) (hn : ∀ n, k = .repliesAtMost n → 16 ≤ n) :
    Law k (s.pushReply r) := by
  have e : (s.trunk.replies ++ [r]).length + s.withheld ≤ 16 := by
    have : s.trunk.replies.length + s.withheld ≤ 15 := hr
    simp only [List.length_append, List.length_cons, List.length_nil]
    omega
  refine h.setTrunk ⟨fun hk => ?_, fun hk => ?_, fun n hk => Nat.le_trans e (hn n hk)⟩
  · subst hk; exact h.2.2.2.2.2.2.2.1
  · subst hk; exact ⟨e, h.2.2.2.2⟩

theorem Law.setNotices {q : NoticeQueue} (h : Law k s)
    (hq : k = .queues → q.queue.length ≤ 64 ∧ q.next ≤ 65535 ∧ q.dropped ≤ 65535) : Law k (s.setNotices q) := by
  cases k <;> first | exact h | skip
  exact ⟨(hq rfl).1, (hq rfl).2.1, (hq rfl).2.2, h.2.2.2.1, h.2.2.2.2⟩

theorem Law.post {b : NoticeBody} (h : Law k s) : Law k (s.post b) := by
  refine h.setNotices (fun hk => ?_)
  subst hk
  exact NoticeQueue.post_bounds _ _ _ ⟨h.1, h.2.1, h.2.2.1⟩

theorem Law.postIf {c : Bool} {b : NoticeBody} (h : Law k s) : Law k (s.postIf c b) := by
  unfold State.postIf
  split
  · exact h.post
  · exact h

theorem Law.sendNext (h : Law k s) : Law k s.sendNext := by
  rcases s.sendNext_cases with e | ⟨r, rs, -, hr, e⟩ | ⟨n, ns, -, -, -, -, hq, e⟩ <;> rw [e]
  · exact h
  · exact h.setTrunk (.of_eq h rfl (by simp [hr]) (.inr (Nat.le_refl _)))
  · refine (h.setTrunk (t := { s.trunk with sending := some (.notice n) })
      (.of_eq h rfl (Nat.le_refl _) (.inr (Nat.le_refl _)))).setNotices (fun hk => ?_)
    subst hk
    have := h.1
    rw [hq] at this
    exact ⟨by simp at this ⊢; omega, h.2.1, h.2.2.1⟩

/-- The relay requests change. -/
theorem Law.setRelays {l : List RelayRequest} (h : Law k s)
    (hq : k = .queues → s.trunk.replies.length + l.countP (·.wait) ≤ 16)
    (hn : ∀ n, k = .repliesAtMost n → s.trunk.replies.length + l.countP (·.wait) ≤ n) : Law k (s.setRelays l) := by
  cases k <;> first | exact h | skip
  case queues => exact ⟨h.1, h.2.1, h.2.2.1, hq rfl, h.2.2.2.2⟩
  case repliesAtMost n => exact hn n rfl

/-! ### Requests -/

/-- A request whose judgement keeps the law, and the room in the reply list, keeps the law. -/
theorem Law.takeRequest {α : Type} {code tag : Nat} {b : Body α} {judge : State → α → Judged} (h : Law k s)
    (hn : ∀ n, k = .repliesAtMost n → 16 ≤ n)
    (hj : ∀ f, b = .fields f → ∀ j t, j = k ∨ j = .repliesAtMost 15 → Law j t → Law j (judge t f).1) :
    Law k (Machine.takeRequest code tag b judge s) := by
  have room : s.frameTaken.replyRoom = true → RepliesAtMost 15 s.frameTaken := by
    intro e
    have := of_decide_eq_true e
    show _ ≤ 15
    omega
  rcases takeRequest_cases code tag b judge s with ⟨-, e⟩ | ⟨hr, -, e⟩ | ⟨f, t, r, hr, hb, ht, e⟩ | ⟨f, t, hr, hb, ht, e⟩ <;> rw [e]
  · exact h.frameTaken.discardRequest
  · exact h.frameTaken.pushReply (room hr) hn
  · have a := hj f hb k _ (.inl rfl) h.frameTaken
    have c := hj f hb (.repliesAtMost 15) _ (.inr rfl) (room hr)
    rw [ht] at a c
    exact a.pushReply c hn
  · have a := hj f hb k _ (.inl rfl) h.frameTaken
    rw [ht] at a
    exact a

/-! ### Folds -/

theorem Law.foldl {α : Type} {f : State → α → State} (hf : ∀ t x, Law k t → Law k (f t x)) :
    ∀ (l : List α) {t : State}, Law k t → Law k (l.foldl f t)
  | [], _, h => h
  | x :: l, _, h => Law.foldl hf l (hf _ x h)

end Sys2Proof.Machine
end

