-- ==== Sys2Proof/Laws/KeptPoints.lean ====
section
/-! SUPPORT. The laws of Safety.lean are kept by what the blocks do to berths, service points and accounts (BerthOps.lean to
PostReply.lean). -/

set_option Elab.async false

namespace Sys2Proof.Machine

variable {k : LawName} {s : State}

/-! ### Points and posts -/

theorem PostOk.point {p : Post} (h : PostOk p) (side : Nat) (svc : Service) : PointOk (p.point side svc) := by
  obtain ⟨h1, h2, h3, h4⟩ := h
  unfold Post.point
  split <;> assumption

theorem PostOk.setPoint {p : Post} {x : Point} (h : PostOk p) (hx : PointOk x) (side : Nat) (svc : Service) :
    PostOk (p.setPoint side svc x) := by
  obtain ⟨h1, h2, h3, h4⟩ := h
  unfold Post.setPoint
  split <;> exact ⟨by assumption, by assumption, by assumption, by assumption⟩

theorem PostOk.setMark {p : Post} (h : PostOk p) (b : Bool) : PostOk (p.setMark b) := h

theorem PostOk.setDet {p : Post} (h : PostOk p) (side : Nat) (d : Detector) : PostOk (p.setDet side d) := by
  unfold Post.setDet
  split <;> exact h

theorem PostOk.change {p : Post} {x : Point} (h : PostOk p) (hx : PointOk x) (side : Nat) (svc : Service) :
    PostOk (p.change side svc x) := by
  unfold Post.change
  split
  · exact h.setPoint hx side svc
  · exact (h.setPoint (x := { x with unconfirmed := 0 }) ⟨hx.1, hx.2.1, Nat.zero_le _, hx.2.2.2⟩ side svc).setMark false

/-- A point with a session in a state that has one. -/
theorem PointOk.inSession {x : Point} {ses : Session} {st : PointState} (h : PointOk x) (hs : st.atRest = false)
    (hr : ses.residue ≤ 999) : PointOk { x with state := st, session := some ses } :=
  ⟨by simp [hs], h.2.1, h.2.2.1, fun t ht => by cases ht; exact hr⟩

/-- A point without a session in a state that has none. -/
theorem PointOk.atRest {x : Point} {st : PointState} (h : PointOk x) (hs : st.atRest = true) :
    PointOk { x with state := st, session := none } :=
  ⟨by simp [hs], h.2.1, h.2.2.1, fun t ht => by cases ht⟩

theorem PointOk.residue {x : Point} {ses : Session} (h : PointOk x) (e : x.session = some ses) : ses.residue ≤ 999 :=
  h.2.2.2 ses e

/-- A point whose session is replaced in its state. -/
theorem PointOk.session {x : Point} {ses t : Session} (h : PointOk x) (e : x.session = some ses) (hr : t.residue ≤ 999) :
    PointOk { x with session := some t } :=
  ⟨by rw [← h.1, e]; rfl, h.2.1, h.2.2.1, fun u hu => by cases hu; exact hr⟩

theorem PostOk.eachPoint {p : Post} {f : Post → Nat → Service → Post} (h : PostOk p)
    (hf : ∀ q side svc, PostOk q → PostOk (f q side svc)) : PostOk (p.eachPoint f) := by
  have : ∀ (l : List (Nat × Service)) q, PostOk q → PostOk (l.foldl (fun q k => f q k.1 k.2) q) := by
    intro l
    induction l with
    | nil => exact fun q hq => hq
    | cons x l ih => exact fun q hq => ih _ (hf _ _ _ hq)
  exact this _ _ h

theorem PostOk.suspendPoint {p : Post} (h : PostOk p) (n : Nat) (r : SuspReason) (side : Nat) (svc : Service) :
    PostOk (Post.suspendPoint n r p side svc) := by
  have hp := h.point side svc
  unfold Post.suspendPoint
  dsimp only
  split
  · rename_i ses e
    split
    · have hr := hp.residue e
      exact h.change (hp.inSession (by rfl) (by exact hr)) side svc
    · exact h
  · exact h

theorem PostOk.releasePoint {p : Post} (h : PostOk p) (side : Nat) (svc : Service) (c : Cause) :
    PostOk (p.releasePoint side svc c) := by
  have hp := h.point side svc
  unfold Post.releasePoint
  dsimp only
  split
  · rename_i ses e
    have hr := hp.residue e
    refine PostOk.change ?_ (hp.inSession (by rfl) (by exact hr)) side svc
    split
    · exact h.setDet side _
    · exact h
  · exact h

theorem PostOk.creditReleasePoint {p : Post} (h : PostOk p) (n : Nat) (o : Nat → Bool) (f : Bool) (now delay side : Nat)
    (svc : Service) : PostOk (Post.creditReleasePoint n o f now delay p side svc) := by
  unfold Post.creditReleasePoint
  dsimp only
  split
  · split
    · exact h.releasePoint side svc .credit
    · exact h
  · exact h

theorem Arm.slot_mapPosts (A : Arm) (f : Row → Post → Post) (d : Nat) :
    ({ A with slots := A.slots.map (fun x => { x with post := x.post.map (f x.row) }) } : Arm).slot d =
      { A.slot d with post := (A.slot d).post.map (f (A.slot d).row) } := by
  unfold Arm.slot
  rw [numGet_map _ _ _ Slot.reset]
  split
  · rfl
  · have : numGet A.slots Slot.reset d = Slot.reset := by
      cases d with
      | zero => rfl
      | succ d =>
        have hd : ¬ d < 30 := by omega
        simp [numGet, tabGet, hd]
    rw [this]
    rfl

theorem State.arm_mapPosts (s : State) (f : Row → Post → Post) (a : Nat) :
    (s.mapPosts f).arm a = { s.arm a with slots := (s.arm a).slots.map (fun x => { x with post := x.post.map (f x.row) }) } := by
  unfold State.arm State.mapPosts
  rw [tabGet_map _ _ _ Arm.reset]
  split
  · rfl
  · have : tabGet s.arms Arm.reset a = Arm.reset := by
      simp [tabGet, *]
    rw [this]
    simp [Arm.reset, Slot.reset]

theorem State.slot_mapPosts (s : State) (f : Row → Post → Post) (a d : Nat) :
    (s.mapPosts f).slot a d = { s.slot a d with post := (s.slot a d).post.map (f (s.slot a d).row) } := by
  unfold State.slot
  rw [State.arm_mapPosts, Arm.slot_mapPosts]

/-- From `s` to `t` the pumps, and of the arms the rows, the PRESENT stations, the states and the exchanges, are as before. -/
def DockSame (s t : State) : Prop :=
  t.pumps = s.pumps ∧ (∀ a d, t.row a d = s.row a d) ∧ (∀ a d, t.isPresent a d = s.isPresent a d) ∧
  ∀ a, (t.arm a).state = (s.arm a).state ∧ (t.arm a).inFlight = (s.arm a).inFlight

theorem DockSame.refl (s : State) : DockSame s s :=
  ⟨rfl, fun _ _ => rfl, fun _ _ => rfl, fun _ => ⟨rfl, rfl⟩⟩

theorem DockSame.pump {t : State} (h : DockSame s t) (p : Nat) : t.pump p = s.pump p := by
  unfold State.pump
  rw [h.1]

theorem DockSame.pumpPresent {t : State} (h : DockSame s t) (p : Nat) : t.pumpPresent p = s.pumpPresent p := by
  unfold State.pumpPresent
  rw [h.pump]
  split
  · exact h.2.2.1 _ _
  · rfl

theorem PumpsPlaced.same {t : State} (h : PumpsPlaced s) (e : DockSame s t) : PumpsPlaced t := by
  refine ⟨fun p hp a d => by rw [e.pump, e.2.1]; exact h.row hp a d, fun p hp => ?_, fun p hp => ?_, fun a d hp => ?_, fun a ha => ?_⟩
  · rw [e.pump] at hp ⊢
    obtain ⟨a, d, h1, h2⟩ := h.line hp
    exact ⟨a, d, h1, by rw [(e.2.2.2 a).1]; exact h2⟩
  · rw [e.pump] at hp
    rw [e.pumpPresent]
    exact h.idle hp
  · rw [(e.2.2.2 a).1]
    exact h.present (e.2.2.1 a d ▸ hp)
  · rw [(e.2.2.2 a).1] at ha
    rw [(e.2.2.2 a).2]
    exact h.quiet ha

theorem State.row_mapPosts (s : State) (f : Row → Post → Post) (a d : Nat) : (s.mapPosts f).row a d = s.row a d := by
  show ((s.mapPosts f).slot a d).row = _
  rw [State.slot_mapPosts]
  rfl

theorem DockSame.mapPosts (s : State) (f : Row → Post → Post) : DockSame s (s.mapPosts f) := by
  refine ⟨rfl, State.row_mapPosts s f, fun a d => ?_, fun a => ?_⟩
  · rw [State.isPresent_eq, State.slot_mapPosts, State.isPresent_eq]
    rfl
  · rw [State.arm_mapPosts]
    exact ⟨rfl, rfl⟩

theorem Law.mapPosts {f : Row → Post → Post} (h : Law k s) (hf : k = .points → ∀ row p, PostOk p → PostOk (f row p)) :
    Law k (s.mapPosts f) := by
  cases k <;> first | exact h | skip
  case settings =>
    refine Law.replaceArms h (fun a => ?_)
    change ArmSettingsOk ((s.mapPosts f).arm a)
    rw [State.arm_mapPosts]
    exact (h.armSettings a).of_eq rfl
  case points =>
    intro a d p hp
    change ((s.mapPosts f).slot a d).post = some p at hp
    rw [State.slot_mapPosts] at hp
    obtain ⟨q, hq, e⟩ := Option.map_eq_some_iff.mp hp
    rw [← e]
    exact hf rfl _ _ (h a d q hq)
  case arms =>
    intro a
    rw [State.arm_mapPosts]
    refine ⟨(h a).1, (h a).2.1, fun d st hst => ?_, (h a).2.2.2.1, (h a).2.2.2.2⟩
    rw [Arm.slot_mapPosts] at hst
    exact (h a).2.2.1 d st hst
  case rows =>
    show RowLaw _
    simp only [RowLaw, State.row_mapPosts]
    exact h
  case holds => exact ⟨h.paired, h.bound, h.placed.same (.mapPosts s f)⟩

theorem Law.suspendAccount {n : Nat} {r : SuspReason} (h : Law k s) : Law k (s.suspendAccount n r) :=
  h.mapPosts (fun _ _ _ hp => hp.eachPoint (fun _ _ _ hq => hq.suspendPoint n r _ _))

theorem Law.creditRelease {n : Nat} (h : Law k s) : Law k (s.creditRelease n) :=
  h.mapPosts (fun _ _ _ hp => hp.eachPoint (fun _ _ _ hq => hq.creditReleasePoint n _ _ _ _ _ _))

theorem Law.pointOk {r : PointRef} {x : Point} (h : Law k s) (e : s.point? r = some x) : k = .points → PointOk x := by
  rintro rfl
  obtain ⟨p, hp, rfl⟩ := Option.map_eq_some_iff.mp e
  exact (h _ _ p hp).point _ _

theorem Law.postOk {a d : Nat} {p : Post} (h : Law k s) (e : s.post? a d = some p) : k = .points → PostOk p := by
  rintro rfl
  exact h a d p e

/-! ### Berths -/

theorem BerthOk.freed {b : Berth} (h : BerthOk b) : BerthOk b.freed :=
  ⟨rfl, rfl, h.2.2⟩

theorem Law.berthOk (h : Law k s) (n : Nat) : k = .berths → BerthOk (s.berth n) := by
  rintro rfl
  exact h n

theorem BerthOk.held {b : Berth} (h : BerthOk b) (hb : b.state.isHeld = true) {st : BerthState} (hs : st.isHeld = true) :
    BerthOk { b with state := st } :=
  ⟨by rw [h.1, hb]; exact hs.symm, by rw [h.2.1, hb]; exact hs.symm, h.2.2⟩

theorem BerthState.isHeld_of_awaited {st : BerthState} (h : st.isAwaited = true) : st.isHeld = true := by
  cases st <;> first | rfl | cases h

theorem Law.arrive {n : Nat} {src : ArrivalSource} {c : Option Card} (h : Law k s) : Law k (s.arrive n src c) := by
  unfold State.arrive
  dsimp only
  split
  · rename_i e
    refine Law.post (h.setBerth (.of_occupant h (fun hk => ?_)))
    have := (h.berthOk n hk).held (BerthState.isHeld_of_awaited e) (st := .occupied) rfl
    exact ⟨this.1, this.2.1, this.2.2⟩
  · exact h

theorem Law.autoArrive {n : Nat} {src : ArrivalSource} {c : Card} (h : Law k s) : Law k (s.autoArrive n src c) := by
  unfold State.autoArrive
  split
  · exact h.arrive
  · exact h

theorem Law.endDeparture {n m : Nat} (h : Law k s) : Law k (s.endDeparture n m) :=
  (h.setBerth (.vacant (fun hk => (h.berthOk n hk).freed))).post

theorem Law.pointsAtRest {n : Nat} (h : Law k s) : Law k (s.pointsAtRest n) := by
  unfold State.pointsAtRest
  split
  · exact h.endDeparture
  · exact h

/-! ### Changes of a point -/

theorem Law.reportAtRest {r : PointRef} (h : Law k s) : Law k (s.reportAtRest r) := by
  unfold State.reportAtRest
  split
  · split
    · exact h.pointsAtRest
    · exact h
  · exact h

theorem Law.changeQuiet {r : PointRef} {x : Point} (h : Law k s) (hx : k = .points → PointOk x) : Law k (s.changeQuiet r x) := by
  unfold State.changeQuiet
  split
  · rename_i p e
    exact h.setPost (fun hk => (h.postOk e hk).change (hx hk) _ _)
  · exact h

theorem Law.changePoint {r : PointRef} {x : Point} (h : Law k s) (hx : k = .points → PointOk x) : Law k (s.changePoint r x) := by
  unfold State.changePoint
  split
  · split
    · exact (h.changeQuiet hx).reportAtRest
    · exact h.changeQuiet hx
  · exact h

theorem Law.storePoint {r : PointRef} {x : Point} (h : Law k s) (hx : k = .points → PointOk x) : Law k (s.storePoint r x) := by
  unfold State.storePoint
  split
  · rename_i p e
    exact h.setPost (fun hk => (h.postOk e hk).setPoint (hx hk) _ _)
  · exact h

theorem Law.markPost {a d : Nat} {b : Bool} (h : Law k s) : Law k (s.markPost a d b) := by
  unfold State.markPost
  split
  · rename_i p e
    exact h.setPost (fun hk => (h.postOk e hk).setMark b)
  · exact h

theorem Law.releasePoint {r : PointRef} {c : Cause} (h : Law k s) : Law k (s.releasePoint r c) := by
  unfold State.releasePoint
  split
  · rename_i p e
    exact h.setPost (fun hk => (h.postOk e hk).releasePoint _ _ _)
  · exact h

theorem Law.setDetector {a d side : Nat} {x : Detector} (h : Law k s) : Law k (s.setDetector a d side x) := by
  unfold State.setDetector
  split
  · rename_i p e
    exact h.setPost (fun hk => (h.postOk e hk).setDet _ _)
  · exact h

theorem Law.clearDetector {r : PointRef} (h : Law k s) : Law k (s.clearDetector r) := by
  unfold State.clearDetector
  split
  · rename_i p _ e
    exact h.setPost (fun hk => (h.postOk e hk).setDet _ _)
  · exact h

/-! ### Accounts -/

theorem Law.accountOk (h : Law k s) (n : Nat) : k = .accounts → AccountOk (s.account n) := by
  rintro rfl
  exact h n

theorem Law.onStanding {n : Nat} {old new : Standing} (h : Law k s) : Law k (s.onStanding n old new) := by
  unfold State.onStanding
  dsimp only
  split
  · exact h
  · split
    · exact h
    · split
      · exact h
      · exact h.creditRelease.post
    · split
      · exact h.post
      · exact h.creditRelease.post
    · exact h.suspendAccount.post
    · exact h.suspendAccount.post

theorem Funds.standing_ne_closed (f : Funds) : (f.standing != .closed) = true := by cases f <;> rfl

theorem AccountOk.recomputed {a : Account} (h : AccountOk a) : AccountOk a.recomputed := by
  unfold Account.recomputed
  split
  · exact h
  · obtain ⟨h1, h2, h3, h4, h5, h6, h7, h8, h9⟩ := h
    refine ⟨h1, h2, h3, h4, h5, h6, h7, h8, ?_⟩
    dsimp only
    split
    · rfl
    · rw [Funds.standing_ne_closed]; rfl

theorem Account.recomputed_holds (a : Account) : a.recomputed.holds = a.holds := by
  unfold Account.recomputed
  split <;> rfl

theorem Account.recomputed_closed {a : Account} (h : a.recomputed.standing = .closed) : a.standing = .closed := by
  unfold Account.recomputed at h
  split at h
  · exact h
  · dsimp only at h
    split at h
    · cases h
    · revert h
      cases fundsAfter _ _ _ _ <;> exact fun h => by cases h

theorem Law.recompute {n : Nat} (h : Law k s) : Law k (s.recompute n) :=
  (h.setAccount (.of_holds h (fun hk => (h.accountOk n hk).recomputed) Account.recomputed_closed
    (fun _ => Account.recomputed_holds _))).onStanding

/-- An account changed by a request or an order, then recomputed. -/
theorem Law.accountChange {n : Nat} {a : Account} (h : Law k s) (ha : AccountFits k s n a) :
    Law k ((s.setAccount n a).recompute n) :=
  (h.setAccount ha).recompute

theorem AccountOk.charged {a : Account} (h : AccountOk a) (d : Nat) : AccountOk (a.charged d) := by
  obtain ⟨h1, h2, h3, h4, h5, h6, h7, h8, h9⟩ := h
  unfold Account.charged balanceFloor
  split
  · exact ⟨⟨by assumption, by dsimp only; omega⟩, h2, h3, h4, h5, h6, h7, h8, h9⟩
  · exact ⟨⟨by dsimp only; omega, by dsimp only; omega⟩, Nat.min_le_right .., h3, h4, h5, h6, h7, h8, h9⟩

theorem Account.charged_eq (a : Account) (d : Nat) : (a.charged d).standing = a.standing ∧ (a.charged d).holds = a.holds := by
  unfold Account.charged
  split <;> exact ⟨rfl, rfl⟩

theorem Law.debit {n d : Nat} {src : DebitSource} (h : Law k s) : Law k (s.debit n d src) := by
  unfold State.debit
  dsimp only
  split
  · exact h.accountChange (.of_holds h (fun hk => (h.accountOk n hk).charged d) (by rw [(Account.charged_eq _ _).1]; exact id)
      (fun _ => (Account.charged_eq _ _).2))
  · exact h.post

theorem freeHoldId_lt (hs : List Hold) : freeHoldId hs < 4 := by
  unfold freeHoldId
  rcases e : (List.range 4).find? (fun i => hs.all (fun h => h.id != i)) with _ | i
  · decide
  · exact List.mem_range.mp (List.mem_of_find?_eq_some e)

/-- The hold id chosen is free where fewer than four holds stand (R37). -/
theorem freeHoldId_free {hs : List Hold} (h4 : hs.length < 4) : freeHoldId hs ∉ hs.map (·.id) := by
  unfold freeHoldId
  rcases e : (List.range 4).find? (fun i => hs.all (fun h => h.id != i)) with _ | i
  · exfalso
    rw [List.find?_eq_none] at e
    have hc : ∀ i, i < 4 → i ∈ hs.map (·.id) := by
      intro i hi
      have := e i (List.mem_range.mpr hi)
      simp only [List.all_eq_true, bne_iff_ne, ne_eq] at this
      refine Classical.byContradiction (fun hn => this (fun x hx hi => hn ?_))
      exact List.mem_map.mpr ⟨x, hx, hi⟩
    have := (List.nodup_range (n := 4)).length_le_of_subset (l₂ := hs.map (·.id)) (fun i hi => hc i (List.mem_range.mp hi))
    simp at this
    omega
  · have := List.find?_some e
    simp only [List.all_eq_true, bne_iff_ne, ne_eq] at this
    intro hm
    obtain ⟨x, hx, hi⟩ := List.mem_map.mp hm
    exact this x hx hi

theorem Account.holdRefusal_none {a : Account} {w m : Nat} (h : a.holdRefusal w m = none) : a.holds.length < 4 := by
  unfold Account.holdRefusal at h
  split at h <;> try cases h
  split at h
  · cases h
  · omega

theorem AccountOk.withHold {a : Account} (h : AccountOk a) (h4 : a.holds.length < 4) (p m : Nat) :
    AccountOk { a with holds := a.holds ++ [{ id := freeHoldId a.holds, pump := p, amount := m }] } := by
  obtain ⟨h1, h2, h3, h4', h5, h6, h7, h8, h9⟩ := h
  refine ⟨h1, h2, h3, h4', h5, by simp; omega, ?_, ?_, h9⟩
  · intro e he
    rcases List.mem_append.mp he with he | he
    · exact h7 e he
    · rw [List.mem_singleton.mp he]
      exact freeHoldId_lt _
  · simp only [List.map_append, List.map_cons, List.map_nil]
    rw [List.nodup_append]
    refine ⟨h8, by simp, fun i hi j hj => ?_⟩
    rw [List.mem_singleton.mp hj]
    intro e
    exact freeHoldId_free h4 (e ▸ hi)

/-- A HOLD keeps every law but that of the holds, which it keeps only with the sale it is placed for (R36). -/
theorem Law.hold {n p w m : Nat} (h : Law k s) (hh : k ≠ .holds) : Law k (s.hold n p w m).1 := by
  unfold State.hold
  dsimp only
  split
  · exact h
  · rename_i e
    exact h.accountChange (.of_holds h (fun hk => (h.accountOk n hk).withHold (Account.holdRefusal_none e) _ _) id
      (fun hk => absurd hk hh))

theorem AccountOk.withoutHold {a : Account} (h : AccountOk a) (i : Nat) : AccountOk (a.withoutHold i) := by
  obtain ⟨h1, h2, h3, h4, h5, h6, h7, h8, h9⟩ := h
  exact ⟨h1, h2, h3, h4, h5, Nat.le_trans (List.length_filter_le ..) h6, fun e he => h7 e (List.mem_filter.mp he).1,
    (List.filter_sublist.map _).nodup h8, h9⟩

/-- A SETTLE keeps every law but that of the holds, which it keeps only with the end of its sale (R36). -/
theorem Law.settle {n i d : Nat} (h : Law k s) (hh : k ≠ .holds) : Law k (s.settle n i d) := by
  unfold State.settle
  dsimp only
  split
  · exact (h.accountChange (.of_holds h (fun hk => ((h.accountOk n hk).withoutHold i).charged d)
      (by rw [(Account.charged_eq _ _).1]; exact id) (fun hk => absurd hk hh))).postIf
  · exact h.post

/-- A RELEASE likewise. -/
theorem Law.release {n i : Nat} (h : Law k s) (hh : k ≠ .holds) : Law k (s.release n i) := by
  unfold State.release
  dsimp only
  split
  · exact h.accountChange (.of_holds h (fun hk => (h.accountOk n hk).withoutHold i) id (fun hk => absurd hk hh))
  · exact h.post

/-! ### The pairing of holds and sales (R36) -/

section
variable {f : Nat → Option (Nat × Hold)}

/-- What the pumps stand for with one pump's part replaced. -/
def withHolder (f : Nat → Option (Nat × Hold)) (p : Nat) (v : Option (Nat × Hold)) : Nat → Option (Nat × Hold) :=
  fun q => if q = p then v else f q

theorem withHolder_self {p : Nat} {v : Option (Nat × Hold)} : withHolder f p v p = v := if_pos rfl

theorem withHolder_ne {p q : Nat} {v : Option (Nat × Hold)} (h : q ≠ p) : withHolder f p v q = f q := if_neg h

theorem State.accounts_onStanding (s : State) (n : Nat) (x y : Standing) : (s.onStanding n x y).accounts = s.accounts := by
  unfold State.onStanding
  dsimp only
  repeat' split
  all_goals rfl

theorem DockSame.post {t : State} {b : NoticeBody} (h : DockSame s t) : DockSame s (t.post b) := h

theorem DockSame.creditRelease (s : State) (n : Nat) : DockSame s (s.creditRelease n) := .mapPosts s _

theorem DockSame.suspendAccount (s : State) (n : Nat) (r : SuspReason) : DockSame s (s.suspendAccount n r) := .mapPosts s _

theorem DockSame.onStanding (s : State) (n : Nat) (x y : Standing) : DockSame s (s.onStanding n x y) := by
  unfold State.onStanding
  dsimp only
  split
  · exact .refl s
  · split
    · exact .refl s
    · split
      · exact .refl s
      · exact (DockSame.creditRelease s n).post
    · split
      · exact (DockSame.refl s).post
      · exact (DockSame.creditRelease s n).post
    · exact (DockSame.suspendAccount s n _).post
    · exact (DockSame.suspendAccount s n _).post

theorem HoldsPaired.same {t : State} (h : HoldsPaired f s) (e : t.accounts = s.accounts) : HoldsPaired f t := by
  have e : ∀ n, t.account n = s.account n := fun n => by unfold State.account; rw [e]
  refine ⟨fun n x => by rw [e]; exact h.entry n x, fun n => by rw [e]; exact h.ids n, fun n => by rw [e]; exact h.closed n⟩

theorem HoldsPaired.recompute {n : Nat} (h : HoldsPaired f s) : HoldsPaired f (s.recompute n) := by
  refine (h.setAccount (Account.recomputed_holds _) (fun hc => ?_)).same (State.accounts_onStanding ..)
  rw [Account.recomputed_holds]
  exact h.closed n (Account.recomputed_closed hc)

theorem DockSame.recompute (s : State) (n : Nat) : DockSame s (s.recompute n) :=
  DockSame.onStanding (s.setAccount n _) n _ _

theorem State.account_default {n : Nat} (h : ¬ (1 ≤ n ∧ n ≤ 256)) : s.account n = Account.reset := by
  unfold State.account
  cases n with
  | zero => rfl
  | succ n =>
    have : ¬ n < 256 := by omega
    simp [numGet, tabGet, this]

theorem DockSame.accountChange (s : State) (n : Nat) (a : Account) : DockSame s ((s.setAccount n a).recompute n) :=
  DockSame.recompute (s.setAccount n a) n

/-- A granted HOLD: its entry stands for the pump, and nothing else changes (R37). -/
theorem HoldsPaired.hold {n p w m i x : Nat} {t : State} (h : HoldsPaired f s) (hf : f p = none)
    (e : s.hold n p w m = (t, .ok (i, x))) :
    HoldsPaired (withHolder f p (some (n, { id := i, pump := p, amount := x }))) t ∧ DockSame s t := by
  unfold State.hold at e
  dsimp only at e
  split at e
  · cases e
  rename_i hr
  cases e
  have h4 := Account.holdRefusal_none hr
  have ho : (s.account n).standing ≠ .closed := fun c => by simp [Account.holdRefusal, c] at hr
  have hn : 1 ≤ n ∧ n ≤ 256 := Classical.byContradiction (fun c => ho (by rw [State.account_default c]; rfl))
  refine ⟨HoldsPaired.recompute ⟨fun k e => ?_, fun k => ?_, fun k => ?_⟩, DockSame.accountChange s n _⟩ <;>
    rw [State.account_setAccount]
  · by_cases hk : n = k
    · subst hk
      rw [if_pos ⟨rfl, hn⟩]
      simp only [List.mem_append, List.mem_singleton]
      by_cases hp : e.pump = p
      · rw [hp, withHolder_self]
        constructor
        · rintro (c | c)
          · have := (h.entry n e).mp c
            rw [hp, hf] at this
            cases this
          · rw [c]
        · intro c
          cases c
          exact .inr rfl
      · rw [withHolder_ne hp, ← h.entry n e]
        exact ⟨fun c => c.resolve_right (fun c => hp (by rw [c])), .inl⟩
    · rw [if_neg (fun c => hk c.1), h.entry k e]
      by_cases hp : e.pump = p
      · rw [hp, hf, withHolder_self]
        constructor
        · intro c; cases c
        · intro c; cases c; exact absurd rfl hk
      · rw [withHolder_ne hp]
  · split
    · rw [List.map_append, List.nodup_append]
      refine ⟨h.ids n, by simp, fun a ha b hb e => ?_⟩
      rw [List.mem_singleton.mp hb] at e
      have e : a = freeHoldId (s.account n).holds := e
      exact freeHoldId_free h4 (e ▸ ha)
    · exact h.ids k
  · split
    · exact fun c => absurd c ho
    · exact h.closed k

/-- A hold id names one entry of a list. -/
theorem holds_inj {l : List Hold} (h : (l.map (·.id)).Nodup) {x y : Hold} (hx : x ∈ l) (hy : y ∈ l) (e : x.id = y.id) : x = y := by
  induction l with
  | nil => cases hx
  | cons a l ih =>
    obtain ⟨ha, hl⟩ := List.nodup_cons.mp h
    rcases List.mem_cons.mp hx with rfl | mx <;> rcases List.mem_cons.mp hy with rfl | my
    · rfl
    · exact (ha (List.mem_map.mpr ⟨y, my, e.symm⟩)).elim
    · exact (ha (List.mem_map.mpr ⟨x, mx, e⟩)).elim
    · exact ih hl mx my

/-- An account loses the entry that stands for a pump. -/
theorem HoldsPaired.withoutHold {n p : Nat} {e0 : Hold} {a : Account} (h : HoldsPaired f s) (hf : f p = some (n, e0)) (hp : e0.pump = p)
    (ha : a.holds = (s.account n).holds.filter (fun e => e.id != e0.id)) (hs : a.standing = (s.account n).standing) :
    HoldsPaired (withHolder f p none) (s.setAccount n a) := by
  have hm : e0 ∈ (s.account n).holds := (h.entry n e0).mpr (hp ▸ hf)
  have ho : (s.account n).standing ≠ .closed := fun c => by rw [h.closed n c] at hm; cases hm
  have hn : 1 ≤ n ∧ n ≤ 256 := Classical.byContradiction (fun c => ho (by rw [State.account_default c]; rfl))
  refine ⟨fun k e => ?_, fun k => ?_, fun k => ?_⟩ <;> rw [State.account_setAccount]
  · by_cases hk : n = k
    · subst hk
      rw [if_pos ⟨rfl, hn⟩, ha, List.mem_filter, h.entry n e]
      by_cases he : e.pump = p
      · rw [he, hf, withHolder_self]
        constructor
        · rintro ⟨c, d⟩
          cases c
          simp at d
        · intro c; cases c
      · rw [withHolder_ne he]
        refine ⟨And.left, fun c => ⟨c, ?_⟩⟩
        have hm' := (h.entry n e).mpr c
        rw [bne_iff_ne]
        intro hid
        exact he (by rw [← hp, holds_inj (h.ids n) hm' hm hid])
    · rw [if_neg (fun c => hk c.1), h.entry k e]
      by_cases he : e.pump = p
      · rw [he, hf, withHolder_self]
        constructor
        · intro c; cases c; exact absurd rfl hk
        · intro c; cases c
      · rw [withHolder_ne he]
  · split
    · rw [ha]
      exact (List.filter_sublist.map _).nodup (h.ids n)
    · exact h.ids k
  · split
    · exact fun c => absurd (hs ▸ c) ho
    · exact h.closed k

/-- The settlement of a pump's hold (R38). -/
theorem HoldsPaired.settle {n p d : Nat} {e0 : Hold} (h : HoldsPaired f s) (hf : f p = some (n, e0)) (hp : e0.pump = p) :
    HoldsPaired (withHolder f p none) (s.settle n e0.id d) ∧ DockSame s (s.settle n e0.id d) := by
  have hm : e0 ∈ (s.account n).holds := (h.entry n e0).mpr (hp ▸ hf)
  have ho : (s.account n).isOpen = true := by
    unfold Account.isOpen
    rw [bne_iff_ne]
    exact fun c => by rw [h.closed n c] at hm; cases hm
  unfold State.settle State.postIf
  dsimp only
  rw [if_pos ho]
  have h1 : HoldsPaired (withHolder f p none)
      (s.setAccount n (((s.account n).withoutHold e0.id).charged d)) :=
    h.withoutHold hf hp ((Account.charged_eq _ _).2.trans rfl) ((Account.charged_eq _ _).1.trans rfl)
  split
  · exact ⟨h1.recompute, (DockSame.accountChange s n _).post⟩
  · exact ⟨h1.recompute, DockSame.accountChange s n _⟩

/-- The release of a pump's hold (R39). -/
theorem HoldsPaired.release {n p : Nat} {e0 : Hold} (h : HoldsPaired f s) (hf : f p = some (n, e0)) (hp : e0.pump = p) :
    HoldsPaired (withHolder f p none) (s.release n e0.id) ∧ DockSame s (s.release n e0.id) := by
  have hm : e0 ∈ (s.account n).holds := (h.entry n e0).mpr (hp ▸ hf)
  have ho : ((s.account n).isOpen && (s.account n).hasHold e0.id) = true := by
    unfold Account.isOpen Account.hasHold
    rw [Bool.and_eq_true, bne_iff_ne, List.any_eq_true]
    refine ⟨fun c => ?_, e0, hm, BEq.rfl⟩
    rw [h.closed n c] at hm
    cases hm
  unfold State.release
  dsimp only
  rw [if_pos ho]
  have h1 : HoldsPaired (withHolder f p none) (s.setAccount n ((s.account n).withoutHold e0.id)) := h.withoutHold hf hp rfl rfl
  exact ⟨h1.recompute, DockSame.accountChange s n _⟩

end

/-! ### Sessions -/

theorem Session.rounded_residue (ses : Session) : ses.rounded.residue = 0 := by
  unfold Session.rounded
  split <;> rfl

theorem Law.roundSession {r : PointRef} {x : Point} {ses : Session} (h : Law k s) (hx : k = .points → PointOk x)
    (e : x.session = some ses) : Law k (s.roundSession r x ses) := by
  have h1 : Law k (s.storePoint r { x with session := some ses.rounded }) :=
    h.storePoint (fun hk => (hx hk).session e (by rw [Session.rounded_residue]; omega))
  unfold State.roundSession
  dsimp only
  split
  · exact h1.debit
  · exact h1

theorem Law.endSession {r : PointRef} {c : CloseReason} {next : PointState} {b : Bool} (h : Law k s)
    (hn : next.atRest = true) : Law k (s.endSession r c next b) := by
  unfold State.endSession
  split
  · rename_i y ey
    split
    · dsimp only
      refine Law.clearDetector ?_
      split
      · exact h.post.changePoint (fun hk => (h.pointOk ey hk).atRest hn)
      · exact h.post.changeQuiet (fun hk => (h.pointOk ey hk).atRest hn)
    · exact h
  · exact h

theorem Law.closeSession {r : PointRef} {c : CloseReason} {next : PointState} {b : Bool} (h : Law k s)
    (hn : next.atRest = true) : Law k (s.closeSession r c next b) := by
  unfold State.closeSession
  split
  · rename_i x ex
    split
    · rename_i ses es
      exact (h.roundSession (h.pointOk ex) es).endSession hn
    · exact h
  · exact h

/-! ### Metering -/

theorem Law.meterFault {r : PointRef} {b : Baseline} {n d e l : Nat} (h : Law k s) : Law k (s.meterFault r b n d e l) := by
  unfold State.meterFault
  split
  · rename_i x ex
    dsimp only
    refine Law.post ?_
    cases es : x.session with
    | some ses =>
      have h1 : Law k (s.closeSession r .fault .fault true) := h.closeSession rfl
      dsimp only
      split
      · rename_i y ey
        have hy := h1.pointOk ey
        exact h1.storePoint (fun hk => by exact hy hk)
      · exact h1
    | none =>
      have h1 : Law k (s.changePoint r { x with state := .fault, session := none }) :=
        h.changePoint (fun hk => (h.pointOk ex hk).atRest rfl)
      dsimp only
      split
      · rename_i y ey
        have hy := h1.pointOk ey
        exact h1.storePoint (fun hk => by exact hy hk)
      · exact h1
  · exact h

theorem Session.accrued_residue (ses : Session) (d r : Nat) : (ses.accrued d r).residue ≤ 999 :=
  Nat.le_of_lt_succ (Nat.mod_lt _ (by decide))

theorem Law.accrue {r : PointRef} {x : Point} {ses : Session} {b : Baseline} {n d : Nat} (h : Law k s)
    (hx : k = .points → PointOk x) (e : x.session = some ses) : Law k (s.accrue r x ses b n d) := by
  unfold State.accrue
  dsimp only
  split
  · split
    · exact h.meterFault
    · have h1 : Law k (s.storePoint r { x with
          baseline := some { reading := n, time := s.clock }
          session := some (ses.accrued d (bandRate s.rateRows r.svc (bandAt s.rateRows s.clock))) }) :=
        h.storePoint (fun hk => (hx hk).session e (Session.accrued_residue ..))
      split
      · exact h1
      · exact h1.debit
  · have hr : k = .points → ses.residue ≤ 999 := fun hk => (hx hk).residue e
    exact h.storePoint (fun hk => (hx hk).session e (by exact hr hk))

theorem Law.addUnattributed {r : PointRef} {x : Point} {n d : Nat} (h : Law k s) (hx : k = .points → PointOk x) :
    Law k (s.addUnattributed r x n d) := by
  unfold State.addUnattributed
  dsimp only
  split
  · exact h.storePoint hx
  · split
    · exact (h.storePoint (fun hk => by exact ⟨(hx hk).1, Nat.zero_le _, (hx hk).2.2⟩)).post
    · exact h.storePoint (fun hk => by exact ⟨(hx hk).1, Nat.min_le_right .., (hx hk).2.2⟩)

theorem Law.takeReading {r : PointRef} {n : Nat} (h : Law k s) : Law k (s.takeReading r n) := by
  unfold State.takeReading
  split
  · exact h
  · rename_i x ex
    have hx := h.pointOk ex
    split
    · exact h.storePoint hx
    · dsimp only
      split
      · exact h.meterFault
      · split
        · rename_i e
          exact h.accrue hx e
        · exact h.addUnattributed hx

/-! ### Detectors and trips -/

theorem Law.tripTo {r : PointRef} {x : Point} {ses : Session} {next : PointState} {f : TripFigures} (h : Law k s)
    (hx : k = .points → PointOk x) (e : x.session = some ses) (hn : next.atRest = false) : Law k (s.tripTo r x ses next f) := by
  unfold State.tripTo
  dsimp only
  refine Law.post (Law.markPost (h.changePoint (fun hk => ?_)))
  have hr := (hx hk).residue e
  exact (hx hk).inSession hn (by exact hr)

theorem Law.trip {r : PointRef} {f : TripFigures} (h : Law k s) : Law k (s.trip r f) := by
  unfold State.trip
  dsimp only
  refine Law.setDetector ?_
  split
  · rename_i x ex
    have hx := h.pointOk ex
    split
    · rename_i ses es
      split
      · exact h.tripTo hx es rfl
      · exact h.tripTo hx es rfl
      · exact h.tripTo hx es rfl
      · split
        · exact h.tripTo hx es rfl
        · exact h
      · exact h
    · exact h
  · exact h

theorem Law.shortDetector {r : PointRef} {a b c d : Nat} (h : Law k s) : Law k (s.shortDetector r a b c d) := by
  unfold State.shortDetector
  dsimp only
  generalize (if c ≤ a then (s.detector r.arm r.addr r.side).run + 1 else 0) = n
  split
  · exact h.trip
  · exact h.setDetector

theorem Law.judgeWindow {r : PointRef} {a b c : Nat} (h : Law k s) : Law k (s.judgeWindow r a b c) := by
  unfold State.judgeWindow
  dsimp only
  split
  · exact h.trip
  · split
    · split
      · exact h
      · exact h.setDetector.post
    · exact h.setDetector

theorem Law.overloadDetector {r : PointRef} {a b c : Nat} (h : Law k s) : Law k (s.overloadDetector r a b c) := by
  unfold State.overloadDetector
  dsimp only
  split
  · exact h.judgeWindow.setDetector
  · exact h.setDetector

theorem Law.recordCurrent {r : PointRef} {x : Point} {ses : Session} {c : Nat} (h : Law k s)
    (hx : k = .points → PointOk x) (e : x.session = some ses) : Law k (s.recordCurrent r x ses c) := by
  have hr : k = .points → ses.residue ≤ 999 := fun hk => (hx hk).residue e
  exact (h.storePoint (fun hk => (hx hk).session e (t := { ses with peak := max ses.peak c }) (hr hk))).setDetector

theorem Law.takeSample {a d side raw : Nat} (h : Law k s) : Law k (s.takeSample a d side raw) := by
  unfold State.takeSample
  dsimp only
  split
  · rename_i x _ ex
    split
    · rename_i e
      exact ((h.recordCurrent (h.pointOk ex) e).shortDetector).overloadDetector
    · exact h.setDetector
  · exact h

/-! ### A post's status reply -/

theorem Law.openSession {r : PointRef} {n : Nat} {c : Option Card} (h : Law k s) : Law k (s.openSession r n c) := by
  unfold State.openSession
  split
  · rename_i x ex
    exact h.changePoint (fun hk => (h.pointOk ex hk).inSession (by rfl) (by exact Nat.zero_le _))
  · exact h

theorem Law.startClosing {r : PointRef} {c : CloseReason} (h : Law k s) : Law k (s.startClosing r c) := by
  unfold State.startClosing
  split
  · rename_i x ex
    split
    · rename_i ses es
      have hr : k = .points → ses.residue ≤ 999 := fun hk => (h.pointOk ex hk).residue es
      exact h.changePoint (fun hk => (h.pointOk ex hk).inSession (by rfl) (by exact hr hk))
    · exact h
  · exact h

theorem Law.forPoints {rs : List PointRef} {p : State → PointRef → Bool} {f : State → PointRef → State}
    (hf : ∀ t r, Law k t → Law k (f t r)) (h : Law k s) : Law k (s.forPoints rs p f) := by
  refine Law.foldl (fun t r ht => ?_) rs h
  split
  · exact hf t r ht
  · exact ht

/-- A point that stands in a state with a session, in another such state. -/
theorem PointOk.restate {x : Point} {st : PointState} (h : PointOk x) (hx : x.state.atRest = false) (hs : st.atRest = false) :
    PointOk { x with state := st, unconfirmed := 0 } :=
  ⟨by rw [h.1, hx, hs], h.2.1, Nat.zero_le _, h.2.2.2⟩

theorem Law.confirm {r : PointRef} {on : Bool} (h : Law k s) : Law k (s.confirm r on) := by
  unfold State.confirm
  split
  · exact h
  · rename_i x ex
    split
    · rename_i e
      split
      · exact h.changePoint (fun hk => (h.pointOk ex hk).restate (by rw [e]; rfl) (by rfl))
      · exact h
    · split
      · exact h
      · split
        · exact h.closeSession rfl
        · exact h
    · exact h

theorem Law.judgeSettled {r : PointRef} {on : Bool} (h : Law k s) : Law k (s.judgeSettled r on) := by
  unfold State.judgeSettled
  split
  · exact h
  · rename_i x ex
    have hx := h.pointOk ex
    have hz : k = .points → PointOk { x with unconfirmed := 0 } :=
      fun hk => ⟨(hx hk).1, (hx hk).2.1, Nat.zero_le _, (hx hk).2.2.2⟩
    have hi : ¬ 3 ≤ x.unconfirmed + 1 → k = .points → PointOk { x with unconfirmed := x.unconfirmed + 1 } :=
      fun e hk => ⟨(hx hk).1, (hx hk).2.1, by dsimp only; omega, (hx hk).2.2.2⟩
    dsimp only
    split
    · exact h.storePoint hz
    · split
      · split
        · exact (h.closeSession rfl).post
        · exact h.storePoint (hi ‹_›)
      · rename_i e
        exact ((h.changePoint (fun hk => (hx hk).restate (by rw [e]; rfl) (by rfl))).markPost).post
      · split
        · exact ((h.storePoint hz).markPost).post
        · exact h.storePoint (hi ‹_›)

theorem Law.takeReported {r : PointRef} {on settled : Bool} {b : Option PointState} (h : Law k s) :
    Law k (s.takeReported r on settled b) := by
  unfold State.takeReported
  dsimp only
  split
  · exact h.confirm.judgeSettled
  · exact h.confirm

theorem Law.tryReleases {rs : List PointRef} {c : Cause} (h : Law k s) : Law k (s.tryReleases rs c).1 := by
  unfold State.tryReleases
  suffices ∀ (p : State × List Service), Law k p.1 → Law k (rs.foldl (fun t r =>
      if t.1.releaseFailure r c = none then (t.1.releasePoint r c, t.2 ++ [r.svc]) else t) p).1 from this (s, []) h
  induction rs with
  | nil => exact fun _ hp => hp
  | cons r rs ih =>
    intro p hp
    rw [List.foldl_cons]
    split
    · exact ih _ hp.releasePoint
    · exact ih _ hp

theorem Law.judgeTap {a d side : Nat} {c : Card} {ans : MatchAnswer} (h : Law k s) : Law k (s.judgeTap a d side c ans).1 := by
  unfold State.judgeTap
  dsimp only
  split
  · exact h
  · exact h
  · split
    · exact h
    · split
      · exact h
      · split
        · exact Law.foldl (fun _ _ ht => ht.startClosing) _ h
        · split
          · split
            · exact h
            · exact Law.foldl (fun _ _ ht => ht.openSession) _ h
          · have := h.tryReleases (rs := sideRefs a d side) (c := .tap)
            split
            · exact h
            · rename_i e
              rw [e] at this
              exact this

theorem Law.tapArrival {a d side : Nat} {c : Card} {ans : MatchAnswer} (h : Law k s) : Law k (s.tapArrival a d side c ans) := by
  unfold State.tapArrival
  split
  · split
    · exact h.autoArrive
    · exact h
  · exact h

theorem Law.tap {a d side : Nat} {c : Card} (h : Law k s) : Law k (s.tap a d side c) := by
  have h1 := (h.tapArrival (a := a) (d := d) (side := side) (c := c) (ans := s.consult c)).judgeTap (a := a) (d := d) (side := side)
    (c := c) (ans := s.consult c)
  unfold State.tap
  dsimp only
  split <;> (rename_i e; rw [e] at h1; exact h1.post)

theorem Law.postStatus {a d : Nat} {st : PostStatus} (h : Law k s) : Law k (s.postStatus a d st) := by
  have h1 : Law k (((s.takeReadings a d st).takeSamples a d st).takeReports a d st) := by
    unfold State.takeReports State.takeSamples State.takeReadings
    exact ((((((h.takeReading.takeReading).takeReading).takeReading).takeSample.takeSample).takeReported.takeReported).takeReported).takeReported
  unfold State.postStatus
  dsimp only
  split
  · exact h1.tap
  · exact h1

/-! ### Departures -/

theorem Law.checkOutOrder {n : Nat} (h : Law k s) : Law k (s.checkOutOrder n) :=
  h.forPoints (fun _ _ ht => ht.startClosing)

theorem Law.departureTimeout {n : Nat} (h : Law k s) : Law k (s.departureTimeout n) := by
  unfold State.departureTimeout State.forceClose
  dsimp only
  split
  · exact (h.forPoints (fun _ _ ht => ht.closeSession rfl)).endDeparture
  · exact h

end Sys2Proof.Machine
end

