-- ==== Sys2Proof/Laws/KeptDock.lean ====
section
/-! SUPPORT. The laws of Safety.lean are kept by what the blocks do to gates, the presence list, pumps and relay requests (GateOps.lean,
FuelOps.lean, RelayOps.lean). -/

set_option Elab.async false

namespace Sys2Proof.Machine

variable {k : LawName} {s : State}

/-! ### Presence -/

theorem State.presenceOf_none {c : Card} (h : s.presenceOf c = none) : c ∉ s.presence.map (·.card) := by
  intro hm
  obtain ⟨r, hr, rfl⟩ := List.mem_map.mp hm
  have := List.find?_eq_none.mp h r hr
  simp at this

theorem State.presenceOf_some {c : Card} {r : Presence} (h : s.presenceOf c = some r) : r ∈ s.presence ∧ r.card = c :=
  ⟨List.mem_of_find?_eq_some h, by simpa using List.find?_some h⟩

theorem withoutCard_cards (l : List Presence) (c : Card) : c ∉ (withoutCard l c).map (·.card) := by
  intro hm
  obtain ⟨r, hr, rfl⟩ := List.mem_map.mp hm
  simpa [withoutCard] using (List.mem_filter.mp hr).2

theorem withoutCard_nodup {l : List Presence} (h : (l.map (·.card)).Nodup) (c : Card) : ((withoutCard l c).map (·.card)).Nodup :=
  (List.filter_sublist.map _).nodup h

theorem withoutCard_countP (l : List Presence) (c : Card) (p : Nat) :
    (withoutCard l c).countP (fun r => r.pontoon == p) ≤ l.countP (fun r => r.pontoon == p) :=
  List.filter_sublist.countP_le

/-- Removing a card's record lowers the count of the pontoon it names. -/
theorem withoutCard_countP_lt {l : List Presence} {r : Presence} (h : r ∈ l) :
    (withoutCard l r.card).countP (fun x => x.pontoon == r.pontoon) < l.countP (fun x => x.pontoon == r.pontoon) := by
  induction l with
  | nil => cases h
  | cons x l ih =>
    have hle := withoutCard_countP l r.card r.pontoon
    simp only [withoutCard] at hle ih ⊢
    rw [List.filter_cons, List.countP_cons]
    by_cases hx : x = r
    · subst hx
      simp
      omega
    · have hl := ih ((List.mem_cons.mp h).resolve_left (fun e => hx e.symm))
      split
      · rw [List.countP_cons]; omega
      · omega

theorem withoutCard_length {l : List Presence} {r : Presence} (h : r ∈ l) : (withoutCard l r.card).length < l.length := by
  refine Nat.lt_of_le_of_ne (List.length_filter_le ..) (fun e => ?_)
  have := List.length_filter_eq_length_iff.mp e r h
  simp at this

theorem Law.withoutCard {c : Card} (h : Law k s) : Law k (s.setPresence (withoutCard s.presence c)) := by
  refine h.setPresence (fun hk => ?_)
  subst hk
  exact ⟨Nat.le_trans (List.length_filter_le ..) h.1, withoutCard_nodup h.2.1 c,
    fun p hp => Nat.le_trans (withoutCard_countP s.presence c p) (h.2.2 p hp)⟩

/-- A list with a card's record appended, where the card is not in it and the count and the length leave room. -/
theorem PresenceLaw.append (h : PresenceLaw s) {l : List Presence} {r : Presence} (hn : (l.map (·.card)).Nodup)
    (hc : r.card ∉ l.map (·.card)) (hl : l.length < 256)
    (hp : ∀ p, p < 6 → l.countP (fun x => x.pontoon == p) ≤ s.count p)
    (hr : r.pontoon < 6 → l.countP (fun x => x.pontoon == r.pontoon) < (s.pontoon r.pontoon).limit) :
    PresenceLaw (s.setPresence (l ++ [r])) := by
  refine ⟨by simp; omega, ?_, fun p hp6 => ?_⟩
  · show ((l ++ [r]).map _).Nodup
    rw [List.map_append, List.nodup_append]
    refine ⟨hn, by simp, fun a ha b hb e => hc ?_⟩
    simp only [List.map_cons, List.map_nil, List.mem_singleton] at hb
    rw [← hb, ← e]
    exact ha
  · show (l ++ [r]).countP _ ≤ (s.pontoon p).limit
    rw [List.countP_append]
    have h1 := hp p hp6
    have h2 := h.2.2 p hp6
    by_cases e : r.pontoon = p
    · subst e
      have := hr hp6
      simp
      omega
    · simp [e]
      omega

theorem Law.presenceIn {p : Nat} {c : Card} (h : Law k s)
    (hf : ¬ (s.addsTo p c = true ∧ (s.pontoon p).limit < s.count p + 1))
    (hl : ¬ (s.inOutcome p c = .added ∧ 256 < s.presence.length + 1)) : Law k (s.setPresence (s.presenceIn p c)) := by
  unfold State.presenceIn
  split
  · rename_i e
    refine h.setPresence (fun hk => ?_)
    subst hk
    have hnone : s.presenceOf c = none := by
      unfold State.inOutcome at e
      split at e
      · cases e
      · split at e
        · assumption
        · split at e <;> cases e
    have ha : s.addsTo p c = true := by simp [State.addsTo, e]
    have hlt : s.presence.length < 256 := by
      have := h.1
      have : ¬ 256 < s.presence.length + 1 := fun hh => hl ⟨e, hh⟩
      omega
    refine PresenceLaw.append h h.2.1 (State.presenceOf_none hnone) hlt (fun _ _ => Nat.le_refl _) (fun _ => ?_)
    have : ¬ (s.pontoon p).limit < s.count p + 1 := fun hh => hf ⟨ha, hh⟩
    show s.count p < (s.pontoon p).limit
    omega
  · rename_i e
    refine h.setPresence (fun hk => ?_)
    subst hk
    obtain ⟨r, hr⟩ : ∃ r, s.presenceOf c = some r := by
      unfold State.inOutcome at e
      split at e
      · cases e
      · split at e
        · cases e
        · exact ⟨_, ‹_›⟩
    obtain ⟨hm, rfl⟩ := State.presenceOf_some hr
    have hlen := withoutCard_length hm
    have h256 := h.1
    refine PresenceLaw.append h (withoutCard_nodup h.2.1 _) (by exact withoutCard_cards _ _) (by omega)
      (fun q _ => withoutCard_countP s.presence r.card q) (fun hp6 => ?_)
    by_cases ep : r.pontoon = p
    · have h1 := withoutCard_countP_lt hm
      have h2 := h.2.2 p hp6
      show (Machine.withoutCard s.presence r.card).countP (fun x => x.pontoon == p) < (s.pontoon p).limit
      rw [ep] at h1
      exact Nat.lt_of_lt_of_le h1 h2
    · have ha : s.addsTo p r.card = true := by simp [State.addsTo, e, hr, ep]
      have h3 : ¬ (s.pontoon p).limit < s.count p + 1 := fun hh => hf ⟨ha, hh⟩
      have h1 := withoutCard_countP s.presence r.card p
      show (Machine.withoutCard s.presence r.card).countP (fun x => x.pontoon == p) < (s.pontoon p).limit
      have h4 : s.count p = s.presence.countP (fun r => r.pontoon == p) := rfl
      omega
  · exact h.setPresence (fun hk => by subst hk; exact h)

theorem Law.presenceOut {p : Nat} {c : Card} (h : Law k s) : Law k (s.setPresence (s.presenceOut p c)) := by
  unfold State.presenceOut
  split
  · exact h.withoutCard
  · exact h.withoutCard
  · exact h.setPresence (fun hk => by subst hk; exact h)

/-! ### Gates -/

theorem Law.gateArrival {row : CredRow} {c : Card} (h : Law k s) : Law k (s.gateArrival row c) := by
  unfold State.gateArrival
  split
  · exact h.autoArrive
  · exact h

theorem Law.grantIn {g : Nat} {c : Card} {row : CredRow} (h : Law k s)
    (hf : ¬ (s.addsTo (s.gatePontoon g) c = true ∧ (s.pontoon (s.gatePontoon g)).limit < s.count (s.gatePontoon g) + 1))
    (hl : ¬ (s.inOutcome (s.gatePontoon g) c = .added ∧ 256 < s.presence.length + 1)) : Law k (s.grantIn g c row) := by
  unfold State.grantIn State.releaseGate
  exact ((h.presenceIn hf hl).setGate).gateArrival.post

theorem State.entryDenial_none {p : Nat} {c : Card} {ans : MatchAnswer} (h : s.entryDenial p c ans = none) :
    ¬ (s.addsTo p c = true ∧ (s.pontoon p).limit < s.count p + 1) ∧
    ¬ (s.inOutcome p c = .added ∧ 256 < s.presence.length + 1) := by
  unfold State.entryDenial at h
  split at h
  · cases h
  · cases h
  · iterate 5 (split at h; · cases h)
    split at h
    · cases h
    · split at h
      · cases h
      · exact ⟨‹_›, ‹_›⟩

theorem Law.denyIn {g : Nat} {c : Card} {row : Option CredRow} {d : Denial} (h : Law k s) : Law k (s.denyIn g c row d) :=
  h.setGate.post

theorem Law.readIn {g : Nat} {c : Card} (h : Law k s) : Law k (s.readIn g c) := by
  unfold State.readIn
  split
  · exact h.denyIn
  · exact h.post
  · dsimp only
    split
    · rename_i e _
      exact h.grantIn (State.entryDenial_none e).1 (State.entryDenial_none e).2
    · exact h.denyIn
    · exact h

theorem Law.releaseUnlessFree {g : Nat} (h : Law k s) : Law k (s.releaseUnlessFree g) := by
  unfold State.releaseUnlessFree
  split
  · exact h
  · exact h.setGate

theorem Law.readOut {g : Nat} {c : Card} (h : Law k s) : Law k (s.readOut g c) :=
  h.presenceOut.releaseUnlessFree.post

theorem Law.exitButton {g : Nat} (h : Law k s) : Law k (s.exitButton g) :=
  h.releaseUnlessFree.post

theorem Law.doorReport {g : Nat} {b : Bool} (h : Law k s) : Law k (s.doorReport g b) := by
  unfold State.doorReport
  dsimp only
  split
  · exact h.setGate
  · split
    · exact h.setGate.post
    · exact h.setGate
    · exact h.setGate
    · exact h.setGate.post
    · exact h.setGate.post
    · exact h.setGate

theorem Law.gateStatus {g : Nat} {st : GateStatus} (h : Law k s) : Law k (s.gateStatus g st) := by
  unfold State.gateStatus
  dsimp only
  refine Law.doorReport ?_
  have h1 : Law k (match st.read with
    | some (c, false) => s.readIn g c
    | some (c, true) => s.readOut g c
    | none => s) := by
    split
    · exact h.readIn
    · exact h.readOut
    · exact h
  split
  · exact h1.exitButton
  · exact h1

theorem Law.strikeExpiry {g : Nat} (h : Law k s) : Law k (s.strikeExpiry g) := by
  unfold State.strikeExpiry
  dsimp only
  split
  · exact h.setGate
  · exact h

theorem Law.holdExpiry {g : Nat} (h : Law k s) : Law k (s.holdExpiry g) := by
  unfold State.holdExpiry
  dsimp only
  split
  · split
    · exact h.setGate.post
    · exact h.setGate
  · exact h

theorem Law.judgeTracking {p : Nat} (h : Law k s) : Law k (s.judgeTracking p) := by
  unfold State.judgeTracking
  dsimp only
  split
  · exact h
  · refine (h.setPontoon (fun hk hp => ?_) (fun hk => ?_)).post <;> subst hk
    · exact h.2.2 p hp
    · exact h.2.2.2.2.2.2.2.2.2.2.2.2 p

theorem Law.setGateMode {g : Nat} {m : GateMode} (h : Law k s) : Law k (s.setGateMode g m) := by
  unfold State.setGateMode
  dsimp only
  split
  · exact h
  · split
    · split
      · exact h.setGate.judgeTracking
      · exact h.setGate
    · exact h.setGate

/-! ### Sales (R155, R161) -/

/-- The stop volume's amount is within the limit it is taken for (R130). -/
theorem fuelAmount_stopVolume_le (h p : Nat) : fuelAmount (stopVolume h p) p ≤ h := by
  unfold fuelAmount stopVolume
  have h1 : min 999999 ((1000 * h + 499) / p) * p ≤ (1000 * h + 499) / p * p := Nat.mul_le_mul_right p (Nat.min_le_right ..)
  have h2 : (1000 * h + 499) / p * p ≤ 1000 * h + 499 := Nat.div_mul_le_self ..
  omega

theorem SaleOk.opened (account : Option Nat) (card : Option Card) (nozzle grade price limit : Nat) (holdId : Option Nat) (now : Nat) :
    SaleOk (Sale.opened account card nozzle grade price limit holdId now) := by
  refine ⟨Nat.min_le_left .., fuelAmount_stopVolume_le limit price, ?_⟩
  show 0 = (0 * price + 500) / 1000
  omega

/-- A sale that takes a volume with its amount at the captured price. -/
theorem SaleOk.volume {q : Sale} (h : SaleOk q) (v : Nat) : SaleOk { q with volume := v, amount := fuelAmount v q.price } :=
  ⟨h.1, h.2.1, rfl⟩

theorem SaleOk.ended {q : Sale} (h : SaleOk q) (t : Nat) (r : EndReason) : SaleOk (q.ended t r) :=
  ⟨h.1, h.2.1, rfl⟩

/-! ### Pump records -/

theorem Law.pumpOk (h : Law k s) (p : Nat) : k = .pumps → PumpOk (s.pump p) := by
  rintro rfl
  exact h p

theorem PumpOk.sale {x : Pump} (h : PumpOk x) {q : Sale} (e : x.sale = some q) : SaleOk q :=
  h.2.2.2.1 q e

theorem PumpOk.slot {x : Pump} (h : PumpOk x) {q : Sale} (e : q ∈ x.slots) : SaleOk q :=
  h.2.2.2.2 q e

/-- A pump record that keeps what R162 speaks of. -/
theorem PumpOk.of_eq {x y : Pump} (h : PumpOk x) (h1 : y.slots = x.slots) (h2 : y.protect = x.protect)
    (h3 : y.sale = x.sale) (h4 : y.state = x.state) (h5 : y.suspendedFrom = x.suspendedFrom) : PumpOk y := by
  unfold PumpOk
  rw [h1, h2, h3, h4, h5]
  exact h

/-- A pump record that takes a state other than BLOCKED. -/
theorem PumpOk.enters {x y : Pump} (h : PumpOk x) (h1 : y.slots = x.slots)
    (h5 : y.suspendedFrom = x.suspendedFrom ∨ y.suspendedFrom = none) (hb : y.state ≠ .blocked)
    (hs : ∀ q, y.sale = some q → SaleOk q) : PumpOk y := by
  refine ⟨by rw [h1]; exact h.1, fun q hq => ?_, fun e => absurd e hb, hs, by rw [h1]; exact h.2.2.2.2⟩
  rcases h5 with e | e
  · exact h.2.1 q (by rw [← e]; exact hq)
  · rw [e] at hq; cases hq

theorem PumpOk.closeVolume {x : Pump} (h : PumpOk x) (v : Nat) : PumpOk (x.closeVolume v) := by
  unfold Pump.closeVolume
  split
  · exact h
  · exact h.of_eq rfl rfl rfl rfl rfl

theorem PumpOk.clearStop {x : Pump} (h : PumpOk x) : PumpOk x.clearStop := by
  unfold Pump.clearStop
  split
  · exact h.of_eq rfl rfl rfl rfl rfl
  · exact h

theorem PumpOk.takeVolume {x : Pump} (h : PumpOk x) (v : Nat) : PumpOk (x.takeVolume v) := by
  unfold Pump.takeVolume
  split
  · rename_i sale e
    split
    · refine ⟨h.1, h.2.1, fun hb => ⟨(h.2.2.1 hb).1, (h.2.2.1 hb).2.1, rfl⟩, fun q hq => ?_, h.2.2.2.2⟩
      cases hq
      exact (h.sale e).volume v
    · exact h
  · exact h

/-- A pump at rest with its completed sales. -/
theorem PumpOk.atRest {l : List Sale} {st : PumpState} (x : Pump) (n : Nat) (hl : l.length ≤ 2) (hs : st ≠ .blocked)
    (hq : ∀ q ∈ l, SaleOk q) : PumpOk { x.atRest st with slots := l, lost := n } := by
  refine ⟨hl, fun q hq => ?_, fun e => absurd e hs, fun q hq => ?_, hq⟩ <;> cases hq

/-- A BLOCKED pump with its held sale. -/
theorem PumpOk.blocked {x : Pump} (h : PumpOk x) {sale : Sale} (ho : SaleOk sale) (hl : ¬ x.slots.length < 2) (hp : x.protect = true) :
    PumpOk { x.atRest .blocked with sale := some sale } := by
  have h2 : x.slots.length ≤ 2 := h.1
  refine ⟨h2, fun q hq => ?_, fun _ => ⟨?_, hp, rfl⟩, fun q hq => ?_, h.2.2.2.2⟩
  · cases hq
  · show x.slots.length = 2
    omega
  · cases hq
    exact ho

theorem PumpOk.discarded {x : Pump} (h : PumpOk x) (v : Nat) {st : PumpState} (hs : st ≠ .blocked) :
    PumpOk (((x.closeVolume v).want .stop).atRest st) :=
  PumpOk.atRest ((x.closeVolume v).want .stop) _ (h.closeVolume v).1 hs (h.closeVolume v).2.2.2.2

theorem PumpOk.fuelling {x : Pump} (h : PumpOk x) (v : Nat) : PumpOk (({ x with state := .fuelling } : Pump).takeVolume v) := by
  have : PumpOk { x with state := .fuelling } := h.enters rfl (.inl rfl) (fun e => by cases e) h.2.2.2.1
  exact this.takeVolume v

theorem PumpOk.linked {x : Pump} (h : PumpOk x) {st : PumpState} (hs : st ≠ .blocked) :
    PumpOk { x with state := st, suspendedFrom := none, suspectSince := none } :=
  h.enters rfl (.inr rfl) hs h.2.2.2.1

theorem PumpOk.marked {x : Pump} (h : PumpOk x) (m : Option PumpMark) : PumpOk { x with mark := m } :=
  h.of_eq rfl rfl rfl rfl rfl

theorem PumpOk.volume {x : Pump} (h : PumpOk x) (v : Option Nat) : PumpOk { x with closedVolume := v } :=
  h.of_eq rfl rfl rfl rfl rfl

theorem PumpOk.ready {x : Pump} (h : PumpOk x) {sale : Sale} (ho : SaleOk sale) (m : Option PumpMark) :
    PumpOk { x with state := .ready, sale := some sale, mark := m } := by
  refine h.enters rfl (.inl rfl) (fun e => ?_) (fun q hq => ?_)
  · cases e
  · cases hq; exact ho

theorem PumpOk.linkLost {x : Pump} (h : PumpOk x) (now : Nat) : PumpOk (x.linkLost now) := by
  unfold Pump.linkLost
  split
  · rename_i e
    refine ⟨h.1, fun q hq => ?_, fun e => ?_, h.2.2.2⟩
    · cases hq; exact e
    · cases e
  · split
    · refine h.enters rfl (.inl rfl) (fun e => ?_) h.2.2.2.1
      cases e
    · exact h

theorem PumpOk.linkBack {x : Pump} (h : PumpOk x) : PumpOk x.linkBack := by
  unfold Pump.linkBack
  split
  · refine h.enters rfl (.inl rfl) (fun e => ?_) h.2.2.2.1
    cases e
  · exact h

theorem PumpOk.acked {x : Pump} (h : PumpOk x) (b : Bool) : PumpOk (x.acked b) := by
  have hy : PumpOk (if b then { x with closedVolume := none } else x) := by
    split
    · exact h.of_eq rfl rfl rfl rfl rfl
    · exact h
  unfold Pump.acked
  dsimp only
  split
  · exact hy.of_eq rfl rfl rfl rfl rfl
  · exact hy

theorem State.restState_ne (s : State) (p : Nat) : s.restState p ≠ .blocked := by
  unfold State.restState
  split <;> decide

/-! ### What a pump's sale stands for (R36) -/

/-- What of a sale the Account Unit's side of its hold rests on. -/
def Sale.terms (q : Sale) : SaleSource × Option Nat × Option Nat × Nat :=
  (q.source, q.account, q.holdId, q.limit)

/-- What a pump's active sale rests on. -/
def Pump.terms (x : Pump) : Option (SaleSource × Option Nat × Option Nat × Nat) :=
  x.sale.map Sale.terms

theorem Pump.holder_eq (x : Pump) (p : Nat) : x.holder p =
    match x.state.holdsFunds, x.terms with
    | true, some (.account, some n, some i, m) => some (n, { id := i, pump := p, amount := m })
    | _, _ => none := by
  unfold Pump.holder Pump.terms
  cases x.state.holdsFunds with
  | false => rfl
  | true =>
    cases x.sale with
    | none => rfl
    | some q =>
      obtain ⟨src, acc, _, _, _, _, _, hid, _, _, _, _, _, _, _⟩ := q
      cases src <;> cases acc <;> cases hid <;> rfl

theorem Pump.holder_none {x : Pump} {p : Nat} (h : x.state.holdsFunds = false) : x.holder p = none := by
  rw [Pump.holder_eq, h]

/-- A pump whose sale goes on, or that has none that holds funds, stands for what it stood for. -/
theorem Pump.holder_congr {x y : Pump} (h : x.state.holdsFunds = y.state.holdsFunds)
    (e : y.state.holdsFunds = true → x.terms = y.terms) (p : Nat) : x.holder p = y.holder p := by
  cases c : y.state.holdsFunds with
  | false => rw [Pump.holder_none (h.trans c), Pump.holder_none c]
  | true => rw [Pump.holder_eq, Pump.holder_eq, h, e c]

theorem Pump.takeVolume_eq (x : Pump) (v : Nat) :
    (x.takeVolume v).state = x.state ∧ (x.takeVolume v).station = x.station ∧ (x.takeVolume v).terms = x.terms ∧
    (x.takeVolume v).suspendedFrom = x.suspendedFrom := by
  unfold Pump.takeVolume Pump.terms
  split
  · rename_i q e
    split
    · refine ⟨rfl, rfl, ?_, rfl⟩
      rw [e]
      rfl
    · exact ⟨rfl, rfl, rfl, rfl⟩
  · exact ⟨rfl, rfl, rfl, rfl⟩

theorem SaleBound.congr {x y : Pump} (h : SaleBound y) (hf : x.state.holdsFunds = y.state.holdsFunds)
    (e : y.state.holdsFunds = true → x.terms = y.terms)
    (hs : ∀ q, x.suspendedFrom = some q → q.isRunning = true) : SaleBound x := by
  refine ⟨fun c => ?_, hs⟩
  rw [hf] at c
  have e := e c
  obtain ⟨q, hq, hb⟩ := h.1 c
  unfold Pump.terms at e
  rw [hq] at e
  obtain ⟨r, hr, ht⟩ := Option.map_eq_some_iff.mp e
  refine ⟨r, hr, ?_⟩
  simp only [Sale.terms, Prod.mk.injEq] at ht
  rw [ht.1, ht.2.1, ht.2.2.1]
  exact hb

theorem State.pump_default {p : Nat} (h : ¬ p < 4) : s.pump p = Pump.reset := by
  simp [State.pump, tabGet, h]

/-- A pump that does not stand in OFFLINE is one of the four. -/
theorem State.pump_range {p : Nat} (h : (s.pump p).state ≠ .offline) : p < 4 :=
  Classical.byContradiction (fun c => h (by rw [State.pump_default c]; rfl))

/-- A pump's record that keeps its station and whose sale goes on, or that has none that holds funds. -/
theorem PumpFits.goesOn {p : Nat} {x : Pump} (h : Law k s) (hx : k = .pumps → PumpOk x)
    (hf : k = .holds → x.state.holdsFunds = (s.pump p).state.holdsFunds)
    (ht : k = .holds → (s.pump p).state.holdsFunds = true → x.terms = (s.pump p).terms)
    (hs : k = .holds → ∀ q, x.suspendedFrom = some q → q.isRunning = true)
    (hi : k = .holds → p < 4 → x.state = .idle → (s.pump p).state = .idle ∨ s.pumpPresent p = true)
    (hst : x.station = (s.pump p).station := by rfl) : PumpFits k s p x := by
  refine ⟨hx, fun hk => Pump.holder_congr (hf hk) (ht hk) p, fun hk hp => ⟨?_, hst, fun c => .inl (hf hk ▸ c), fun c => ?_⟩⟩
  · have a := hf hk
    have b := ht hk
    have d := hs hk
    subst hk
    exact (h.bound p).congr a b d
  · have a := hi hk hp c
    subst hk
    exact a.elim h.placed.idle id

/-- The same for a record that keeps the state, the sale and where it was suspended from. -/
theorem PumpFits.of_eq {p : Nat} {x : Pump} (h : Law k s) (hx : k = .pumps → PumpOk x) (e1 : x.state = (s.pump p).state := by rfl)
    (e2 : x.terms = (s.pump p).terms := by rfl) (e3 : x.suspendedFrom = (s.pump p).suspendedFrom := by rfl)
    (hst : x.station = (s.pump p).station := by rfl) : PumpFits k s p x :=
  .goesOn h hx (fun _ => by rw [e1]) (fun _ _ => e2) (fun hk => by subst hk; rw [e3]; exact (h.bound p).2)
    (fun _ _ c => .inl (e1 ▸ c)) hst

/-! ### While a sale opens or ends

Between a grant and the READY state, and between a settlement or release and the state the pump is left in, the hold lists pair with the
pumps' sales but for one pump, for which they hold a given entry or none. -/

/-- The law of the holds with one pump's part given. -/
def HoldMid (p : Nat) (v : Option (Nat × Hold)) (s : State) : Prop :=
  HoldsPaired (withHolder s.holder p v) s ∧ (∀ q, SaleBound (s.pump q)) ∧ PumpsPlaced s

theorem withHolder_id (f : Nat → Option (Nat × Hold)) (p : Nat) : withHolder f p (f p) = f := by
  funext q
  unfold withHolder
  split
  · rename_i e; rw [e]
  · rfl

theorem HoldMid.start (h : Law .holds s) (p : Nat) : HoldMid p (s.holder p) s :=
  ⟨by rw [withHolder_id]; exact h.paired, h.bound, h.placed⟩

theorem HoldMid.close {p : Nat} {v : Option (Nat × Hold)} (h : HoldMid p v s) (e : s.holder p = v) : Law .holds s := by
  subst e
  have h1 := h.1
  rw [withHolder_id] at h1
  exact ⟨h1, h.2⟩

theorem HoldMid.post {p : Nat} {v : Option (Nat × Hold)} {b : NoticeBody} (h : HoldMid p v s) : HoldMid p v (s.post b) := h

theorem HoldMid.postIf {p : Nat} {v : Option (Nat × Hold)} {c : Bool} {b : NoticeBody} (h : HoldMid p v s) :
    HoldMid p v (s.postIf c b) := by
  unfold State.postIf
  split
  · exact h.post
  · exact h

theorem HoldMid.setPump {p : Nat} {v : Option (Nat × Hold)} {x : Pump} (h : HoldMid p v s) (hx : p < 4 → PumpFitsPlace s p x) :
    HoldMid p v (s.setPump p x) := by
  refine ⟨?_, fun q => ?_, h.2.2.setPump hx⟩
  · have e : withHolder (s.setPump p x).holder p v = withHolder s.holder p v := by
      funext q
      unfold withHolder
      split
      · rfl
      · rename_i c
        rw [State.holder_setPump, if_neg (fun d => c d.1.symm)]
    rw [e]
    exact h.1
  · rw [State.pump_setPump]
    split
    · rename_i c; exact (hx (c.1 ▸ c.2)).bound
    · exact h.2.1 q

/-- A pump at rest may stand in BLOCKED, and in IDLE where its station is PRESENT. -/
theorem PumpFitsPlace.atRest {p : Nat} {x : Pump} (hf : x.state.holdsFunds = false) (hs : x.suspendedFrom = none)
    (hi : x.state = .idle → s.pumpPresent p = true) (hst : x.station = (s.pump p).station := by rfl) : PumpFitsPlace s p x := by
  refine ⟨⟨fun c => ?_, fun q hq => ?_⟩, hst, fun c => ?_, hi⟩
  · rw [hf] at c; cases c
  · rw [hs] at hq; cases hq
  · rw [hf] at c; cases c

theorem State.restState_idle {p : Nat} (h : s.restState p = .idle) : s.pumpPresent p = true := by
  unfold State.restState at h
  split at h
  · assumption
  · cases h

theorem State.restState_holdsFunds (s : State) (p : Nat) : (s.restState p).holdsFunds = false := by
  unfold State.restState
  split <;> rfl

/-- The pump's sale has ended: the pump at rest closes the event. -/
theorem HoldMid.rest {p : Nat} {x : Pump} (h : HoldMid p none s) (hf : x.state.holdsFunds = false) (hs : x.suspendedFrom = none)
    (hi : x.state = .idle → s.pumpPresent p = true) (hst : x.station = (s.pump p).station := by rfl) :
    Law .holds (s.setPump p x) := by
  refine (h.setPump (fun _ => .atRest hf hs hi hst)).close ?_
  rw [State.holder_setPump]
  split
  · exact Pump.holder_none hf
  · rename_i c
    have hp : ¬ p < 4 := fun d => c ⟨rfl, d⟩
    unfold State.holder
    rw [State.pump_default hp]
    rfl

/-! ### Opening a sale -/

/-- What a sale stands for while its pump holds funds. -/
def Sale.holder (sale : Sale) (p : Nat) : Option (Nat × Hold) :=
  Pump.holder { Pump.reset with state := .ready, sale := some sale } p

/-- A sale opens on an IDLE pump: for the law of the holds, with the entry placed for it (R155, R156). -/
theorem Law.openSale {p : Nat} {sale : Sale} (h : k ≠ .holds → Law k s) (ho : SaleOk sale)
    (hm : k = .holds → HoldMid p (sale.holder p) s ∧ (s.pump p).state = .idle ∧
      (sale.source = .account → sale.account.isSome = true ∧ sale.holdId.isSome = true)) : Law k (s.openSale p sale) := by
  unfold State.openSale
  refine Law.post ?_
  by_cases hn : k = .holds
  · obtain ⟨h1, hi, hb⟩ := hm hn
    subst hn
    have hp : p < 4 := State.pump_range (by rw [hi]; decide)
    have h2 : HoldMid p (sale.holder p) (s.setPump p ({ s.pump p with state := .ready, sale := some sale }.want
        (.auth sale.nozzle sale.grade sale.preset))) :=
      h1.setPump (fun _ => ⟨⟨fun _ => ⟨sale, rfl, hb⟩, (h1.2.1 p).2⟩, rfl, fun _ => .inr hi, nofun⟩)
    refine h2.close ?_
    rw [State.holder_setPump, if_pos ⟨rfl, hp⟩]
    rfl
  · exact (h hn).setPump ⟨fun hk => ((h hn).pumpOk p hk).ready ho _, fun c => absurd c hn, fun c => absurd c hn⟩

/-- A granted HOLD and the sale it is for keep every law (R36, R155, R156). -/
theorem Law.holdAndOpen {n p w m i x : Nat} {t : State} {card : Option Card} {nozzle grade price now : Nat} (h : Law k s)
    (hi : (s.pump p).state = .idle) (e : s.hold n p w m = (t, .ok (i, x))) :
    Law k (t.openSale p (Sale.opened (some n) card nozzle grade price x (some i) now)) := by
  refine Law.openSale (fun hk => ?_) (.opened ..) (fun hk => ?_)
  · have h1 := h.hold (n := n) (p := p) (w := w) (m := m) hk
    rw [e] at h1
    exact h1
  · subst hk
    have h0 : s.holder p = none := Pump.holder_none (by rw [hi]; rfl)
    obtain ⟨h1, h2⟩ := h.paired.hold h0 e
    have hh : t.holder = s.holder := by
      funext q
      unfold State.holder
      rw [h2.pump]
    refine ⟨⟨by rw [hh]; exact h1, fun q => by rw [h2.pump]; exact h.bound q, h.placed.same h2⟩, by rw [h2.pump]; exact hi,
      fun _ => ⟨rfl, rfl⟩⟩

theorem State.pumpRefusal_idle {p : Nat} {ans : MatchAnswer} (h : s.pumpRefusal p ans = none) : (s.pump p).state = .idle := by
  unfold State.pumpRefusal at h
  split at h
  · assumption
  · cases h
  · cases h

theorem Law.cardAtPump {p n : Nat} {c : Card} (h : Law k s) : Law k (s.cardAtPump p n c) := by
  unfold State.cardAtPump
  dsimp only
  split
  · exact h.post
  · rename_i hr
    split <;> rename_i e
    · refine Law.post ?_
      unfold State.hold at e
      dsimp only at e
      split at e
      · cases e; exact h
      · cases e
    · exact h.holdAndOpen (State.pumpRefusal_idle hr) e

/-! ### Placing and completing a sale -/

theorem Law.overwriteSlot {p : Nat} {sale : Sale} (h : k ≠ .holds → Law k s) (ho : k = .pumps → SaleOk sale)
    (hm : k = .holds → HoldMid p none s) : Law k (s.overwriteSlot p sale) := by
  have hx : Law k (s.setPump p { ((s.pump p).atRest (s.restState p)) with
      slots := (s.pump p).slots.tail ++ [sale], lost := satAdd 65535 (s.pump p).lost 1 }) := by
    by_cases hn : k = .holds
    · have h1 := hm hn
      subst hn
      exact h1.rest (s.restState_holdsFunds p) rfl State.restState_idle
    · refine (h hn).setPump ⟨fun hk => ?_, fun c => absurd c hn, fun c => absurd c hn⟩
      have h0 := (h hn).pumpOk p hk
      refine .atRest (s.pump p) _ ?_ (s.restState_ne p) (fun q hq => ?_)
      · have := h0.1
        simp
        omega
      · rcases List.mem_append.mp hq with c | c
        · exact h0.slot (List.mem_of_mem_tail c)
        · rw [List.mem_singleton.mp c]; exact ho hk
  unfold State.overwriteSlot
  dsimp only
  split
  · exact hx.post
  · exact hx

theorem Law.placeSale {p : Nat} {sale : Sale} (h : k ≠ .holds → Law k s) (ho : k = .pumps → SaleOk sale)
    (hm : k = .holds → HoldMid p none s) : Law k (s.placeSale p sale) := by
  unfold State.placeSale
  dsimp only
  split
  · rename_i e
    by_cases hn : k = .holds
    · have h1 := hm hn
      subst hn
      exact h1.rest (s.restState_holdsFunds p) rfl State.restState_idle
    · refine (h hn).setPump ⟨fun hk => ?_, fun c => absurd c hn, fun c => absurd c hn⟩
      have h0 := (h hn).pumpOk p hk
      refine .atRest (s.pump p) _ (by simp; omega) (s.restState_ne p) (fun q hq => ?_)
      rcases List.mem_append.mp hq with c | c
      · exact h0.slot c
      · rw [List.mem_singleton.mp c]; exact ho hk
  · split
    · rename_i e e'
      by_cases hn : k = .holds
      · have h1 := hm hn
        subst hn
        exact h1.rest rfl rfl nofun
      · exact (h hn).setPump ⟨fun hk => ((h hn).pumpOk p hk).blocked (ho hk) e e', fun c => absurd c hn, fun c => absurd c hn⟩
    · exact Law.overwriteSlot h ho hm

/-- What a pump whose sale holds funds stands for is the account and the hold id that its settlement or release names. -/
theorem State.holder_sale {p n : Nat} {sale : Sale} (hb : SaleBound (s.pump p)) (hf : (s.pump p).state.holdsFunds = true)
    (e : (s.pump p).sale = some sale) (h1 : sale.source = .account) (h2 : sale.account = some n) :
    s.holder p = some (n, { id := sale.holdId.getD 0, pump := p, amount := sale.limit }) := by
  obtain ⟨q, hq, hb⟩ := hb.1 hf
  rw [e] at hq
  cases hq
  obtain ⟨i, hi⟩ := Option.isSome_iff_exists.mp (hb h1).2
  unfold State.holder
  rw [Pump.holder_eq, hf, Pump.terms, e]
  simp [Sale.terms, h1, h2, hi]

/-- A pump whose sale is no ACCOUNT sale stands for nothing. -/
theorem State.holder_attendant {p : Nat} {sale : Sale} (e : (s.pump p).sale = some sale)
    (h : ∀ n, sale.source = .account → sale.account ≠ some n) : s.holder p = none := by
  unfold State.holder
  rw [Pump.holder_eq, Pump.terms, e]
  obtain ⟨src, acc, _, _, _, _, _, hid, _, _, _, _, _, _, _⟩ := sale
  cases src with
  | attendant => split <;> simp_all [Sale.terms]
  | account =>
    cases acc with
    | none => split <;> simp_all [Sale.terms]
    | some n => exact absurd rfl (h n rfl)

/-- The settlement of a pump's sale: its hold is gone (R38). -/
theorem HoldMid.settleSale {p : Nat} {sale sale0 : Sale} (h : Law .holds s) (hf : (s.pump p).state.holdsFunds = true)
    (e : (s.pump p).sale = some sale0) (ht : sale.terms = sale0.terms) :
    HoldMid p none (s.settleSale sale) ∧ DockSame s (s.settleSale sale) := by
  simp only [Sale.terms, Prod.mk.injEq] at ht
  obtain ⟨t1, t2, t3, t4⟩ := ht
  unfold State.settleSale
  split
  · rename_i n hs ha
    obtain ⟨h1, h2⟩ := h.paired.settle (d := sale.amount) (State.holder_sale (h.bound p) hf e (t1 ▸ hs) (t2 ▸ ha)) rfl
    rw [← t3] at h1 h2
    have hh : (s.settle n (sale.holdId.getD 0) sale.amount).holder = s.holder := by
      funext q
      unfold State.holder
      rw [h2.pump]
    exact ⟨⟨by rw [hh]; exact h1, fun q => by rw [h2.pump]; exact h.bound q, h.placed.same h2⟩, h2⟩
  · rename_i hn
    have h0 := State.holder_attendant e (fun n c d => hn n (t1.trans c) (t2.trans d))
    exact ⟨h0 ▸ HoldMid.start h p, .refl s⟩

theorem Law.settleSale {sale : Sale} (h : Law k s) (hh : k ≠ .holds) : Law k (s.settleSale sale) := by
  unfold State.settleSale
  split
  · exact h.settle hh
  · exact h

theorem Pump.closeVolume_eq (x : Pump) (v : Nat) :
    (x.closeVolume v).state = x.state ∧ (x.closeVolume v).station = x.station ∧ (x.closeVolume v).sale = x.sale ∧
    (x.closeVolume v).suspendedFrom = x.suspendedFrom := by
  unfold Pump.closeVolume
  split <;> exact ⟨rfl, rfl, rfl, rfl⟩

theorem Pump.clearStop_eq (x : Pump) :
    x.clearStop.state = x.state ∧ x.clearStop.station = x.station ∧ x.clearStop.sale = x.sale ∧
    x.clearStop.suspendedFrom = x.suspendedFrom := by
  unfold Pump.clearStop
  split <;> exact ⟨rfl, rfl, rfl, rfl⟩

/-- A completion keeps every law; for the law of the holds, of a pump whose sale holds funds (R36, R161, R162). -/
theorem Law.completeSale {p : Nat} {r : EndReason} {b : Bool} (h : Law k s)
    (hf : k = .holds → (s.pump p).state.holdsFunds = true) : Law k (s.completeSale p r b) := by
  unfold State.completeSale
  split
  · exact h
  · rename_i sale0 e
    dsimp only
    generalize hs1 : s.settleSale (sale0.ended s.clock r) = s1
    have hy : ∀ x : Pump, (if b = true then x.clearStop else x).state = x.state ∧
        (if b = true then x.clearStop else x).station = x.station ∧ (if b = true then x.clearStop else x).sale = x.sale ∧
        (if b = true then x.clearStop else x).suspendedFrom = x.suspendedFrom := by
      intro x
      split
      · exact x.clearStop_eq
      · exact ⟨rfl, rfl, rfl, rfl⟩
    by_cases hk : k = .holds
    · subst hk
      have hf := hf rfl
      obtain ⟨h1, h2⟩ := HoldMid.settleSale (sale := sale0.ended s.clock r) h hf e rfl
      rw [hs1] at h1 h2
      refine Law.placeSale (fun c => absurd rfl c) (fun c => by cases c) (fun _ => (h1.setPump (fun _ => ?_)).post.postIf)
      obtain ⟨a1, a2, a3, a4⟩ := hy (s1.pump p)
      obtain ⟨b1, b2, b3, b4⟩ := (if b = true then (s1.pump p).clearStop else s1.pump p).closeVolume_eq (sale0.ended s.clock r).volume
      have e1 := b1.trans a1
      refine ⟨(h1.2.1 p).congr (by rw [e1]) (fun _ => ?_) ?_, b2.trans a2, fun c => .inl (e1 ▸ c), fun c => h1.2.2.idle (e1 ▸ c)⟩
      · unfold Pump.terms
        rw [b3.trans a3]
      · rw [b4.trans a4]
        exact (h1.2.1 p).2
    · have h1 := h.settleSale (sale := sale0.ended s.clock r) hk
      rw [hs1] at h1
      refine Law.placeSale (fun _ => Law.postIf (Law.post (h1.setPump ⟨fun hk => PumpOk.closeVolume ?_ _, fun c => absurd c hk,
        fun c => absurd c hk⟩))) (fun hk => ((h.pumpOk p hk).sale e).ended _ _) (fun c => absurd c hk)
      split
      · exact (h1.pumpOk p hk).clearStop
      · exact h1.pumpOk p hk

/-- A discard keeps every law; for the law of the holds, of a pump whose sale holds funds (R36, R158, R159). -/
theorem Law.discardSale {p : Nat} {f : Sale → NoticeBody} (h : Law k s)
    (hf : k = .holds → (s.pump p).state.holdsFunds = true) : Law k (s.discardSale p f) := by
  unfold State.discardSale
  split
  · exact h
  · rename_i sale e
    dsimp only
    refine Law.post ?_
    by_cases hk : k = .holds
    · subst hk
      have hf := hf rfl
      suffices HoldMid p none (match sale.source, sale.account with
          | .account, some n => s.release n (sale.holdId.getD 0)
          | _, _ => s) by
        refine this.rest ?_ rfl State.restState_idle ?_
        · exact State.restState_holdsFunds ..
        · exact (Pump.closeVolume_eq _ _).2.1
      split
      · rename_i n hs ha
        obtain ⟨h1, h2⟩ := h.paired.release (State.holder_sale (h.bound p) hf e hs ha) rfl
        have hh : (s.release n (sale.holdId.getD 0)).holder = s.holder := by
          funext q
          unfold State.holder
          rw [h2.pump]
        exact ⟨by rw [hh]; exact h1, fun q => by rw [h2.pump]; exact h.bound q, h.placed.same h2⟩
      · rename_i hn
        have h0 := State.holder_attendant e (fun n c d => hn n c d)
        exact h0 ▸ HoldMid.start h p
    · have done : ∀ t : State, Law k t → Law k (t.setPump p ((((t.pump p).closeVolume sale.volume).want .stop).atRest
          (t.restState p))) := fun t ht =>
        ht.setPump ⟨fun hk => (ht.pumpOk p hk).discarded _ (t.restState_ne p), fun c => absurd c hk, fun c => absurd c hk⟩
      split
      · exact done _ (h.release hk)
      · exact done _ h

theorem Law.readyExpiry {p : Nat} (h : Law k s) : Law k (s.readyExpiry p) := by
  unfold State.readyExpiry
  dsimp only
  split
  · rename_i e _
    split
    · exact h.discardSale (fun _ => by rw [e]; rfl)
    · exact h
  · exact h

theorem Law.linkLossExpiry {p : Nat} (h : Law k s) : Law k (s.linkLossExpiry p) := by
  unfold State.linkLossExpiry
  dsimp only
  split
  · rename_i e _
    split
    · have h1 := h.completeSale (p := p) (r := .linkLost) (b := false) (fun _ => by rw [e]; rfl)
      exact (h1.setPump (.of_eq h1 (fun hk => (h1.pumpOk p hk).marked _))).post
    · exact h
  · exact h

/-! ### Status replies -/

/-- A pump's record set, read back. -/
theorem State.pump_set_self {p : Nat} {x : Pump} (hp : p < 4) : (s.setPump p x).pump p = x := by
  rw [State.pump_setPump, if_pos ⟨rfl, hp⟩]

theorem Law.judgeReady {p : Nat} {st : PumpStatus} (h : Law k s) (hr : (s.pump p).state = .ready) : Law k (s.judgeReady p st) := by
  have hp : p < 4 := State.pump_range (by rw [hr]; decide)
  obtain ⟨t1, t2, t3, t4⟩ := Pump.takeVolume_eq { s.pump p with state := .fuelling } st.volume
  have hx : Law k (s.setPump p (({ s.pump p with state := .fuelling } : Pump).takeVolume st.volume)) :=
    h.setPump (.goesOn h (fun hk => (h.pumpOk p hk).fuelling _) (fun _ => by rw [t1, hr]; rfl) (fun _ _ => t3)
      (fun hk => by subst hk; rw [t4]; exact (h.bound p).2) (fun _ _ c => by rw [t1] at c; cases c) t2)
  unfold State.judgeReady
  dsimp only
  split
  · exact hx.completeSale (fun _ => by rw [State.pump_set_self hp, t1]; rfl)
  · split
    · exact hx
    · exact h

theorem Law.judgeDelivery {p : Nat} {st : PumpStatus} (h : Law k s) (hf : (s.pump p).state.holdsFunds = true) :
    Law k (s.judgeDelivery p st) := by
  have hp : p < 4 := State.pump_range (fun c => by rw [c] at hf; cases hf)
  obtain ⟨t1, t2, t3, t4⟩ := (s.pump p).takeVolume_eq st.volume
  have h1 : Law k (s.setPump p ((s.pump p).takeVolume st.volume)) :=
    h.setPump (.of_eq h (fun hk => (h.pumpOk p hk).takeVolume _) t1 t3 t4 t2)
  unfold State.judgeDelivery
  dsimp only
  split
  · exact h1.completeSale (fun _ => by rw [State.pump_set_self hp, t1]; exact hf)
  · exact h1

theorem PumpState.ne_blocked_of_running {q : PumpState} (h : q.isRunning = true) : q ≠ .blocked := by
  rintro rfl
  cases h

/-- A SUSPECT pump goes back to a state of a sale that goes on. -/
theorem PumpFits.back {p : Nat} {y : Pump} {q : PumpState} (h : Law k s) (hs : (s.pump p).state = .suspect)
    (hq : k = .pumps ∨ k = .holds → q.isRunning = true) (hy : k = .pumps → PumpOk y) (ht : y.terms = (s.pump p).terms)
    (hst : y.station = (s.pump p).station) :
    PumpFits k s p { y with state := q, suspendedFrom := none, suspectSince := none } := by
  refine .goesOn h (fun hk => (hy hk).linked (PumpState.ne_blocked_of_running (hq (.inl hk)))) (fun hk => ?_) (fun _ _ => ht)
    (fun _ q hq => by cases hq) (fun hk _ c => ?_) hst
  · rw [hs]
    show (q.isRunning || _) = _
    rw [hq (.inr hk)]
    rfl
  · have c : q = .idle := c
    have := hq (.inr hk)
    rw [c] at this
    cases this

theorem Law.suspectReturn {p : Nat} {st : PumpStatus} (h : Law k s) (hs : (s.pump p).state = .suspect) :
    Law k (s.suspectReturn p st) := by
  have hp : p < 4 := State.pump_range (by rw [hs]; decide)
  have hw : k = .pumps ∨ k = .holds → ((s.pump p).suspendedFrom.getD .ready).isRunning = true := by
    intro hk
    cases e : (s.pump p).suspendedFrom with
    | none => rfl
    | some q =>
      rcases hk with hk | hk
      · exact (h.pumpOk p hk).2.1 q e
      · subst hk; exact (h.bound p).2 q e
  have hr : ∀ b : Prop, [Decidable b] → (if b then PumpState.stopping else .fuelling).isRunning = true := by
    intro b _
    split <;> rfl
  obtain ⟨-, t2, t3, -⟩ := (s.pump p).takeVolume_eq st.volume
  have hy : k = .pumps → PumpOk ((s.pump p).takeVolume st.volume) := fun hk => (h.pumpOk p hk).takeVolume _
  have run : ∀ q : PumpState, q.isRunning = true → q.holdsFunds = true := fun q hq => by
    unfold PumpState.holdsFunds
    rw [hq]
    rfl
  unfold State.suspectReturn
  dsimp only
  split
  · exact (h.setPump (.back h hs (fun _ => rfl) (h.pumpOk p) rfl rfl)).readyExpiry
  · split
    · exact (h.setPump (.back h hs hw hy t3 t2)).readyExpiry
    · exact h.setPump (.back h hs (fun _ => hr _) hy t3 t2)
    · refine (h.setPump (.back h hs (fun _ => hr _) hy t3 t2)).completeSale (fun _ => ?_)
      rw [State.pump_set_self hp]
      exact run _ (hr _)

theorem Law.judgeClosed {p : Nat} {st : PumpStatus} (h : Law k s) : Law k (s.judgeClosed p st) := by
  unfold State.judgeClosed
  dsimp only
  split
  · exact h.setPump (.of_eq h (fun hk => (h.pumpOk p hk).volume _))
  · split
    · exact h
    · exact (h.setPump (.of_eq h (fun hk => (h.pumpOk p hk).volume _))).post

theorem Law.judgePump {p : Nat} {st : PumpStatus} (h : Law k s) : Law k (s.judgePump p st) := by
  unfold State.judgePump
  dsimp only
  split <;> rename_i e
  · exact h.suspectReturn e
  · split
    · exact h
    · exact h.judgeReady e
  · split
    · exact h
    · exact h.judgeDelivery (by rw [e]; rfl)
  · split
    · exact h
    · exact h.judgeDelivery (by rw [e]; rfl)
  · split
    · exact h
    · exact h.judgeClosed
  · split
    · exact h
    · exact h.judgeClosed
  · exact h

theorem Law.pumpStatus {p : Nat} {st : PumpStatus} (h : Law k s) : Law k (s.pumpStatus p st) := by
  unfold State.pumpStatus
  dsimp only
  split
  · exact h.judgePump.cardAtPump
  · exact h.judgePump

/-! ### Links and acknowledgements -/

theorem Pump.linkLost_place (x : Pump) (now : Nat) :
    (x.linkLost now).state.holdsFunds = x.state.holdsFunds ∧ (x.linkLost now).station = x.station ∧
    (x.linkLost now).sale = x.sale ∧ (x.linkLost now).state ≠ .idle ∧
    ((x.linkLost now).suspendedFrom = x.suspendedFrom ∨
      (x.linkLost now).suspendedFrom = some x.state ∧ x.state.isRunning = true) := by
  unfold Pump.linkLost
  split
  · rename_i e
    refine ⟨?_, rfl, rfl, nofun, .inr ⟨rfl, e⟩⟩
    show _ = (x.state.isRunning || _)
    rw [e]
    rfl
  · split
    · rename_i e
      refine ⟨?_, rfl, rfl, nofun, .inl rfl⟩
      rw [e]
      rfl
    · exact ⟨rfl, rfl, rfl, by assumption, .inl rfl⟩

theorem SaleBound.linkLost {x : Pump} (h : SaleBound x) (now : Nat) : SaleBound (x.linkLost now) := by
  obtain ⟨h1, -, h3, -, h5⟩ := x.linkLost_place now
  refine h.congr h1 (fun _ => by unfold Pump.terms; rw [h3]) (fun q hq => ?_)
  rcases h5 with e | ⟨e, r⟩
  · exact h.2 q (e ▸ hq)
  · rw [e] at hq
    cases hq
    exact r

theorem PumpFits.linkLost {p : Nat} (h : Law k s) (now : Nat) : PumpFits k s p ((s.pump p).linkLost now) := by
  obtain ⟨h1, h2, h3, h4, -⟩ := (s.pump p).linkLost_place now
  exact .goesOn h (fun hk => (h.pumpOk p hk).linkLost now) (fun _ => h1) (fun _ _ => by unfold Pump.terms; rw [h3])
    (fun hk => by subst hk; exact ((h.bound p).linkLost now).2) (fun _ _ c => absurd c h4) h2

theorem PumpFits.acked {p : Nat} (h : Law k s) (b : Bool) : PumpFits k s p ((s.pump p).acked b) := by
  have e : ((s.pump p).acked b).state = (s.pump p).state ∧ ((s.pump p).acked b).terms = (s.pump p).terms ∧
      ((s.pump p).acked b).suspendedFrom = (s.pump p).suspendedFrom ∧ ((s.pump p).acked b).station = (s.pump p).station := by
    unfold Pump.acked
    cases b <;> dsimp only <;> split <;> exact ⟨rfl, rfl, rfl, rfl⟩
  exact .of_eq h (fun hk => (h.pumpOk p hk).acked b) e.1 e.2.1 e.2.2.1 e.2.2.2

/-! ### Relay requests -/

theorem Law.updateTransfer {a : Nat} {f : Transfer → Transfer} (h : Law k s) : Law k (s.updateTransfer a f) := by
  have e : (s.relays.map (fun q : RelayRequest =>
      { q with transfers := q.transfers.map (fun t : Transfer => if t.runsOn a then f t else t) })).countP (·.wait) = s.withheld := by
    rw [List.countP_map]
    rfl
  refine h.setRelays (fun hk => ?_) (fun n hk => ?_)
  · rw [e]; subst hk; exact h.2.2.2.1
  · rw [e]; subst hk; exact h

/-- Sending the results of complete requests: each with the wait flag takes its place in the reply list. -/
theorem Law.sendResults (l : List RelayRequest) :
    ∀ {s : State}, (∀ j, j = k → Law j s) →
      (k = .queues → s.trunk.replies.length + s.withheld + l.countP (·.wait) ≤ 16) →
      (∀ n, k = .repliesAtMost n → s.trunk.replies.length + s.withheld + l.countP (·.wait) ≤ n) →
      Law k (l.foldl State.sendRelayResult s) := by
  induction l with
  | nil => exact fun h _ _ => h k rfl
  | cons q l ih =>
    intro s h hq hn
    have h := h k rfl
    rw [List.foldl_cons]
    unfold State.sendRelayResult
    cases hw : q.wait with
    | false =>
      simp only [List.countP_cons, hw] at hq hn
      exact ih (fun j hj => hj ▸ h.post) hq hn
    | true =>
      simp only [List.countP_cons, hw] at hq hn
      have e1 : ∀ r, (s.pushReply r).withheld = s.withheld := fun _ => rfl
      refine ih (fun j hj => hj ▸ ?_) (fun hk => ?_) (fun n hk => ?_)
      · refine h.setTrunk ⟨fun hk => ?_, fun hk => ?_, fun n hk => ?_⟩
        · subst hk; exact h.2.2.2.2.2.2.2.1
        · have := hq hk
          subst hk
          exact ⟨by simp; simp at this; omega, h.2.2.2.2⟩
        · have := hn n hk
          simp; simp at this; omega
      · have := hq hk
        simp [e1]; simp at this; omega
      · have := hn n hk
        simp [e1]; simp at this; omega

theorem Law.completeRelays (h : Law k s) : Law k s.completeRelays := by
  have split : (s.relays.filter (fun q => q.inFlight)).countP (·.wait) +
      (s.relays.filter (fun q => !q.inFlight)).countP (·.wait) = s.withheld := by
    unfold State.withheld
    generalize s.relays = l
    induction l with
    | nil => rfl
    | cons q l ih => cases hq : q.inFlight <;> simp [hq, List.countP_cons] at ih ⊢ <;> omega
  have hq : k = .queues → s.trunk.replies.length + s.withheld ≤ 16 := by rintro rfl; exact h.2.2.2.1
  have hn : ∀ n, k = .repliesAtMost n → s.trunk.replies.length + s.withheld ≤ n := by rintro n rfl; exact h
  have e : (s.setRelays (s.relays.filter (fun q => q.inFlight))).withheld =
    (s.relays.filter (fun q => q.inFlight)).countP (·.wait) := rfl
  refine Law.sendResults _ (fun j hj => hj ▸ h.setRelays (fun hk => ?_) (fun n hk => ?_)) (fun hk => ?_) (fun n hk => ?_)
  · have := hq hk; omega
  · have := hn n hk; omega
  · have := hq hk
    simp only [e, State.setRelays_trunk]
    omega
  · have := hn n hk
    simp only [e, State.setRelays_trunk]
    omega

theorem Law.endTransfer {a : Nat} {c : EndCause} (h : Law k s) : Law k (s.endTransfer a c) :=
  h.updateTransfer.completeRelays

theorem Law.relayEnd {a : Nat} {g : Option (List Byte)} (h : Law k s) : Law k (s.relayEnd a g) := by
  unfold State.relayEnd
  split
  · exact h.updateTransfer.completeRelays
  · exact h.endTransfer

theorem Law.restartRelays (h : Law k s) : Law k s.restartRelays := by
  refine Law.foldl (fun _ _ ht => ht.post) _ (h.setRelays (fun hk => ?_) (fun n hk => ?_))
  · subst hk
    have := h.2.2.2.1
    exact Nat.le_trans (Nat.le_add_right _ s.withheld) this
  · subst hk
    exact Nat.le_trans (Nat.le_add_right _ s.withheld) h

end Sys2Proof.Machine
end

