-- ==== Sys2Proof/Laws/Stations.lean ====
section
/-! SUPPORT. What a change of every station link of an arm does (R182 to R184, R192), said once: the station records it leaves, the owners
it tells, and that it touches nothing else. -/

namespace Sys2Proof.Machine

/-! ### Owners -/

theorem Gate.goOffline_eq (x : Gate) : x.goOffline = x.cutOff := by
  unfold Gate.goOffline Gate.cutOff
  cases h : x.mark with
  | none => cases x; simp_all
  | some m => cases m with | mk c b => cases c <;> simp <;> (cases x; simp_all)

theorem Pump.linkLost_eq (x : Pump) (now : Nat) : x.linkLost now = x.cutOff now := by
  unfold Pump.linkLost Pump.cutOff
  cases h : x.state <;> simp [PumpState.isRunning]

@[simp] theorem Gate.cutOff_cutOff (x : Gate) : x.cutOff.cutOff = x.cutOff := by
  unfold Gate.cutOff
  cases h : x.mark with
  | none => simp
  | some m => cases m with | mk c b => cases c <;> simp

@[simp] theorem Pump.cutOff_cutOff (x : Pump) (now : Nat) : (x.cutOff now).cutOff now = x.cutOff now := by
  unfold Pump.cutOff
  cases h : x.state <;> simp [h]

/-- The station at an address is PRESENT and its row names a gate. -/
def State.gateHere (s : State) (a g d : Nat) : Bool :=
  match s.row a d with
  | .gate n _ _ => n == g && s.isPresent a d
  | _ => false

/-- The station at an address is PRESENT and its row names a pump. -/
def State.pumpHere (s : State) (a p d : Nat) : Bool :=
  match s.row a d with
  | .pump n _ _ => n == p && s.isPresent a d
  | _ => false

theorem State.gateHere_iff (s : State) (a g d : Nat) :
    s.gateHere a g d = true ↔ ∃ strike grace, s.row a d = .gate g strike grace ∧ s.link a d = .present := by
  unfold State.gateHere State.isPresent
  cases h : s.row a d <;> simp

theorem State.pumpHere_iff (s : State) (a p d : Nat) :
    s.pumpHere a p d = true ↔ ∃ g0 g1, s.row a d = .pump p g0 g1 ∧ s.link a d = .present := by
  unfold State.pumpHere State.isPresent
  cases h : s.row a d <;> simp

/-! ### One address -/

/-- The step of `State.relinkStations` at one address. -/
def State.relinkOne (a : Nat) (f : Station → Station) (tell : Bool) (s : State) (d : Nat) : State :=
  match (s.slot a d).station with
  | none => s
  | some st =>
    let t := s.setStation a d (f st)
    if tell && st.link == .present && (f st).link != .present then t.tellUnreachable a d else t

/-- From `s` to `t` only the slots of an arm, the gates and the pumps have changed, and of a pump not its sale. -/
structure ArmSlotsChanged (s t : State) (a : Nat) : Prop where
  rest : t = { s with arms := t.arms, gates := t.gates, pumps := t.pumps }
  arms : ∀ b, b ≠ a → t.arm b = s.arm b
  arm : t.arm a = { s.arm a with slots := (t.arm a).slots }
  sale : ∀ n, (t.pump n).sale = (s.pump n).sale

theorem ArmSlotsChanged.refl (s : State) (a : Nat) : ArmSlotsChanged s s a :=
  ⟨rfl, fun _ _ => rfl, rfl, fun _ => rfl⟩

theorem ArmSlotsChanged.trans {s t u : State} {a : Nat} (h : ArmSlotsChanged s t a) (k : ArmSlotsChanged t u a) :
    ArmSlotsChanged s u a := by
  refine ⟨?_, fun b hb => (k.arms b hb).trans (h.arms b hb), ?_, fun n => (k.sale n).trans (h.sale n)⟩
  · rw [k.rest, h.rest]
  · rw [k.arm, h.arm]

theorem ArmSlotsChanged.setStation (s : State) (a d : Nat) (st : Station) : ArmSlotsChanged s (s.setStation a d st) a := by
  refine ⟨rfl, fun b hb => ?_, ?_, fun _ => rfl⟩ <;> simp only [State.setStation, State.setSlot]
  · rw [State.arm_setArm, if_neg (fun w => hb w.1.symm)]
  · rw [State.arm_setArm]
    split <;> rfl

theorem ArmSlotsChanged.tellUnreachable (s : State) (a d : Nat) : ArmSlotsChanged s (s.tellUnreachable a d) a := by
  unfold State.tellUnreachable
  split
  · exact ⟨rfl, fun _ _ => rfl, rfl, fun _ => rfl⟩
  · refine ⟨rfl, fun _ _ => rfl, rfl, fun n => ?_⟩
    rw [State.pump_setPump]
    split
    · rename_i h
      rw [← h.1, Pump.linkLost_eq]
      unfold Pump.cutOff
      split <;> rfl
    · rfl
  · exact .refl ..

theorem ArmSlotsChanged.relinkOne (a : Nat) (f : Station → Station) (tell : Bool) (s : State) (d : Nat) :
    ArmSlotsChanged s (s.relinkOne a f tell d) a := by
  unfold State.relinkOne
  split
  · exact .refl ..
  · dsimp only
    split
    · exact (ArmSlotsChanged.setStation ..).trans (.tellUnreachable ..)
    · exact .setStation ..

theorem State.slot_tellUnreachable (s : State) (a d b e : Nat) : (s.tellUnreachable a d).slot b e = s.slot b e := by
  unfold State.tellUnreachable
  split <;> rfl

theorem State.row_setStation (s : State) (a d : Nat) (st : Station) : (s.setStation a d st).row a d = s.row a d := by
  unfold State.setStation State.row
  rw [State.slot_setSlot]
  split <;> rfl

theorem State.slot_relinkOne {a d : Nat} (f : Station → Station) (tell : Bool) (s : State) (ha : a < 6) (hd : 1 ≤ d ∧ d ≤ 30)
    (e : Nat) :
    (s.relinkOne a f tell d).slot a e =
      if e = d then { s.slot a d with station := (s.slot a d).station.map f } else s.slot a e := by
  unfold State.relinkOne
  cases h : (s.slot a d).station with
  | none =>
    dsimp only
    split
    · rename_i w
      subst w
      cases k : s.slot a e
      rw [k] at h
      simp at h
      simp [h]
    · rfl
  | some st =>
    have key : (s.setStation a d (f st)).slot a e = if e = d then { s.slot a d with station := some (f st) } else s.slot a e := by
      unfold State.setStation
      rw [State.slot_setSlot]
      by_cases w : e = d
      · subst w
        simp [ha, hd]
      · simp [w, Ne.symm w]
    dsimp only
    split
    · rw [State.slot_tellUnreachable, key]
      rfl
    · rw [key]
      rfl

theorem State.gate_relinkOne {f : Station → Station} (hf : ∀ st, (f st).link ≠ .present) (s : State) (a d g : Nat) (hg : g < 8) :
    (s.relinkOne a f true d).gate g = if s.gateHere a g d = true then (s.gate g).cutOff else s.gate g := by
  unfold State.relinkOne State.gateHere State.isPresent State.link
  cases hs : (s.slot a d).station with
  | none => cases s.row a d <;> simp
  | some st =>
    by_cases hl : st.link = .present
    · have told : (true && st.link == .present && (f st).link != .present) = true := by simp [hl, hf]
      dsimp only
      rw [if_pos told]
      simp only [hl, BEq.rfl, Bool.and_true, State.tellUnreachable, State.row_setStation]
      cases hr : s.row a d with
      | gate n k h =>
        simp only [State.gate_setGate, Gate.goOffline_eq, beq_iff_eq, hg, and_true]
        split
        · rename_i w
          subst w
          rfl
        · rfl
      | _ => rfl
    · cases s.row a d <;> simp [hl] <;> rfl

theorem State.pump_relinkOne {f : Station → Station} (hf : ∀ st, (f st).link ≠ .present) (s : State) (a d p : Nat) (hp : p < 4) :
    (s.relinkOne a f true d).pump p = if s.pumpHere a p d = true then (s.pump p).cutOff s.clock else s.pump p := by
  unfold State.relinkOne State.pumpHere State.isPresent State.link
  cases hs : (s.slot a d).station with
  | none => cases s.row a d <;> simp
  | some st =>
    by_cases hl : st.link = .present
    · have told : (true && st.link == .present && (f st).link != .present) = true := by simp [hl, hf]
      dsimp only
      rw [if_pos told]
      simp only [hl, BEq.rfl, Bool.and_true, State.tellUnreachable, State.row_setStation]
      cases hr : s.row a d with
      | pump n k h =>
        simp only [State.pump_setPump, Pump.linkLost_eq, beq_iff_eq, hp, and_true]
        split
        · rename_i w
          subst w
          rfl
        · rfl
      | _ => rfl
    · cases s.row a d <;> simp [hl] <;> rfl

/-! ### All addresses -/

/-- The step at each of several addresses: the station records, the gates and the pumps it leaves. -/
theorem State.relinkList {a : Nat} (f : Station → Station) (tell : Bool) (ha : a < 6) (l : List Nat) (s : State) (hn : l.Nodup)
    (hr : ∀ d ∈ l, 1 ≤ d ∧ d ≤ 30) :
    let t := l.foldl (State.relinkOne a f tell) s
    ArmSlotsChanged s t a ∧
    (∀ e, t.slot a e = if e ∈ l then { s.slot a e with station := (s.slot a e).station.map f } else s.slot a e) ∧
    (tell = true → (∀ st, (f st).link ≠ .present) →
      (∀ g, g < 8 → t.gate g = if l.any (s.gateHere a g) = true then (s.gate g).cutOff else s.gate g) ∧
      ∀ p, p < 4 → t.pump p = if l.any (s.pumpHere a p) = true then (s.pump p).cutOff s.clock else s.pump p) := by
  induction l generalizing s with
  | nil => exact ⟨.refl .., fun e => by simp, fun _ _ => ⟨fun _ _ => by simp, fun _ _ => by simp⟩⟩
  | cons x xs ih =>
    obtain ⟨hx, hxs⟩ := List.nodup_cons.mp hn
    obtain ⟨h1, h2, h3⟩ := ih (s.relinkOne a f tell x) hxs (fun d hd => hr d (List.mem_cons_of_mem _ hd))
    have hslot (e : Nat) := s.slot_relinkOne f tell ha (hr x List.mem_cons_self) e
    have hout : ∀ d ∈ xs, (s.relinkOne a f tell x).slot a d = s.slot a d := fun d hd => by
      rw [hslot, if_neg (by rintro rfl; exact hx hd)]
    refine ⟨(ArmSlotsChanged.relinkOne ..).trans h1, fun e => ?_, fun ht hf => ?_⟩
    · rw [List.foldl_cons, h2 e, hslot]
      by_cases c : e ∈ xs
      · have w : e ≠ x := by
          rintro rfl
          exact hx c
        simp [c, w]
      · by_cases w : e = x
        · subst w
          simp [c]
        · simp [c, w]
    · subst ht
      have hclock : (s.relinkOne a f true x).clock = s.clock := by rw [(ArmSlotsChanged.relinkOne a f true s x).rest]
      have hgate (g : Nat) : xs.any ((s.relinkOne a f true x).gateHere a g) = xs.any (s.gateHere a g) := by
        rw [Bool.eq_iff_iff, List.any_eq_true, List.any_eq_true]
        refine exists_congr fun d => and_congr_right fun hd => ?_
        simp only [State.gateHere, State.isPresent, State.link, State.row, hout d hd]
      have hpump (p : Nat) : xs.any ((s.relinkOne a f true x).pumpHere a p) = xs.any (s.pumpHere a p) := by
        rw [Bool.eq_iff_iff, List.any_eq_true, List.any_eq_true]
        refine exists_congr fun d => and_congr_right fun hd => ?_
        simp only [State.pumpHere, State.isPresent, State.link, State.row, hout d hd]
      refine ⟨fun g hg => ?_, fun p hp => ?_⟩
      · rw [List.foldl_cons, (h3 rfl hf).1 g hg, hgate, State.gate_relinkOne hf s a x g hg, List.any_cons]
        cases s.gateHere a g x <;> cases xs.any (s.gateHere a g) <;> simp
      · rw [List.foldl_cons, (h3 rfl hf).2 p hp, hpump, hclock, State.pump_relinkOne hf s a x p hp, List.any_cons]
        cases s.pumpHere a p x <;> cases xs.any (s.pumpHere a p) <;> simp

theorem State.slot_outside (s : State) (a d : Nat) (h : ¬ (1 ≤ d ∧ d ≤ 30)) : s.slot a d = Slot.reset := by
  unfold State.slot Arm.slot
  cases d with
  | zero => rfl
  | succ d => simp [numGet, tabGet, show ¬ d < 30 by omega]

/-- Every station of an arm takes its new link and missed count, and only slots, gates and pumps change. -/
theorem State.relinkStations_slots (s : State) {a : Nat} (f : Station → Station) (tell : Bool) (ha : a < 6) :
    ArmSlotsChanged s (s.relinkStations a f tell) a ∧
    ∀ e, (s.relinkStations a f tell).slot a e = { s.slot a e with station := (s.slot a e).station.map f } := by
  obtain ⟨h1, h2, -⟩ := State.relinkList f tell ha addresses s (by decide) (fun d hd => mem_addresses.mp hd)
  refine ⟨h1, fun e => (h2 e).trans ?_⟩
  split
  · rfl
  · rename_i w
    rw [State.slot_outside s a e (fun k => w (mem_addresses.mpr k))]
    rfl

/-- Where no station stays PRESENT, the owner of each that was is cut off (R180, R182, R184). -/
theorem State.relinkStations_owners (s : State) {a : Nat} {f : Station → Station} (hf : ∀ st, (f st).link ≠ .present) (ha : a < 6) :
    OwnersCutOff s (s.relinkStations a f true) a := by
  obtain ⟨-, -, h⟩ := State.relinkList f true ha addresses s (by decide) (fun d hd => mem_addresses.mp hd)
  obtain ⟨hg, hp⟩ := h rfl hf
  have here (d : Nat) (h : s.link a d = .present) : d ∈ addresses := by
    refine mem_addresses.mpr (Classical.byContradiction fun w => ?_)
    rw [State.link, State.slot_outside s a d w] at h
    cases h
  refine ⟨fun g hg8 => ⟨?_, fun w => ?_⟩, fun p hp4 => ⟨?_, fun w => ?_⟩⟩
  · rintro ⟨d, k, r, e, l⟩
    exact (hg g hg8).trans (if_pos (List.any_eq_true.mpr ⟨d, here d l, (s.gateHere_iff a g d).mpr ⟨k, r, e, l⟩⟩))
  · refine (hg g hg8).trans (if_neg fun c => ?_)
    obtain ⟨d, -, c⟩ := List.any_eq_true.mp c
    obtain ⟨k, r, e, l⟩ := (s.gateHere_iff a g d).mp c
    exact w d k r e l
  · rintro ⟨d, k, r, e, l⟩
    exact (hp p hp4).trans (if_pos (List.any_eq_true.mpr ⟨d, here d l, (s.pumpHere_iff a p d).mpr ⟨k, r, e, l⟩⟩))
  · refine (hp p hp4).trans (if_neg fun c => ?_)
    obtain ⟨d, -, c⟩ := List.any_eq_true.mp c
    obtain ⟨k, r, e, l⟩ := (s.pumpHere_iff a p d).mp c
    exact w d k r e l

end Sys2Proof.Machine
end

