-- ==== Sys2Proof/Laws/KeptBus.lean ====
section
/-! SUPPORT. The laws of Safety.lean are kept by the Arm Bus Masters: station links, error counts, probes, sweeps, the arbiter and the end
of an exchange (ArmOps.lean). -/

set_option Elab.async false

namespace Sys2Proof.Machine

variable {k : LawName} {s : State}

/-! ### What stays of an arm -/

/-- The records of the arms themselves, without their slots: what station links and marks do not touch. -/
def Arm.bus (A : Arm) : Option Exchange × ArmState × Nat × Nat :=
  (A.inFlight, A.state, A.errors, A.probes)

theorem State.bus_setSlot (a d b : Nat) (x : Slot) : ((s.setSlot a d x).arm b).bus = (s.arm b).bus := by
  unfold State.setSlot
  rw [State.arm_setArm]
  split
  · rename_i e
    rw [e.1]
    rfl
  · rfl

theorem State.bus_tellUnreachable (a d b : Nat) : ((s.tellUnreachable a d).arm b).bus = (s.arm b).bus := by
  unfold State.tellUnreachable
  split <;> rfl

theorem State.bus_tellReturned (a d b : Nat) : ((s.tellReturned a d).arm b).bus = (s.arm b).bus := by
  unfold State.tellReturned
  split <;> rfl

theorem State.bus_post (n : NoticeBody) (b : Nat) : ((s.post n).arm b).bus = (s.arm b).bus := rfl

theorem State.bus_stationGood (a d b : Nat) : ((s.stationGood a d).arm b).bus = (s.arm b).bus := by
  unfold State.stationGood
  split
  · rfl
  · dsimp only
    split
    · exact State.bus_setSlot ..
    · rw [State.bus_tellReturned, State.bus_post]
      exact State.bus_setSlot ..

theorem State.bus_stationBad (a d b : Nat) : ((s.stationBad a d).arm b).bus = (s.arm b).bus := by
  unfold State.stationBad
  split
  · rfl
  · dsimp only
    split
    · rw [State.bus_tellUnreachable, State.bus_post]
      exact State.bus_setSlot ..
    · exact State.bus_setSlot ..

theorem State.bus_foldl {α : Type} {f : State → α → State} {b : Nat} (hf : ∀ t x, ((f t x).arm b).bus = (t.arm b).bus) :
    ∀ (l : List α) (t : State), ((l.foldl f t).arm b).bus = (t.arm b).bus
  | [], _ => rfl
  | x :: l, t => by rw [List.foldl_cons, State.bus_foldl hf l, hf]

theorem State.bus_relinkStations (a b : Nat) (f : Station → Station) (tell : Bool) :
    ((s.relinkStations a f tell).arm b).bus = (s.arm b).bus := by
  refine State.bus_foldl (fun t d => ?_) _ s
  split
  · rfl
  · dsimp only
    split
    · rw [State.bus_tellUnreachable]
      exact State.bus_setSlot ..
    · exact State.bus_setSlot ..

/-! ### Stations -/

theorem Law.armOk (h : Law k s) (a : Nat) : k = .arms → ArmOk (s.arm a) := by
  rintro rfl
  exact h a

theorem Law.tellUnreachable {a d : Nat} (h : Law k s) : Law k (s.tellUnreachable a d) := by
  unfold State.tellUnreachable
  split
  · exact h.setGate
  · exact h.setPump (.linkLost h _)
  · exact h

theorem Row.pump_mem_claims {r : Row} {p : Nat} : .pump p ∈ r.claims ↔ ∃ g0 g1, r = .pump p g0 g1 := by
  cases r with
  | none => simp [Row.claims]
  | gate => simp [Row.claims]
  | pump n g0 g1 => simp [Row.claims, eq_comm]
  | post b0 b1 => cases b0 <;> cases b1 <;> simp [Row.claims]

/-- The pump a row names has its station there. -/
theorem PumpsPlaced.station (h : PumpsPlaced s) {a d p g0 g1 : Nat} (hp : p < 4) (e : s.row a d = .pump p g0 g1) :
    (s.pump p).station = some (a, d) :=
  (h.row hp a d).mpr (Row.pump_mem_claims.mpr ⟨g0, g1, e⟩)

/-- An IDLE pump's station, as its row names it. -/
theorem PumpsPlaced.rowOf (h : PumpsPlaced s) {a d p : Nat} (hi : (s.pump p).state ≠ .offline)
    (e : (s.pump p).station = some (a, d)) : ∃ g0 g1, s.row a d = .pump p g0 g1 :=
  Row.pump_mem_claims.mp ((h.row (State.pump_range hi) a d).mp e)

/-- Once its owner is told that a station is unreachable, no IDLE pump stands there. -/
theorem Law.told_idle {a d : Nat} (h : Law .holds s) (p : Nat) (hi : ((s.tellUnreachable a d).pump p).state = .idle) :
    ((s.tellUnreachable a d).pump p).station ≠ some (a, d) := by
  intro e
  have hp : p < 4 := State.pump_range (by rw [hi]; decide)
  obtain ⟨g0, g1, hr⟩ := h.tellUnreachable.placed.rowOf (by rw [hi]; decide) e
  have hr : s.row a d = .pump p g0 g1 := by
    rw [← hr]
    show (s.slot a d).row = ((s.tellUnreachable a d).slot a d).row
    unfold State.tellUnreachable
    split <;> rfl
  unfold State.tellUnreachable at hi
  rw [hr] at hi
  dsimp only at hi
  rw [State.pump_set_self hp] at hi
  exact ((s.pump p).linkLost_place s.clock).2.2.2.1 hi

/-- Telling an owner and writing the station's record go in either order. -/
theorem State.setStation_tell (a d : Nat) (st : Station) :
    (s.setStation a d st).tellUnreachable a d = (s.tellUnreachable a d).setStation a d st := by
  unfold State.tellUnreachable
  rw [State.row_setStation]
  split <;> rfl

theorem State.post_tell (a d : Nat) (n : NoticeBody) : (s.post n).tellUnreachable a d = (s.tellUnreachable a d).post n := by
  unfold State.tellUnreachable
  have e : (s.post n).row a d = s.row a d := rfl
  rw [e]
  split <;> rfl

theorem Law.station {a d : Nat} {st : Station} (h : Law k s) (e : (s.slot a d).station = some st) :
    k = .arms → st.missed ≤ 15 := by
  rintro rfl
  exact h.slot_missed st e

/-- A station leaves PRESENT, or stays without it, once its owner is told. -/
theorem Law.cutStation {a d : Nat} {st : Station} (h : Law k s) (hm : k = .arms → st.missed ≤ 15) (hl : st.link ≠ .present) :
    Law k ((s.setStation a d st).tellUnreachable a d) := by
  rw [State.setStation_tell]
  refine h.tellUnreachable.setStation hm (fun hk => ⟨fun c => absurd c hl, fun p hi e => ?_⟩)
  subst hk
  exact absurd e (h.told_idle p hi)

/-- A station that is not PRESENT takes a link other than PRESENT; so may one that is where no pump is IDLE. -/
theorem Law.offStation {a d : Nat} {st : Station} (h : Law k s) (hm : k = .arms → st.missed ≤ 15) (hl : st.link ≠ .present)
    (hi : k = .holds → s.isPresent a d = false ∨ ∀ p, (s.pump p).state ≠ .idle) : Law k (s.setStation a d st) := by
  refine h.setStation hm (fun hk => ⟨fun c => absurd c hl, fun p hp e => ?_⟩)
  rcases hi hk with c | c
  · subst hk
    have hc := h.placed.idleAt hp e
    rw [c] at hc
    cases hc
  · exact absurd hp (c p)

/-- A station keeps its link. -/
theorem Law.sameStation {a d n : Nat} {st : Station} (h : Law k s) (e : (s.slot a d).station = some st) (hn : n ≤ 15) :
    Law k (s.setStation a d { st with missed := n }) := by
  have hl : s.isPresent a d = (st.link == .present) := by
    unfold State.isPresent State.link
    rw [e]
  refine h.setStation (fun _ => hn) (fun hk => ⟨fun c => .inl (by rw [hl]; simpa using c), fun p hp es => ?_⟩)
  subst hk
  have hc := h.placed.idleAt hp es
  rw [hl] at hc
  simpa using hc

/-- The owner of a PRESENT station is told of its return. -/
theorem Law.tellReturned {a d : Nat} (h : Law k s) (hp : k = .holds → s.isPresent a d = true) : Law k (s.tellReturned a d) := by
  unfold State.tellReturned
  split
  · rename_i n g0 g1 e
    refine h.setPump ?_
    unfold Pump.linkBack
    split
    · rename_i eo
      refine .goesOn h (fun hk => ?_) (fun _ => by rw [eo]; rfl) (fun _ c => by rw [eo] at c; cases c)
        (fun hk => by subst hk; exact (h.bound n).2) (fun hk hn _ => .inr ?_)
      · have := (h.pumpOk n hk).linkBack
        unfold Pump.linkBack at this
        rw [if_pos eo] at this
        exact this
      · subst hk
        rw [State.pumpPresent_at (h.placed.station hn e)]
        exact hp rfl
    · exact .of_eq h (h.pumpOk n)
  · exact h

theorem Row.of_default {a d : Nat} (h : s.row a d ≠ .none) : a < 6 ∧ 1 ≤ d ∧ d ≤ 30 := by
  refine ⟨Classical.byContradiction (fun c => h ?_), Classical.byContradiction (fun c => h ?_)⟩
  · simp [State.row, State.slot, State.arm, tabGet, c, Arm.slot, Arm.reset, numGet_replicate, Slot.reset]
  · unfold State.row State.slot Arm.slot
    cases d with
    | zero => rfl
    | succ d =>
      have : ¬ d < 30 := by omega
      simp [numGet, tabGet, this, Slot.reset]

theorem State.isPresent_setStation {a d : Nat} {st : Station} (h : a < 6 ∧ 1 ≤ d ∧ d ≤ 30) :
    (s.setStation a d st).isPresent a d = (st.link == .present) := by
  unfold State.isPresent State.link State.setStation
  rw [State.slot_setSlot, if_pos ⟨⟨rfl, h.1⟩, rfl, h.2⟩]

theorem Law.stationGood {a d : Nat} (h : Law k s) (hd : k = .holds → (s.arm a).state ≠ .disabled) : Law k (s.stationGood a d) := by
  unfold State.stationGood
  split
  · exact h
  · rename_i st e
    dsimp only
    have h1 : Law k (s.setStation a d { link := .present, missed := 0 }) :=
      h.setStation (fun _ => Nat.zero_le _) (fun hk => ⟨fun _ => .inr (hd hk), fun _ _ _ => rfl⟩)
    split
    · exact h1
    · refine h1.post.tellReturned (fun _ => ?_)
      refine State.isPresent_setStation ?_
      refine ⟨Classical.byContradiction (fun c => ?_), Classical.byContradiction (fun c => ?_)⟩
      · simp [State.slot, State.arm, tabGet, c, Arm.slot, Arm.reset, numGet_replicate, Slot.reset] at e
      · unfold State.slot Arm.slot at e
        cases d with
        | zero => cases e
        | succ d =>
          have : ¬ d < 30 := by omega
          simp [numGet, tabGet, this, Slot.reset] at e

theorem Law.stationBad {a d : Nat} (h : Law k s) : Law k (s.stationBad a d) := by
  unfold State.stationBad
  split
  · exact h
  · rename_i st e
    dsimp only
    split
    · rw [State.post_tell]
      exact (h.cutStation (fun _ => Nat.min_le_right ..) (fun c => by cases c)).post
    · exact h.sameStation e (Nat.min_le_right ..)

/-- A rule for the stations of an arm that leaves none PRESENT; where their owners are not told, no pump is IDLE. -/
theorem Law.relinkStations {a : Nat} {f : Station → Station} {tell : Bool} (h : Law k s)
    (hf : ∀ st, st.missed ≤ 15 → (f st).missed ≤ 15) (hl : ∀ st, (f st).link ≠ .present)
    (ht : k = .holds → tell = true ∨ ∀ p, (s.pump p).state ≠ .idle) : Law k (s.relinkStations a f tell) := by
  unfold State.relinkStations
  generalize addresses = l
  induction l generalizing s with
  | nil => exact h
  | cons d l ih =>
    rw [List.foldl_cons]
    split
    · exact ih h ht
    · rename_i st e
      dsimp only
      split
      · rename_i c
        refine ih (h.cutStation (fun hk => hf st (h.station e hk)) (hl st)) (fun _ => .inl ?_)
        simp only [Bool.and_eq_true] at c
        exact c.1.1
      · rename_i c
        refine ih (h.offStation (fun hk => hf st (h.station e hk)) (hl st) (fun hk => ?_)) ht
        rcases ht hk with c' | c'
        · refine .inl ?_
          unfold State.isPresent State.link
          rw [e]
          simpa [hl st, c'] using c
        · exact .inr c'

theorem Law.unseenStations {a : Nat} {tell : Bool} (h : Law k s) (ht : k = .holds → tell = true ∨ ∀ p, (s.pump p).state ≠ .idle) :
    Law k (s.relinkStations a Station.unseen tell) :=
  h.relinkStations (fun _ _ => Nat.zero_le _) (fun _ => nofun) ht

theorem Station.silenced_missed (st : Station) : st.silenced.missed = st.missed := by
  unfold Station.silenced
  split <;> rfl

theorem Station.silenced_link (st : Station) : st.silenced.link ≠ .present := by
  unfold Station.silenced
  split
  · exact nofun
  · assumption

theorem Law.silencedStations {a : Nat} (h : Law k s) : Law k (s.relinkStations a Station.silenced true) :=
  h.relinkStations (fun st hst => by rw [Station.silenced_missed]; exact hst) Station.silenced_link (fun _ => .inl rfl)

/-! ### Sweeps and states of an arm -/

/-- An arm's record that keeps its slots, its counts, its exchange and its state. -/
theorem Law.busArm {a : Nat} {A : Arm} (h : Law k s) (e : A.slots = (s.arm a).slots) (eb : A.bus = (s.arm a).bus)
    (hs : A.settings = (s.arm a).settings := by rfl) : Law k (s.setArm a A) := by
  simp only [Arm.bus, Prod.mk.injEq] at eb
  obtain ⟨e1, e2, e3, e4⟩ := eb
  refine h.setArm (.of_slots h e (fun hk => ?_) (fun hk hd => ?_) hs)
  · have ho := h.armOk a hk
    rw [e1, e2, e3, e4]
    exact ⟨ho.1, ho.2.1, ho.2.2.2⟩
  · subst hk
    rw [e2] at hd
    exact ⟨hd, e1.trans (h.placed.quiet hd)⟩

theorem Law.startSweep {a : Nat} (h : Law k s) : Law k (s.startSweep a) :=
  h.busArm rfl rfl

theorem Law.sweepDue {a : Nat} (h : Law k s) : Law k (s.sweepDue a) := by
  unfold State.sweepDue
  split
  · exact h.startSweep
  · exact h.busArm rfl rfl

/-- An arm's record that keeps its slots, with counts in range, in a state that carries any exchange. -/
theorem Law.servingArm {a : Nat} {A : Arm} (h : Law k s) (e : A.slots = (s.arm a).slots) (he : k = .arms → A.errors ≤ 255)
    (hp : k = .arms → A.probes ≤ 16) (h1 : A.state = .isolated → False) (h2 : A.state = .disabled → False)
    (hs : A.settings = (s.arm a).settings := by rfl) : Law k (s.setArm a A) :=
  h.setArm (.of_slots h e (fun hk => ⟨he hk, hp hk, fun e => (h1 e).elim, fun e => (h2 e).elim⟩) (fun _ e => (h2 e).elim) hs)

theorem Arm.errors_of_bus {A B : Arm} (e : A.bus = B.bus) : A.errors = B.errors := by
  simp only [Arm.bus, Prod.mk.injEq] at e
  exact e.2.2.1

theorem Arm.probes_of_bus {A B : Arm} (e : A.bus = B.bus) : A.probes = B.probes := by
  simp only [Arm.bus, Prod.mk.injEq] at e
  exact e.2.2.2

theorem Arm.inFlight_of_bus {A B : Arm} (e : A.bus = B.bus) : A.inFlight = B.inFlight := by
  simp only [Arm.bus, Prod.mk.injEq] at e
  exact e.1

theorem Arm.state_of_bus {A B : Arm} (e : A.bus = B.bus) : A.state = B.state := by
  simp only [Arm.bus, Prod.mk.injEq] at e
  exact e.2.1

theorem Law.activate {a : Nat} {tell : Bool} (h : Law k s) (ht : k = .holds → tell = true ∨ ∀ p, (s.pump p).state ≠ .idle) :
    Law k (s.activate a tell) := by
  have h1 : Law k (s.relinkStations a Station.unseen tell) := h.unseenStations ht
  unfold State.activate
  dsimp only
  refine Law.startSweep (h1.servingArm rfl (fun hk => (h1.armOk a hk).1) (fun hk => (h1.armOk a hk).2.1) (fun e => ?_)
    (fun e => ?_)) <;> cases e

theorem Law.isolate {a : Nat} (h : Law k s) (hi : k = .arms → (s.arm a).inFlight = none) : Law k (s.isolate a) := by
  have h1 : Law k (s.relinkStations a Station.silenced true) := h.silencedStations
  have e1 := Arm.inFlight_of_bus (s.bus_relinkStations a a Station.silenced true)
  unfold State.isolate
  dsimp only
  refine Law.post (h1.setArm (.of_slots h1 rfl (fun hk => ⟨Nat.zero_le _, Nat.zero_le _, fun _ ex hex => ?_, nofun⟩) (fun _ => nofun)))
  change ((s.relinkStations a Station.silenced true).arm a).inFlight = some ex at hex
  rw [e1, hi hk] at hex
  cases hex

theorem ArmState.serves_ne {st : ArmState} (h : ¬ st.serves = false) : (st = .isolated → False) ∧ (st = .disabled → False) := by
  constructor <;> (rintro rfl; exact h rfl)

theorem Law.errorsBad {a : Nat} (h : Law k s) (hi : k = .arms → (s.arm a).inFlight = none) : Law k (s.errorsBad a) := by
  unfold State.errorsBad
  dsimp only
  split
  · exact h
  · rename_i hs
    split
    · exact h.isolate hi
    · rename_i hn
      have hne := ArmState.serves_ne hs
      have h1 : Law k ((s.setArm a { s.arm a with errors := (s.arm a).errors + 8 }).postIf
          (decide ((s.arm a).errors < 96 ∧ 96 ≤ (s.arm a).errors + 8)) (.armWarning a ((s.arm a).errors + 8))) :=
        Law.postIf (h.servingArm rfl (fun _ => by dsimp only; omega) (fun hk => (h.armOk a hk).2.1) hne.1 hne.2)
      generalize (s.setArm a { s.arm a with errors := (s.arm a).errors + 8 }).postIf
          (decide ((s.arm a).errors < 96 ∧ 96 ≤ (s.arm a).errors + 8)) (.armWarning a ((s.arm a).errors + 8)) = s1 at h1
      split
      · refine Law.post (h1.servingArm rfl (fun hk => (h1.armOk a hk).1) (fun hk => (h1.armOk a hk).2.1) (fun e => ?_)
          (fun e => ?_)) <;> cases e
      · exact h1

theorem Law.errorsGood {a : Nat} (h : Law k s) : Law k (s.errorsGood a) := by
  unfold State.errorsGood
  dsimp only
  split
  · exact h
  · rename_i hs
    have hne := ArmState.serves_ne hs
    have h1 : Law k (s.setArm a { s.arm a with errors := (s.arm a).errors - 1 }) :=
      h.servingArm rfl (fun hk => by have := (h.armOk a hk).1; dsimp only; omega) (fun hk => (h.armOk a hk).2.1) hne.1 hne.2
    generalize s.setArm a { s.arm a with errors := (s.arm a).errors - 1 } = s1 at h1
    split
    · refine Law.post (h1.servingArm rfl (fun hk => (h1.armOk a hk).1) (fun hk => (h1.armOk a hk).2.1) (fun e => ?_)
        (fun e => ?_)) <;> cases e
    · exact h1

theorem Law.probeCount {a n : Nat} (h : Law k s) (hn : n ≤ 16) : Law k (s.setArm a { s.arm a with probes := n }) :=
  h.setArm (.of_slots h rfl (fun hk => ⟨(h.armOk a hk).1, hn, (h.armOk a hk).2.2.2⟩)
    (fun hk hd => by subst hk; exact ⟨hd, h.placed.quiet hd⟩))

theorem Law.probeOutcome {a : Nat} {good : Bool} (h : Law k s) : Law k (s.probeOutcome a good) := by
  unfold State.probeOutcome
  dsimp only
  split
  · exact h.probeCount (Nat.zero_le _)
  · have h1 : Law k (s.setArm a { s.arm a with probes := satAdd 16 (s.arm a).probes 1 }) := h.probeCount (Nat.min_le_right ..)
    split
    · split
      · exact (h1.activate (fun _ => .inl rfl)).post
      · exact h1.postIf
    · exact h1

/-! ### The arbiter -/

theorem Law.markCarried {a d : Nat} (h : Law k s) : Law k (s.markCarried a d) := by
  unfold State.markCarried
  split
  · exact h.setGate
  · exact h.setPump (.of_eq h (fun hk => (h.pumpOk _ hk).marked _))
  · split
    · rename_i p e
      have hp := h.postOk e
      exact h.setPost (fun hk => by exact hp hk)
    · exact h
  · exact h

theorem State.bus_markCarried (a d b : Nat) : ((s.markCarried a d).arm b).bus = (s.arm b).bus := by
  unfold State.markCarried
  split
  · rfl
  · rfl
  · split
    · exact State.bus_setSlot ..
    · rfl
  · rfl

theorem State.bus_setArm {a b : Nat} {A : Arm} (e : A.bus = (s.arm a).bus) : ((s.setArm a A).arm b).bus = (s.arm b).bus := by
  rw [State.arm_setArm]
  split
  · rename_i c
    rw [e, c.1]
  · rfl

theorem State.bus_takeWork (a d b : Nat) (w : Work) : ((s.takeWork a d w).arm b).bus = (s.arm b).bus := by
  unfold State.takeWork
  dsimp only
  split
  · exact State.bus_setArm rfl
  · exact State.bus_setArm rfl
  · exact State.bus_setArm rfl
  · exact State.bus_markCarried ..
  · rfl

theorem Law.takeWork {a d : Nat} {w : Work} (h : Law k s) : Law k (s.takeWork a d w) := by
  unfold State.takeWork
  dsimp only
  split
  · exact h.busArm rfl rfl
  · exact h.busArm rfl rfl
  · exact h.busArm rfl rfl
  · exact h.markCarried
  · exact h

theorem Law.launch {a d : Nat} {req : ArmRequest} {w : Work} (h : Law k s)
    (hi : (s.arm a).state = .isolated → req = .probe) (hd : (s.arm a).state ≠ .disabled) : Law k (s.launch a d req w) := by
  have h1 : Law k (s.takeWork a d w) := h.takeWork
  have e := Arm.state_of_bus (s.bus_takeWork a d a w)
  unfold State.launch
  dsimp only
  refine h1.setArm (.of_slots h1 rfl (fun hk => ⟨(h1.armOk a hk).1, (h1.armOk a hk).2.1, fun hs ex hex => ?_, fun hs => ?_⟩)
    (fun _ hs => absurd (e ▸ hs) hd))
  · cases hex
    exact hi (e ▸ hs)
  · exact absurd (e ▸ hs) hd

theorem State.probeWork_req {a d : Nat} {req : ArmRequest} {w : Work} (e : s.probeWork a = some (d, req, w)) : req = .probe := by
  unfold State.probeWork at e
  split at e
  · obtain ⟨x, -, e⟩ := Option.map_eq_some_iff.mp e
    cases e
    rfl
  · cases e

theorem Law.arbitrate {a : Nat} (h : Law k s) : Law k (s.arbitrate a) := by
  unfold State.arbitrate
  split
  · exact h
  · dsimp only
    cases hs : (s.arm a).state with
    | disabled => exact h
    | active =>
      dsimp only
      split
      · exact h.launch (fun e => by rw [hs] at e; cases e) (by rw [hs]; decide)
      · exact h
    | degraded =>
      dsimp only
      split
      · exact h.launch (fun e => by rw [hs] at e; cases e) (by rw [hs]; decide)
      · exact h
    | isolated =>
      dsimp only
      split
      · rename_i e
        exact h.launch (fun _ => State.probeWork_req e) (by rw [hs]; decide)
      · exact h

theorem Law.arbitrateAll (h : Law k s) : Law k s.arbitrateAll :=
  Law.foldl (fun _ _ ht => ht.arbitrate) _ h

/-- A command whose changes keep a law, followed by the arbiters' and the send side's choices, keeps it. -/
theorem Law.afterBus (h : Law k s) : Law k s.arbitrateAll.sendNext :=
  h.arbitrateAll.sendNext

/-! ### The end of an exchange -/

theorem PostOk.acked {p : Post} (h : PostOk p) : PostOk p.acked := by
  unfold Post.acked
  split <;> exact h

theorem Law.deliver {a : Nat} {ex : Exchange} {c : ReplyContent} (h : Law k s) : Law k (s.deliver a ex c) := by
  unfold State.deliver
  split
  · exact h.postStatus
  · exact h.gateStatus
  · exact h.pumpStatus
  · split
    · rename_i e
      exact h.setPost (fun hk => (h.postOk e hk).acked)
    · exact h
  · exact h.setGate
  · exact h.setPump (.acked h _)
  · exact h.setPump (.acked h _)
  · exact h.relayEnd
  · exact h.relayEnd
  · exact h

theorem Law.failed {a : Nat} {ex : Exchange} (h : Law k s) : Law k (s.failed a ex) := by
  unfold State.failed
  split
  · exact h.relayEnd
  · exact h

theorem Law.sweepEnd {a : Nat} (h : Law k s) : Law k (s.sweepEnd a) := by
  unfold State.sweepEnd
  dsimp only
  split
  · split
    · exact h.startSweep
    · exact h.busArm rfl rfl
  · exact h

theorem Law.tellRelay {a : Nat} {b c : ArmState} (h : Law k s) : Law k (s.tellRelay a b c) := by
  unfold State.tellRelay
  split
  · exact h.endTransfer
  · exact h

theorem Law.idleArm {a : Nat} (h : Law k s) : Law k (s.setArm a { s.arm a with inFlight := none }) := by
  refine h.setArm (.of_slots h rfl (fun hk => ⟨(h.armOk a hk).1, (h.armOk a hk).2.1, fun _ ex hex => ?_, fun _ => rfl⟩)
    (fun _ hd => ⟨hd, rfl⟩))
  cases hex

theorem Law.exchangeEnd {a : Nat} {ex : Exchange} {reply : Option ReplyContent} (h : Law k s)
    (hd : k = .holds → (s.arm a).state ≠ .disabled) :
    Law k (s.exchangeEnd a ex reply) := by
  have h0 : Law k (s.setArm a { s.arm a with inFlight := none }) := h.idleArm
  have hi : ((s.setArm a { s.arm a with inFlight := none }).arm a).inFlight = none := by
    rw [State.arm_setArm]
    split
    · rfl
    · rename_i c
      have : ¬ a < 6 := fun e => c ⟨rfl, e⟩
      simp [State.arm, tabGet, this, Arm.reset]
  have hd0 : k = .holds → ((s.setArm a { s.arm a with inFlight := none }).arm a).state ≠ .disabled := by
    intro hk
    rw [State.arm_setArm]
    split <;> exact hd hk
  unfold State.exchangeEnd
  dsimp only
  generalize s.setArm a { s.arm a with inFlight := none } = s0 at h0 hi hd0
  split
  · exact h0.probeOutcome
  · refine Law.sweepEnd (Law.tellRelay ?_)
    cases reply with
    | none =>
      refine Law.failed (h0.stationBad.errorsBad (fun _ => ?_))
      rw [Arm.inFlight_of_bus (s0.bus_stationBad a ex.addr a)]
      exact hi
    | some c => exact (h0.stationGood hd0).errorsGood.deliver

end Sys2Proof.Machine
end

