-- ==== Sys2Proof/Laws/KeptCommands.lean ====
section
/-! SUPPORT. The laws of Safety.lean are kept by the blocks' judgements of their requests and by the events, but for the table commits
(KeptTables.lean). -/

set_option Elab.async false

namespace Sys2Proof.Machine

variable {k : LawName} {s : State}

/-! ### Berth Register -/

theorem BerthOk.planned {b : Berth} (h : BerthOk b) (p : Option Nat) : BerthOk (b.plan p) :=
  ⟨h.1, (by simp [Berth.plan] : (b.plan p).reservation.isSome = b.reservation.isSome).trans h.2.1, h.2.2⟩

theorem BerthOk.walkedIn {b : Berth} (h : BerthOk b) (f : CheckInArgs) (t : Nat) : BerthOk (b.walkedIn f t) :=
  ⟨rfl, rfl, h.2.2⟩

/-- An account that may take a berth is not CLOSED (R4, R6, R8). -/
theorem State.admits_open {n : Nat} (h : ¬ s.accountAdmits n = false) : (s.account n).standing ≠ .closed := by
  intro c
  exact h (by unfold State.accountAdmits; rw [c]; rfl)

theorem Law.judgeReserve {f : ReserveArgs} (h : Law k s) : Law k (judgeReserve s f).1 := by
  unfold Machine.judgeReserve
  split
  · exact h
  · split
    · exact h
    · split
      · exact h
      · rename_i e
        refine h.setBerth ⟨fun _ => ⟨rfl, rfl, Nat.zero_le _⟩, fun _ m hm => ?_⟩
        cases hm
        exact State.admits_open e

theorem Law.checkInAwaited {f : CheckInArgs} (h : Law k s) : Law k (s.checkInAwaited f) := by
  unfold State.checkInAwaited
  dsimp only
  have h1 : Law k (s.arrive f.berth .checkIn none) := h.arrive
  split
  · exact h1.setBerth (.of_occupant h1 (fun hk => (h1.berthOk _ hk).planned _))
  · exact h1

theorem Law.judgeCheckIn {f : CheckInArgs} (h : Law k s) : Law k (judgeCheckIn s f).1 := by
  unfold Machine.judgeCheckIn
  dsimp only
  split
  · exact h
  · split
    · split
      · exact h
      · split
        · exact h
        · rename_i e
          refine (h.setBerth ⟨fun hk => (h.berthOk f.berth hk).walkedIn f s.clock, fun _ m hm => ?_⟩).post
          cases hm
          exact State.admits_open e
    · split
      · split
        · exact h.checkInAwaited
        · exact h
      · exact h

theorem Law.judgeDepartureSet {f : DepartureArgs} (h : Law k s) : Law k (judgeDepartureSet s f).1 := by
  unfold Machine.judgeDepartureSet
  split
  · exact h
  · split
    · exact h
    · refine h.setBerth (.of_occupant h (fun hk => ?_))
      have := (h.berthOk f.berth hk).planned f.planned
      exact ⟨this.1, this.2.1, this.2.2⟩

theorem Law.debitNights {b : Nat} (h : Law k s) : Law k (s.debitNights b) := by
  unfold State.debitNights
  split
  · exact h.debit
  · exact h

theorem Law.clearFees {b : Nat} (h : Law k s) : Law k (s.clearFees b) := by
  refine h.setBerth (.of_occupant h (fun hk => ?_))
  have := h.berthOk b hk
  exact ⟨this.1, this.2.1, Nat.zero_le _⟩

theorem Law.settleFees {b : Nat} (h : Law k s) : Law k (s.settleFees b) := by
  unfold State.settleFees
  dsimp only
  split
  · exact h
  · split
    · exact h.debitNights.clearFees
    · exact h.post.clearFees

/-- A berth of BerthLaw in a held state takes another held state. -/
theorem Law.heldBerth {b : Nat} {st : BerthState} {t : Option Nat} (h : Law k s)
    (hs : k = .berths → (s.berth b).state.isHeld = true) (ht : st.isHeld = true) :
    Law k (s.setBerth b { s.berth b with state := st, checkOut := t }) := by
  refine h.setBerth (.of_occupant h (fun hk => ?_))
  have := (h.berthOk b hk).held (hs hk) ht
  exact ⟨this.1, this.2.1, this.2.2⟩

theorem State.berth_mapPosts (f : Row → Post → Post) (b : Nat) : (s.mapPosts f).berth b = s.berth b := rfl

theorem State.state_onStanding (n b : Nat) (x y : Standing) : ((s.onStanding n x y).berth b) = s.berth b := by
  unfold State.onStanding
  dsimp only
  split
  · rfl
  · split
    · rfl
    · split <;> rfl
    · split <;> rfl
    · rfl
    · rfl

theorem State.berth_debit (n d b : Nat) (src : DebitSource) : (s.debit n d src).berth b = s.berth b := by
  unfold State.debit
  dsimp only
  split
  · exact State.state_onStanding ..
  · rfl

theorem State.berth_settleFees (b : Nat) : ((s.settleFees b).berth b).state = (s.berth b).state := by
  have hc : ∀ t : State, ((t.clearFees b).berth b).state = (t.berth b).state := by
    intro t
    unfold State.clearFees
    rw [State.berth_setBerth]
    split <;> rfl
  unfold State.settleFees
  dsimp only
  split
  · rfl
  · split
    · rw [hc]
      unfold State.debitNights
      split
      · rw [State.berth_debit]
      · rfl
    · rw [hc]
      rfl

theorem Law.checkOutOccupied {b : Nat} (h : Law k s) (hs : (s.berth b).state = .occupied) : Law k (s.checkOutOccupied b).1 := by
  have h1 : Law k ((s.settleFees b).startDeparture b) := by
    refine Law.checkOutOrder (h.settleFees.heldBerth (fun _ => ?_) rfl)
    rw [State.berth_settleFees, hs]
    rfl
  unfold State.checkOutOccupied
  dsimp only
  split
  · exact h1.endDeparture
  · exact h1

theorem Law.judgeCheckOut {b : Nat} (h : Law k s) : Law k (judgeCheckOut s b).1 := by
  unfold Machine.judgeCheckOut
  split
  · exact h
  · split
    · exact h.setBerth (.vacant (fun hk => (h.berthOk b hk).freed))
    · exact h.setBerth (.vacant (fun hk => (h.berthOk b hk).freed))
    · rename_i e
      exact h.checkOutOccupied e
    · exact h

theorem Law.judgeBerthSet {f : BerthSetArgs} (h : Law k s) : Law k (judgeBerthSet s f).1 := by
  unfold Machine.judgeBerthSet
  dsimp only
  split
  · exact h
  · split
    · exact h
    · split
      · exact h
      · refine h.setBerth (.of_occupant h (fun hk => ?_))
        have := h.berthOk f.berth hk
        exact ⟨this.1, this.2.1, this.2.2⟩

theorem Law.moveBerth {x y : BerthState} {b : Nat} (h : Law k s) (hx : x.isHeld = false) (hy : y.isHeld = false) :
    Law k (moveBerth x y s b).1 := by
  unfold Machine.moveBerth
  split
  · exact h
  · split
    · exact h
    · rename_i e
      have e : (s.berth b).state = x := Classical.byContradiction e
      refine h.setBerth (.of_occupant h (fun hk => ?_))
      have := h.berthOk b hk
      unfold BerthOk at this
      rw [e, hx] at this
      exact ⟨this.1.trans hy.symm, this.2.1.trans hy.symm, this.2.2⟩

theorem Law.judgeGraceSet {n : Nat} (h : Law k s) : Law k (judgeGraceSet s n).1 := by
  unfold Machine.judgeGraceSet
  split
  · exact h
  · cases k <;> first | exact h | skip
    obtain ⟨h1, h2, -, h4⟩ := h
    exact ⟨h1, h2, Nat.le_of_not_lt ‹_›, h4⟩

theorem Law.visitStep {b : Nat} (h : Law k s) : Law k (s.visitStep b) := by
  unfold State.visitStep
  dsimp only
  split
  · rename_i e _
    unfold State.visitReserved
    dsimp only
    split
    · refine (h.setBerth (.of_occupant h (fun hk => ?_))).post
      have := (h.berthOk b hk).held (by rw [e]; rfl) (st := .overdue) rfl
      exact ⟨this.1, this.2.1, this.2.2⟩
    · exact h
  · unfold State.visitOverdue
    dsimp only
    split
    · exact (h.setBerth (.vacant (fun hk => (h.berthOk b hk).freed))).post
    · exact h
  · unfold State.visitStay
    dsimp only
    split
    · split
      · refine (h.setBerth (.of_occupant h (fun hk => ?_))).post
        have := h.berthOk b hk
        exact ⟨this.1, this.2.1, this.2.2⟩
      · exact h
    · exact h
  · exact h

theorem Law.visit {b : Nat} (h : Law k s) : Law k (s.visit b) := by
  unfold State.visit
  dsimp only
  split
  · unfold State.visitFees
    split
    · exact h.visitStep.debitNights.clearFees
    · exact h.visitStep
  · exact h.visitStep

theorem nextBerth_range {p : Nat} (h : 1 ≤ p ∧ p ≤ 200) : 1 ≤ nextBerth p ∧ nextBerth p ≤ 200 := by
  unfold nextBerth
  split <;> omega

theorem Law.pointer {p : Nat} (h : Law k s) (hp : k = .settings → 1 ≤ p ∧ p ≤ 200) : Law k { s with scanPtr := p } := by
  cases k <;> first | exact h | skip
  obtain ⟨h1, h2, h3, -, h5⟩ := h
  exact ⟨h1, h2, h3, hp rfl, h5⟩

theorem BerthOk.midnight {b : Berth} (h : BerthOk b) : BerthOk b.midnight := by
  unfold Berth.midnight
  split
  · exact ⟨h.1, h.2.1, Nat.min_le_right ..⟩
  · exact h

theorem Berth.midnight_occupant (b : Berth) : b.midnight.occupant = b.occupant := by
  unfold Berth.midnight
  split <;> rfl

theorem State.berth_midnight (n : Nat) :
    s.midnight.berth n = if 1 ≤ n ∧ n ≤ 200 then (s.berth n).midnight else Berth.reset :=
  numGet_map ..

theorem Law.midnight (h : Law k s) : Law k s.midnight := by
  cases k <;> first | exact h | skip
  case berths =>
    intro n
    rw [State.berth_midnight]
    split
    · exact (h n).midnight
    · exact ⟨rfl, rfl, Nat.zero_le _⟩
  case occupants =>
    intro b n hb
    rw [State.berth_midnight] at hb
    split at hb
    · exact h b n (Berth.midnight_occupant _ ▸ hb)
    · cases hb

/-! ### Account Unit -/

theorem limitsInRange_iff {f : LimitsArgs} (h : ¬ limitsInRange f = false) :
    f.overdraft ≤ 999999 ∧ f.lowThreshold ≤ 999999 ∧ 1 ≤ f.restartMin ∧ f.restartMin ≤ 999999 := by
  simp [limitsInRange, inRange] at h
  omega

theorem Law.judgeAccountDebit {f : AmountArgs} (h : Law k s) : Law k (judgeAccountDebit s f).1 := by
  unfold Machine.judgeAccountDebit
  split
  · exact h
  · split
    · exact h
    · exact h.debit

theorem Law.judgeCredit {f : AmountArgs} (h : Law k s) : Law k (judgeCredit s f).1 := by
  unfold Machine.judgeCredit
  dsimp only
  split
  · exact h
  · split
    · exact h
    · split
      · exact h
      · rename_i e
        refine h.accountChange (.of_holds h (fun hk => ?_) id (fun _ => rfl))
        obtain ⟨⟨h1, h2⟩, h3⟩ := h.accountOk f.account hk
        unfold balanceTop at e
        exact ⟨⟨by dsimp only; omega, by dsimp only; omega⟩, h3⟩

theorem AccountOk.opened {f : LimitsArgs} (h : ¬ limitsInRange f = false) : AccountOk (openedAccount f) := by
  have hl := limitsInRange_iff h
  refine ⟨⟨by show (-9999999 : Int) ≤ 0; decide, by show (0 : Int) ≤ 9999999; decide⟩, Nat.zero_le _, hl.1,
    hl.2.1, hl.2.2, Nat.zero_le _, ?_, List.nodup_nil, ?_⟩
  · intro e he
    cases he
  · exact (Funds.standing_ne_closed _).symm

theorem Law.judgeAccountOpen {f : LimitsArgs} (h : Law k s) : Law k (judgeAccountOpen s f).1 := by
  unfold Machine.judgeAccountOpen
  split
  · exact h
  · split
    · exact h
    · rename_i ho
      have hc : (s.account f.account).standing = .closed := by simpa [Account.isOpen] using ho
      refine h.setAccount ⟨fun _ => AccountOk.opened ‹_›, fun hk c => ?_, fun hk => ⟨?_, fun _ => rfl⟩⟩
      · have c : (fundsAfter .good f.overdraft f.lowThreshold f.restartMin).standing = .closed := c
        exact absurd c (by simpa using Funds.standing_ne_closed _)
      · subst hk
        exact (h.paired.closed _ hc).symm

theorem Law.judgeAccountSet {f : LimitsArgs} (h : Law k s) : Law k (judgeAccountSet s f).1 := by
  unfold Machine.judgeAccountSet
  dsimp only
  split
  · exact h
  · rename_i e
    split
    · exact h
    · refine h.accountChange (.of_holds h (fun hk => ?_) id (fun _ => rfl))
      obtain ⟨h1, h2, -, -, -, h6⟩ := h.accountOk f.account hk
      have hl := limitsInRange_iff e
      exact ⟨h1, h2, hl.1, hl.2.1, hl.2.2, h6⟩

theorem AccountOk.reset : AccountOk Account.reset :=
  ⟨by decide, by decide, by decide, by decide, by decide, by decide, by decide, by decide, rfl⟩

/-- No berth names an account of which the part finds none (R44). -/
theorem State.berthNames_false {n : Nat} (h : s.berthNames n = false) (b : Nat) : (s.berth b).occupant ≠ some n := by
  unfold State.berthNames at h
  rw [List.any_eq_false] at h
  intro e
  unfold State.berth at e
  cases b with
  | zero => cases e
  | succ b =>
    by_cases hb : b < 200
    · have hm : s.berths[b] ∈ s.berths.toList := by simp
      refine h _ hm ?_
      simpa [numGet, tabGet, hb] using e
    · simp [numGet, tabGet, hb, Berth.reset] at e

theorem Law.judgeAccountClose {n : Nat} (h : Law k s) : Law k (judgeAccountClose s n).1 := by
  unfold Machine.judgeAccountClose
  dsimp only
  split
  · exact h
  · split
    · exact h
    · split
      · exact h
      · rename_i eh
        split
        · exact h
        · rename_i eb
          split
          · exact h
          · refine h.setAccount ⟨fun _ => AccountOk.reset, fun _ _ => State.berthNames_false (by simpa using eb),
              fun _ => ⟨?_, fun _ => rfl⟩⟩
            exact (Classical.byContradiction eh).symm

theorem Law.barAccount {n : Nat} (h : Law k s) (ho : (s.account n).isOpen = true) : Law k (s.barAccount n) := by
  refine Law.onStanding (h.setAccount (.of_holds h (fun hk => ?_) nofun (fun _ => rfl)))
  obtain ⟨h1, h2, h3, h4, h5, h6, h7, h8, h9⟩ := h.accountOk n hk
  exact ⟨h1, h2, h3, h4, h5, h6, h7, h8, h9.trans ho⟩

theorem Law.judgeBar {n : Nat} (h : Law k s) : Law k (judgeBar s n).1 := by
  unfold Machine.judgeBar
  dsimp only
  split
  · exact h
  · split
    · exact h
    · rename_i e
      exact h.barAccount (by
        cases ho : (s.account n).isOpen with
        | true => rfl
        | false => exact absurd (.inl ho) e)

theorem Law.judgeUnbar {n : Nat} (h : Law k s) : Law k (judgeUnbar s n).1 := by
  unfold Machine.judgeUnbar
  dsimp only
  split
  · exact h
  · split
    · exact h
    · rename_i e
      have e : (s.account n).standing = .barred := Classical.byContradiction e
      have hs : (s.account n).unbarred ≠ .closed := by
        unfold Account.unbarred
        split
        · simpa using Funds.standing_ne_closed _
        · rw [e]; decide
      refine Law.onStanding (h.setAccount (.of_holds h (fun hk => ?_) (fun c => absurd c hs) (fun _ => rfl)))
      obtain ⟨h1, h2, h3, h4, h5, h6, h7, h8, h9⟩ := h.accountOk n hk
      refine ⟨h1, h2, h3, h4, h5, h6, h7, h8, ?_⟩
      rw [e] at h9
      unfold Account.unbarred
      split
      · rename_i f ef
        dsimp only
        rw [ef, Funds.standing_ne_closed]
        rfl
      · rename_i ef
        rw [ef] at h9
        cases h9

/-! ### Gate Controller -/

theorem Law.judgeGateMode {f : GateModeArgs} (h : Law k s) : Law k (judgeGateMode s f).1 := by
  unfold Machine.judgeGateMode
  split
  · exact h
  · split
    · exact h
    · exact h.setGateMode

theorem Law.judgeGateOpen {g : Nat} (h : Law k s) : Law k (judgeGateOpen s g).1 := by
  unfold Machine.judgeGateOpen
  repeat' split
  all_goals first | exact h | exact h.setGate.post

theorem Law.judgePontoonSet {f : PontoonSetArgs} (h : Law k s) : Law k (judgePontoonSet s f).1 := by
  unfold Machine.judgePontoonSet
  split
  · exact h
  · split
    · exact h
    · refine h.setPontoon (fun _ _ => Nat.le_of_not_lt ‹_›) (fun _ => ?_)
      simp_all

theorem Law.judgePresenceRemove {c : Card} (h : Law k s) : Law k (judgePresenceRemove s c).1 := by
  unfold Machine.judgePresenceRemove
  split
  · exact h
  · exact h.withoutCard

/-! ### Service Point Controller -/

theorem Law.actEach {p : State → PointRef → Bool} {f : State → PointRef → State} {rs : List PointRef}
    (hf : ∀ t r, Law k t → Law k (f t r)) (h : Law k s) : Law k (actEach p f s rs).1 :=
  Law.foldl (fun t r ht => hf t r ht) (rs.filter (p s)) h

theorem Law.onPoints {sel : OutletSel} {svc : Nat} {act : State → SideRef → List PointRef → Judged}
    (ha : ∀ d rs, Law k (act s d rs).1) (h : Law k s) : Law k (onPoints sel svc act s).1 := by
  unfold Machine.onPoints
  repeat' split
  all_goals first | exact h | exact ha _ _

theorem Law.startOutlets {d : SideRef} {rs : List PointRef} (h : Law k s) : Law k (startOutlets s d rs).1 := by
  unfold Machine.startOutlets
  dsimp only
  split
  · exact h
  · split
    · exact h
    · split
      · exact h
      · exact h.actEach (fun _ _ ht => ht.openSession)

theorem Law.stopOutlets {d : SideRef} {rs : List PointRef} (h : Law k s) : Law k (stopOutlets s d rs).1 :=
  h.actEach (fun _ _ ht => ht.startClosing)

theorem Law.officeSuspend {r : PointRef} (h : Law k s) : Law k (s.officeSuspend r) := by
  unfold State.officeSuspend
  split
  · rename_i x ex
    split
    · rename_i ses es
      have hr : k = .points → ses.residue ≤ 999 := fun hk => (h.pointOk ex hk).residue es
      exact h.changePoint (fun hk => (h.pointOk ex hk).inSession (by rfl) (by exact hr hk))
    · exact h
  · exact h

theorem Law.suspendOutlets {d : SideRef} {rs : List PointRef} (h : Law k s) : Law k (suspendOutlets s d rs).1 :=
  h.actEach (fun _ _ ht => ht.officeSuspend)

theorem Law.releaseOutlets {d : SideRef} {rs : List PointRef} (h : Law k s) : Law k (releaseOutlets s d rs).1 :=
  Law.foldl (fun _ _ ht => ht.releasePoint) (rs.filter (fun r => (s.releaseFailure r .office).isNone)) h

theorem Law.clearPoint {r : PointRef} (h : Law k s) : Law k (s.clearPoint r) := by
  unfold State.clearPoint
  split
  · rename_i x ex
    split
    · rename_i e
      refine h.changePoint (fun hk => ?_)
      have hx := h.pointOk ex hk
      refine ⟨?_, hx.2.1, Nat.zero_le _, hx.2.2.2⟩
      have := hx.1
      rw [e] at this
      exact this
    · exact h.closeSession rfl
  · exact h

theorem Law.clearOutlets {d : SideRef} {rs : List PointRef} (h : Law k s) : Law k (clearOutlets s d rs).1 :=
  h.actEach (fun _ _ ht => ht.clearPoint)

theorem Law.setEnables {e : Enables} {r : PointRef} (h : Law k s) : Law k (s.setEnables e r) := by
  unfold State.setEnables
  split
  · rename_i x ex
    have hx := h.pointOk ex
    exact h.storePoint (fun hk => ⟨(hx hk).1, (hx hk).2⟩)
  · exact h

theorem Law.judgeOutletEnables {f : EnablesArgs} (h : Law k s) : Law k (judgeOutletEnables s f).1 := by
  unfold Machine.judgeOutletEnables
  split
  · exact h
  · exact h.onPoints (fun _ rs => Law.foldl (fun _ _ ht => ht.setEnables) rs h)

/-! ### Metering, protection, fuel -/

theorem Law.judgeTripDelaySet {n : Nat} (h : Law k s) : Law k (judgeTripDelaySet s n).1 := by
  unfold Machine.judgeTripDelaySet
  split
  · exact h
  · rename_i e
    cases k <;> first | exact h | skip
    obtain ⟨h1, h2, h3, h4, -, h6⟩ := h
    have : 10 ≤ n ∧ n ≤ 600 := by simpa [inRange] using e
    exact ⟨h1, h2, h3, h4, this, h6⟩

theorem Law.judgeFuelAuthorize {f : FuelAuthArgs} (h : Law k s) : Law k (judgeFuelAuthorize s f).1 := by
  unfold Machine.judgeFuelAuthorize
  split
  · exact h
  · split
    · exact h
    · rename_i hi
      have hi : (s.pump f.pump).state = .idle := Classical.byContradiction hi
      split
      · exact h
      · split
        · refine Law.openSale (fun _ => h) (.opened ..) (fun hk => ?_)
          subst hk
          refine ⟨?_, hi, nofun⟩
          have h0 : s.holder f.pump = none := Pump.holder_none (by rw [hi]; rfl)
          have h1 := HoldMid.start h f.pump
          rw [h0] at h1
          exact h1
        · split <;> rename_i e
          · unfold State.hold at e
            dsimp only at e
            split at e
            · cases e; exact h
            · cases e
          · exact h.holdAndOpen hi e

theorem PumpOk.aborted {x : Pump} (h : PumpOk x) : PumpOk x.aborted := by
  refine h.enters rfl (.inl rfl) (fun e => ?_) (fun q hq => ?_)
  · cases e
  · obtain ⟨r, hr, rfl⟩ := Option.map_eq_some_iff.mp hq
    exact ⟨(h.sale hr).1, (h.sale hr).2⟩

theorem Law.judgeFuelAbort {p : Nat} (h : Law k s) : Law k (judgeFuelAbort s p).1 := by
  unfold Machine.judgeFuelAbort
  split
  · exact h
  · split
    · rename_i e
      exact h.discardSale (fun _ => by rw [e]; rfl)
    · rename_i e
      have ht : (s.pump p).aborted.terms = (s.pump p).terms := by
        unfold Pump.terms Pump.aborted
        cases (s.pump p).sale <;> rfl
      exact h.setPump (.goesOn h (fun hk => (h.pumpOk p hk).aborted) (fun _ => by rw [e]; rfl) (fun _ _ => ht)
        (fun hk => by subst hk; exact (h.bound p).2) (fun _ _ => nofun))
    · exact h

/-- A pump at rest in place of one that holds no funds. -/
theorem PumpFits.atRest {p : Nat} {x : Pump} (hx : k = .pumps → PumpOk x) (ho : k = .holds → (s.pump p).state.holdsFunds = false)
    (hf : x.state.holdsFunds = false) (hs : x.suspendedFrom = none) (hi : x.state = .idle → s.pumpPresent p = true)
    (hst : x.station = (s.pump p).station := by rfl) : PumpFits k s p x :=
  ⟨hx, fun hk => (Pump.holder_none hf).trans (Pump.holder_none (ho hk)).symm, fun _ _ => .atRest hf hs hi hst⟩

theorem Law.judgeSaleCollect {p : Nat} (h : Law k s) : Law k (judgeSaleCollect s p).1 := by
  unfold Machine.judgeSaleCollect
  split
  · exact h
  · rename_i hp
    have hp : p < 4 := by simpa [isPump] using hp
    split
    · exact h
    · rename_i sale rest e
      by_cases hk : k = .pumps
      · subst hk
        have hl := (h p).1
        have hq : ∀ q ∈ rest, SaleOk q := fun q hq => (h p).slot (by rw [e]; exact List.mem_cons_of_mem _ hq)
        rw [e] at hl
        simp only [List.length_cons] at hl
        have e1 : ∀ q, (s.setPump p { s.pump p with slots := rest }).pump q =
            if p = q ∧ q < 4 then { s.pump p with slots := rest } else s.pump q := fun q => State.pump_setPump ..
        unfold State.unblock
        dsimp only [answer]
        rw [e1, if_pos ⟨rfl, hp⟩]
        split
        · rename_i held _ es
          intro q
          rw [State.pump_setPump]
          split
          · refine .atRest { s.pump p with slots := rest } _ (by simp; omega) (State.restState_ne _ p) (fun r hr => ?_)
            rcases List.mem_append.mp hr with c | c
            · exact hq r c
            · rw [List.mem_singleton.mp c]; exact (h p).sale es
          · rename_i hq
            rw [e1, if_neg hq]
            exact h q
        · rename_i hb
          intro q
          rw [e1]
          split
          · refine ⟨by show rest.length ≤ 2; omega, (h p).2.1, fun hbl => ?_, (h p).2.2.2.1, hq⟩
            have := (h p).2.2.1 hbl
            obtain ⟨x, hx⟩ := Option.isSome_iff_exists.mp this.2.2
            exact absurd hx (hb x hbl)
          · exact h q
      · have h1 : Law k (s.setPump p { s.pump p with slots := rest }) := h.setPump (.of_eq h (fun e => absurd e hk))
        unfold State.unblock
        dsimp only [answer]
        split
        · rename_i e _
          exact h1.setPump (.atRest (fun e => absurd e hk) (fun _ => by rw [e]; rfl) (State.restState_holdsFunds ..) rfl
            State.restState_idle)
        · exact h1

theorem Law.judgePumpProtect {f : ProtectArgs} (h : Law k s) : Law k (judgePumpProtect s f).1 := by
  unfold Machine.judgePumpProtect
  split
  · exact h
  · rename_i hp
    have hp : f.pump < 4 := by simpa [isPump] using hp
    by_cases hk : k = .pumps
    · subst hk
      have e1 : ∀ q, (s.setPump f.pump { s.pump f.pump with protect := f.flag }).pump q =
          if f.pump = q ∧ q < 4 then { s.pump f.pump with protect := f.flag } else s.pump q := fun q => State.pump_setPump ..
      have h0 := h f.pump
      have h1 : ((s.pump f.pump).state = .blocked → f.flag = true) →
          PumpOk { s.pump f.pump with protect := f.flag } := fun hf =>
        ⟨h0.1, h0.2.1, fun hb => ⟨(h0.2.2.1 hb).1, hf hb, (h0.2.2.1 hb).2.2⟩, h0.2.2.2⟩
      dsimp only [doneWith]
      unfold State.placeHeld
      dsimp only
      rw [e1, if_pos ⟨rfl, hp⟩]
      have keep : ((s.pump f.pump).state = .blocked → f.flag = true) →
          Law .pumps (s.setPump f.pump { s.pump f.pump with protect := f.flag }) :=
        fun hf => h.setPump ⟨fun _ => h1 hf, nofun, nofun⟩
      split
      · rename_i sale eb es
        split
        · rename_i ef
          exact keep (fun _ => ef)
        · intro q
          have hover : ∀ t : State, (t.overwriteSlot f.pump sale).pump q =
              if f.pump = q ∧ q < 4 then { ((t.pump f.pump).atRest (t.restState f.pump)) with
                slots := (t.pump f.pump).slots.tail ++ [sale], lost := satAdd 65535 (t.pump f.pump).lost 1 } else t.pump q := by
            intro t
            unfold State.overwriteSlot
            dsimp only
            split
            · exact State.pump_setPump ..
            · exact State.pump_setPump ..
          rw [hover]
          split
          · rw [e1, if_pos ⟨rfl, hp⟩]
            refine .atRest _ _ ?_ (State.restState_ne _ _) (fun r hr => ?_)
            · have := h0.1
              simp
              omega
            · rcases List.mem_append.mp hr with c | c
              · exact h0.slot (List.mem_of_mem_tail c)
              · rw [List.mem_singleton.mp c]; exact h0.sale es
          · rename_i hq
            rw [e1, if_neg hq]
            exact h q
      · rename_i hb
        refine keep (fun hbl => ?_)
        obtain ⟨x, hx⟩ := Option.isSome_iff_exists.mp (h0.2.2.1 hbl).2.2
        exact absurd hx (hb x hbl)
    · have h1 : Law k (s.setPump f.pump { s.pump f.pump with protect := f.flag }) := h.setPump (.of_eq h (fun e => absurd e hk))
      dsimp only [doneWith]
      unfold State.placeHeld
      dsimp only
      split
      · rename_i e _
        split
        · exact h1
        · refine Law.overwriteSlot (fun _ => h1) (fun c => absurd c hk) (fun c => ?_)
          subst c
          have h0 : (s.setPump f.pump { s.pump f.pump with protect := f.flag }).holder f.pump = none :=
            Pump.holder_none (by rw [e]; rfl)
          have h2 := HoldMid.start h1 f.pump
          rw [h0] at h2
          exact h2
      · exact h1

theorem Law.judgePumpTimers (h : Law k s) : Law k s.judgePumpTimers :=
  Law.foldl (fun _ _ ht => ht.readyExpiry.linkLossExpiry) _ h

theorem Law.judgeFuelTimersSet {f : TimersArgs} (h : Law k s) : Law k (judgeFuelTimersSet s f).1 := by
  unfold Machine.judgeFuelTimersSet
  split
  · exact h
  · rename_i e
    suffices Law k { s with readyTimeout := f.ready, linkLossWindow := f.window } by
      dsimp only [doneWith]
      exact this.judgePumpTimers
    cases k <;> first | exact h | skip
    obtain ⟨h1, h2, h3, h4, h5, -, -, h8⟩ := h
    have : (30 ≤ f.ready ∧ f.ready ≤ 600) ∧ (60 ≤ f.window ∧ f.window ≤ 3600) := by
      simp [inRange] at e
      omega
    exact ⟨h1, h2, h3, h4, h5, this.1, this.2, h8⟩

/-! ### Arm Bus Masters -/

theorem Law.bringUp {a : Nat} (h : Law k s) : Law k (s.bringUp a) := by
  refine Law.post (Law.activate (h.setArm (.of_slots h rfl (fun hk => ?_) (fun hk hd => ?_))) (fun _ => .inl rfl))
  · have := (h.armOk a hk).2.2.2
    exact ⟨Nat.zero_le _, Nat.zero_le _, this⟩
  · subst hk
    exact ⟨hd, h.placed.quiet hd⟩

theorem Law.judgeEnable {a : Nat} (h : Law k s) : Law k (judgeEnable s a).1 := by
  unfold Machine.judgeEnable
  repeat' split
  all_goals first | exact h | exact h.bringUp

theorem Law.judgeRestore {a : Nat} (h : Law k s) : Law k (judgeRestore s a).1 := by
  unfold Machine.judgeRestore
  repeat' split
  all_goals first | exact h | exact h.bringUp

theorem State.presentOff_relinkStations {a : Nat} {f : Station → Station} (hf : ∀ st, (f st).link ≠ .present) (tell : Bool) (d : Nat) :
    a < 6 → ((s.relinkStations a f tell).slot a d).present = false := by
  intro ha
  rw [(s.relinkStations_slots f tell ha).2 d]
  unfold Slot.present
  cases (s.slot a d).station with
  | none => rfl
  | some st => simpa using hf st

/-- An arm is taken down where none of its stations carries work that needs the bus: so no sale of its pumps holds funds (R36, R184). -/
theorem Law.takeDown {a : Nat} (h : Law k s) (hn : k = .holds → addresses.find? (s.needsBus a) = none) : Law k (s.takeDown a) := by
  have h1 : Law k ((s.setArm a { s.arm a with inFlight := none }).relinkStations a Station.unseen true) :=
    h.idleArm.unseenStations (fun _ => .inl rfl)
  have hi : ((s.setArm a { s.arm a with inFlight := none }).arm a).inFlight = none := by
    rw [State.arm_setArm]
    split
    · rfl
    · rename_i c
      have : ¬ a < 6 := fun e => c ⟨rfl, e⟩
      simp [State.arm, tabGet, this, Arm.reset]
  have e := Arm.inFlight_of_bus ((s.setArm a { s.arm a with inFlight := none }).bus_relinkStations a a Station.unseen true)
  unfold State.takeDown
  dsimp only
  refine Law.post (Law.endTransfer (h1.setArm ⟨fun hk => ?_, fun hk => ?_, fun hk d p hp => ?_, fun _ _ => rfl, fun hk ha => ?_⟩))
  · refine ⟨Nat.zero_le _, (h1.armOk a hk).2.1, fun d st hst => ?_, nofun, fun _ => e.trans hi⟩
    subst hk
    exact (h1 a).2.2.1 d st hst
  · subst hk
    exact (h1.armSettings a).of_eq rfl
  · subst hk
    exact h1 a d p hp
  · have off := State.presentOff_relinkStations (s := s.setArm a { s.arm a with inFlight := none }) (a := a)
      (f := Station.unseen) (fun _ => nofun) true
    subst hk
    refine ⟨fun _ => rfl, fun p d hp hs => ?_, fun _ => ⟨e.trans hi, fun d => off d ha, fun p d hf hs => ?_⟩⟩
    · have c := h1.placed.idleAt hp hs
      rw [State.isPresent_eq, off d ha] at c
      cases c
    · have ho := (State.relinkStations_slots (s.setArm a { s.arm a with inFlight := none }) Station.unseen true ha)
      obtain ⟨q, hq, -⟩ := (h1.bound p).1 hf
      obtain ⟨g0, g1, hr⟩ := h1.placed.rowOf (fun c => by rw [c] at hf; cases hf) hs
      have hr : s.row a d = .pump p g0 g1 := by
        rw [← hr]
        unfold State.row
        rw [ho.2 d, State.slot_setArm, if_pos ⟨rfl, ha⟩]
        rfl
      have hd := (Row.of_default (s := s) (a := a) (d := d) (by rw [hr]; nofun)).2
      have hb := List.find?_eq_none.mp (hn rfl) d (mem_addresses.mpr hd)
      refine hb ?_
      unfold State.needsBus
      rw [hr]
      show (s.pump p).sale.isSome = true
      have hsale : _ = (s.pump p).sale := ho.1.sale p
      rw [← hsale, hq]
      rfl

theorem Law.judgeDisable {a : Nat} (h : Law k s) : Law k (judgeDisable s a).1 := by
  unfold Machine.judgeDisable
  split
  · exact h
  · split
    · exact h
    · split
      · exact h
      · rename_i e
        exact h.takeDown (fun _ => e)

theorem Law.judgeArmConfig {f : ArmConfigArgs} (h : Law k s) : Law k (judgeArmConfig s f).1 := by
  unfold Machine.judgeArmConfig
  split
  · exact h
  · rename_i hc
    refine h.setArm (.of_slots_settings h rfl (fun hk => ⟨(h.armOk _ hk).1, ?_, (h.armOk _ hk).2.2.2⟩) (fun _ => ?_)
      (fun hk hd => by subst hk; exact ⟨hd, h.placed.quiet hd⟩))
    · show (if _ then 0 else (s.arm f.arm).probes) ≤ 16
      split
      · exact Nat.zero_le _
      · exact (h.armOk _ hk).2.1
    · simp only [configInRange, inRange, isAddr, Bool.not_eq_false, Bool.and_eq_true, decide_eq_true_eq, Bool.or_eq_true,
        beq_iff_eq] at hc
      obtain ⟨⟨⟨⟨⟨-, h1⟩, h2⟩, h3⟩, h4⟩, h5⟩ := hc
      exact ⟨h1, h2, h3, h4, by show f.anchor ≤ 30; omega⟩

theorem Law.requestSent {a : Nat} (h : Law k s) : Law k (s.requestSent a) := by
  unfold State.requestSent
  dsimp only
  split
  · rename_i ex e
    split
    · exact h
    · refine h.setArm (.of_slots h rfl (fun hk => ⟨(h.armOk a hk).1, (h.armOk a hk).2.1, fun hs x hx => ?_, fun hs => ?_⟩)
        (fun hk hd => ?_))
      · cases hx
        exact (h.armOk a hk).2.2.2.1 hs ex e
      · have := (h.armOk a hk).2.2.2.2 hs
        rw [e] at this
        cases this
      · subst hk
        have := h.placed.quiet hd
        rw [e] at this
        cases this
  · exact h

/-- An arm with an exchange in flight is not DISABLED. -/
theorem Law.notDisabled {a : Nat} {ex : Exchange} (h : Law k s) (e : (s.arm a).inFlight = some ex) :
    k = .holds → (s.arm a).state ≠ .disabled := by
  rintro rfl c
  have := h.placed.quiet c
  rw [e] at this
  cases this

theorem Law.replyReceived {a : Nat} {bs : List Byte} (h : Law k s) : Law k (s.replyReceived a bs) := by
  unfold State.replyReceived
  split
  · split
    · exact h.exchangeEnd (h.notDisabled ‹_›)
    · exact h
  · exact h

theorem Law.windowExpired {a : Nat} (h : Law k s) : Law k (s.windowExpired a) := by
  unfold State.windowExpired
  split
  · split
    · exact h.exchangeEnd (h.notDisabled ‹_›)
    · exact h
  · exact h

theorem Law.probeFalls {a : Nat} (h : Law k s) : Law k (s.probeFalls a) := by
  unfold State.probeFalls
  dsimp only
  split
  · exact h.busArm rfl rfl
  · exact h

theorem Law.periodEnds {a : Nat} (h : Law k s) : Law k (s.periodEnds a) := by
  unfold State.periodEnds
  dsimp only
  split
  · have h1 : Law k (s.setArm a { s.arm a with periodRunning := some (s.arm a).period }) := h.busArm rfl rfl
    exact h1.sweepDue
  · exact h

theorem Law.slotEnds {a : Nat} (h : Law k s) : Law k (s.slotEnds a) := by
  unfold State.slotEnds
  dsimp only
  split
  · exact h.busArm rfl rfl
  · exact h

/-! ### Relay Engine -/

/-- A RELAY keeps the law, and a withheld reply takes one more place in the reply list (R193, R201). -/
theorem Law.judgeRelay {tag : Nat} {f : RelayArgs} (h : Law k s) (hr : RepliesAtMost 15 s)
    (hn : ∀ n, k = .repliesAtMost n → 16 ≤ n ∨ (judgeRelay tag s f).2 ≠ none) : Law k (judgeRelay tag s f).1 := by
  revert hn
  unfold Machine.judgeRelay
  split
  · exact fun _ => h
  · split
    · exact fun _ => h
    · split
      · exact fun _ => h
      · split
        · exact fun _ => h
        · split
          · exact fun _ => h
          · split
            · exact fun _ => h
            · unfold State.placeRelay
              dsimp only
              cases hw : f.wait with
              | true =>
                intro hn
                have hc : s.trunk.replies.length + (s.relays ++ [placedRequest tag f ‹List Nat› ‹Nat›]).countP (·.wait) ≤ 16 := by
                  have : s.trunk.replies.length + s.withheld ≤ 15 := hr
                  unfold State.withheld at this
                  have hw' : (placedRequest tag f ‹List Nat› ‹Nat›).wait = true := hw
                  rw [List.countP_append, List.countP_cons, if_pos hw', List.countP_nil]
                  omega
                refine h.setRelays (fun _ => hc) (fun n hk => ?_)
                rcases hn n hk with h16 | hne
                · exact Nat.le_trans hc h16
                · exact absurd rfl hne
              | false =>
                intro _
                have hc : (s.relays ++ [placedRequest tag f ‹List Nat› ‹Nat›]).countP (·.wait) = s.withheld := by
                  unfold State.withheld
                  have hw' : (placedRequest tag f ‹List Nat› ‹Nat›).wait = false := hw
                  rw [List.countP_append, List.countP_cons, hw', List.countP_nil]
                  rfl
                refine h.setRelays (fun hk => ?_) (fun n hk => ?_)
                · rw [hc]; subst hk; exact h.2.2.2.1
                · rw [hc]; subst hk; exact h

theorem Law.judgeRefuseSet {l : List (Nat × Nat)} (h : Law k s) : Law k (judgeRefuseSet s l).1 := by
  unfold Machine.judgeRefuseSet
  split
  · exact h
  · rename_i e
    cases k <;> first | exact h | skip
    obtain ⟨h1, h2, h3, h4, h5, h6, h7, h8, -, -, h11⟩ := h
    refine ⟨h1, h2, h3, h4, h5, h6, h7, h8, Nat.le_of_not_lt (fun hl => e (.inl hl)), fun p hp => ?_, h11⟩
    cases hb : isArm p.1 && isAddr p.2 with
    | true =>
      simp [isArm, isAddr] at hb
      omega
    | false => exact absurd (.inr (List.any_eq_true.mpr ⟨p, hp, by rw [hb]; rfl⟩)) e

/-! ### Trunk Port -/

theorem Law.judgeExpiries (h : Law k s) : Law k s.judgeExpiries :=
  (Law.foldl (fun _ _ ht => ht.strikeExpiry.holdExpiry) _ (Law.foldl (fun _ _ ht => ht.departureTimeout) _ h)).judgePumpTimers

theorem Law.clock {t : Nat} (h : Law k s) (ht : k = .settings → t ≤ timeMax) : Law k { s with clock := t } := by
  cases k <;> first | exact h | skip
  exact ⟨h.1, ht rfl, h.2.2⟩

theorem Law.judgeTimeSet {t : Nat} (h : Law k s) (ht : k = .settings → t ≤ timeMax) : Law k (judgeTimeSet s t).1 := by
  unfold Machine.judgeTimeSet
  dsimp only [answer]
  exact (h.clock ht).judgeExpiries

theorem nextTime_le (t : Nat) : nextTime t ≤ timeMax := by
  unfold nextTime
  split <;> omega

theorem Law.advance (h : Law k s) : Law k s.advance := by
  have h1 : Law k (({ s with clock := nextTime s.clock } : State).setTrunk s.trunk.second) := by
    refine (h.clock (fun _ => nextTime_le _)).setTrunk (.of_eq (h.clock (fun _ => nextTime_le _)) ?_ ?_ (.inr ?_)) <;>
      (unfold Trunk.second; split <;> first | exact Nat.le_refl _ | rfl)
  unfold State.advance
  dsimp only
  split
  · exact h1.midnight
  · exact h1

theorem Law.staging {o : Option Load} (h : Law k s) : Law k { s with staging := o } := by
  cases k <;> exact h

theorem Law.scanAt {x : Scan} (h : Law k s) (hx : k = .settings → x.row ≤ x.lastRow) : Law k { s with scan := x } := by
  cases k <;> first | exact h | skip
  obtain ⟨h1, h2, h3, h4, h5, h6, h7, h8, h9, h10, -, h12⟩ := h
  exact ⟨h1, h2, h3, h4, h5, h6, h7, h8, h9, h10, hx rfl, h12⟩

theorem Scan.startOf_row (b : Bool) : (Scan.startOf b).row ≤ (Scan.startOf b).lastRow :=
  Nat.zero_le _

theorem Law.restartTrunk (h : Law k s) : Law k s.restartTrunk := by
  have h1 : Law k (s.setTrunk { s.trunk with replies := [], discarded := 0, silenceCount := 0 }) :=
    h.setTrunk (.of_eq h rfl (Nat.zero_le _) (.inr (Nat.zero_le _)))
  have h2 : Law k ((s.setTrunk { s.trunk with replies := [], discarded := 0, silenceCount := 0 }).setNotices
      { s.notices with queue := [], dropped := 0 }) :=
    h1.setNotices (fun hk => by subst hk; exact ⟨Nat.zero_le _, h.2.1, Nat.zero_le _⟩)
  exact (h2.staging (o := none)).scanAt (fun _ => Scan.startOf_row false)

theorem State.pump_restartOwners (p : Nat) :
    s.restartOwners.pump p = if p < 4 then (s.pump p).linkLost s.clock else Pump.reset :=
  tabGet_map ..

/-- A RESTART leaves no pump IDLE (R172). -/
theorem State.restartOwners_idle (p : Nat) : (s.restartOwners.pump p).state ≠ .idle := by
  rw [State.pump_restartOwners]
  split
  · exact ((s.pump p).linkLost_place s.clock).2.2.2.1
  · exact fun c => by cases c

theorem Law.restartOwners (h : Law k s) : Law k s.restartOwners := by
  have h1 : Law k (s.mapPosts (fun _ p => p.clearDetectors)) := h.mapPosts (fun _ _ _ hp => hp)
  cases k
  case pumps =>
    intro p
    rw [State.pump_restartOwners]
    split
    · exact (h p).linkLost _
    · exact ⟨Nat.zero_le _, nofun, nofun, nofun, nofun⟩
  case holds =>
    have hp : ∀ p, s.restartOwners.pump p = (s.pump p).linkLost s.clock := by
      intro p
      rw [State.pump_restartOwners]
      split
      · rfl
      · rw [State.pump_default ‹_›]; rfl
    have hh : s.restartOwners.holder = (s.mapPosts (fun _ p => p.clearDetectors)).holder := by
      funext p
      obtain ⟨e1, -, e3, -⟩ := (s.pump p).linkLost_place s.clock
      unfold State.holder
      rw [hp]
      exact Pump.holder_congr e1 (fun _ => by unfold Pump.terms; rw [e3]) p
    refine ⟨by rw [hh]; exact h1.paired, fun p => by rw [hp]; exact (h.bound p).linkLost _, fun p h4 a d => ?_, fun p hf => ?_,
      fun p hi => absurd hi (State.restartOwners_idle p), fun a d => h1.placed.present, fun a => h1.placed.quiet⟩
    · rw [hp, ((s.pump p).linkLost_place s.clock).2.1]
      exact h1.placed.row h4 a d
    · rw [hp] at hf ⊢
      rw [((s.pump p).linkLost_place s.clock).1] at hf
      rw [((s.pump p).linkLost_place s.clock).2.1]
      exact h1.placed.line hf
  all_goals exact h1

theorem Law.restartArm {a : Nat} (h : Law k s) (hi : k = .holds → ∀ p, (s.pump p).state ≠ .idle) : Law k (s.restartArm a) := by
  unfold State.restartArm
  dsimp only
  split
  · refine h.setArm (.of_slots h rfl (fun hk => ?_) (fun _ hd => ⟨hd, rfl⟩))
    subst hk
    exact ⟨(h a).1, (h a).2.1, fun _ ex hex => (by cases hex), fun _ => rfl⟩
  · refine Law.activate (h.setArm (.of_slots h rfl (fun hk => ⟨Nat.zero_le _, Nat.zero_le _, fun _ ex hex => ?_, fun _ => rfl⟩)
      (fun _ hd => ⟨hd, rfl⟩))) (fun hk => .inr (hi hk))
    cases hex

/-- The stations of an arm go to new links without a word to their owners. -/
theorem State.pumps_relinkQuiet (a : Nat) (f : Station → Station) : (s.relinkStations a f false).pumps = s.pumps := by
  unfold State.relinkStations
  generalize addresses = l
  induction l generalizing s with
  | nil => rfl
  | cons d l ih =>
    rw [List.foldl_cons, ih]
    split <;> rfl

theorem State.pumps_activateQuiet (a : Nat) : (s.activate a false).pumps = s.pumps := by
  unfold State.activate State.startSweep
  dsimp only [State.setArm_pumps]
  exact State.pumps_relinkQuiet a _

theorem State.pumps_restartArm (a : Nat) : (s.restartArm a).pumps = s.pumps := by
  unfold State.restartArm
  dsimp only
  split
  · rfl
  · rw [State.pumps_activateQuiet]
    rfl

theorem Law.restartArms (l : List Nat) (h : Law k s) (hi : k = .holds → ∀ p, (s.pump p).state ≠ .idle) :
    Law k (l.foldl State.restartArm s) := by
  induction l generalizing s with
  | nil => exact h
  | cons a l ih =>
    refine ih (h.restartArm hi) (fun hk p => ?_)
    unfold State.pump
    rw [State.pumps_restartArm]
    exact hi hk p

theorem Law.judgeRestart {u : Unit} (h : Law k s) : Law k (judgeRestart s u).1 := by
  unfold Machine.judgeRestart
  dsimp only [doneWith]
  exact (Law.restartArms _ h.restartTrunk.restartOwners (fun _ p => State.restartOwners_idle p)).restartRelays

theorem Law.judgeTrunkConfig {n : Nat} (h : Law k s) : Law k (judgeTrunkConfig s n).1 := by
  unfold Machine.judgeTrunkConfig
  split
  · exact h
  · rename_i e
    refine h.setTrunk ⟨fun _ => ?_, fun hk => ?_, fun n hk => ?_⟩
    · simpa [inRange] using e
    · subst hk; exact h.2.2.2
    · subst hk; exact h

theorem Law.silence (h : Law k s) : Law k s.silence := by
  unfold State.silence
  split
  · exact (h.setTrunk (.of_eq h rfl (Nat.le_refl _) (.inr (Nat.le_refl _)))).post
  · exact h

theorem Law.keepBytes {bs : List Byte} (h : Law k s) : Law k (s.keepBytes bs) :=
  h.setTrunk (.of_eq h rfl (Nat.le_refl _) (.inr (Nat.le_refl _)))

theorem Law.sendFree (h : Law k s) : Law k (s.setTrunk { s.trunk with sending := none }) :=
  h.setTrunk (.of_eq h rfl (Nat.le_refl _) (.inr (Nat.le_refl _)))

end Sys2Proof.Machine
end

