-- ==== Sys2Proof/Laws/KeptTables.lean ====
section
/-! SUPPORT. The laws of Safety.lean are kept by the table loads, the commits and the integrity scan (Tables.lean). -/

set_option Elab.async false

namespace Sys2Proof.Machine

variable {k : LawName} {s : State}

/-! ### Station rows -/

theorem Row.claims_inForce (r : Row) : r.inForce.claims = r.claims := by
  cases r <;> rfl

theorem Row.claims_nodup {r : Row} (h : r.passes = true) : r.claims.Nodup := by
  cases r with
  | none => exact List.nodup_nil
  | gate => simp [Row.claims]
  | pump => simp [Row.claims]
  | post b0 b1 o f u n w =>
    simp only [Row.passes, Bool.and_eq_true] at h
    obtain ⟨⟨⟨⟨⟨⟨⟨-, -⟩, hb⟩, -⟩, -⟩, -⟩, -⟩, -⟩ := h
    cases b0 <;> cases b1 <;> simp_all [Row.claims]

theorem mem_places {a d : Nat} : (a, d) ∈ places ↔ a < 6 ∧ 1 ≤ d ∧ d ≤ 30 := by
  simp only [places, List.mem_flatMap, List.mem_range, List.mem_map, Prod.mk.injEq]
  constructor
  · rintro ⟨x, hx, y, hy, rfl, rfl⟩; exact ⟨hx, mem_addresses.mp hy⟩
  · rintro ⟨ha, hd⟩; exact ⟨a, ha, d, mem_addresses.mpr hd, rfl, rfl⟩

theorem Arm.slot_default (A : Arm) {d : Nat} (h : ¬ (1 ≤ d ∧ d ≤ 30)) : A.slot d = Slot.reset := by
  cases d with
  | zero => rfl
  | succ d =>
    have hd : ¬ d < 30 := by omega
    simp [Arm.slot, numGet, tabGet, hd]

/-- What a station table that no check fails gives (R177). -/
theorem State.stationFailure_none {a : Nat} {rows : List (List Byte)} (h : s.stationFailure a rows = none) {i : Nat} (hi : i < 30) :
    (stagedAt rows i).passes = true ∧
    (∀ j, j < 30 → j ≠ i → ∀ c, c ∈ (stagedAt rows j).claims → c ∉ (stagedAt rows i).claims) ∧
    (∀ b d, b < 6 → b ≠ a → ∀ c, c ∈ (s.row b d).claims → c ∉ (stagedAt rows i).claims) := by
  have hn := List.findSome?_eq_none_iff.mp h i (List.mem_range.mpr hi)
  split at hn
  · cases hn
  · rename_i hf
    simp only [rowFailsAlone, Bool.or_eq_true, Bool.not_eq_true', not_or, Bool.not_eq_false, Bool.not_eq_true] at hf
    refine ⟨?_, fun j hj hji c hc hci => ?_, fun b d hb hba c hc hci => ?_⟩
    · unfold stagedAt
      have hp := hf.1
      cases e : stagedRow (rows.getD i []) with
      | none => rw [e] at hp; cases hp
      | some r => rw [e] at hp; exact hp
    · have := hf.2
      unfold clashesWithin at this
      rw [List.any_eq_false] at this
      refine this j (List.mem_range.mpr hj) ?_
      rw [Bool.and_eq_true]
      refine ⟨by simp [hji], List.any_eq_true.mpr ⟨c, hc, ?_⟩⟩
      simp [hci]
    · have hp : ¬ (1 ≤ d ∧ d ≤ 30) ∨ (b, d) ∈ places := by
        by_cases hd : 1 ≤ d ∧ d ≤ 30
        · exact .inr (mem_places.mpr ⟨hb, hd⟩)
        · exact .inl hd
      rcases hp with hd | hm
      · have e : s.row b d = .none := by
          unfold State.row State.slot
          rw [Arm.slot_default _ hd]
          rfl
        rw [e] at hc
        cases hc
      · have hcl : s.clashElsewhere a (stagedAt rows i) = none := by
          simpa using hn
        unfold State.clashElsewhere at hcl
        rw [Option.map_eq_none_iff, List.find?_eq_none] at hcl
        refine hcl (b, d) hm ?_
        rw [Bool.and_eq_true]
        refine ⟨by simp [hba], List.any_eq_true.mpr ⟨c, hc, ?_⟩⟩
        simp [hci]

theorem Arm.slot_takeTable (A : Arm) (rows : List (List Byte)) (c : Check) (d : Nat) :
    (A.takeTable rows c).slot d =
      if 1 ≤ d ∧ d ≤ 30 then (A.slot d).takeRow (stagedAt rows (d - 1)).inForce else Slot.reset := by
  cases d with
  | zero => rfl
  | succ d =>
    show tabGet (A.slots.mapIdx _) Slot.reset d = _
    by_cases hd : d < 30
    · have : 1 ≤ d + 1 ∧ d + 1 ≤ 30 := by omega
      rw [if_pos this]
      simp [tabGet, hd, Arm.slot, numGet]
    · have : ¬ (1 ≤ d + 1 ∧ d + 1 ≤ 30) := by omega
      rw [if_neg this]
      simp [tabGet, hd]

theorem State.row_takeTable (a b d : Nat) (rows : List (List Byte)) (c : Check) :
    (s.setArm a ((s.arm a).takeTable rows c)).row b d =
      if a = b ∧ b < 6 then (if 1 ≤ d ∧ d ≤ 30 then (stagedAt rows (d - 1)).inForce else .none) else s.row b d := by
  unfold State.row
  rw [State.slot_setArm]
  split
  · rw [Arm.slot_takeTable]
    split <;> rfl
  · rfl

/-- What the rows of the arm whose table is replaced name, the staged rows name. -/
theorem claims_staged {rows : List (List Byte)} {d : Nat} {x : Claim}
    (hx : x ∈ (if 1 ≤ d ∧ d ≤ 30 then (stagedAt rows (d - 1)).inForce else Row.none).claims) :
    (1 ≤ d ∧ d ≤ 30) ∧ x ∈ (stagedAt rows (d - 1)).claims := by
  split at hx
  · rw [Row.claims_inForce] at hx
    exact ⟨‹_›, hx⟩
  · cases hx

/-- What at most one row names, at most one names after a commit (R177). -/
theorem claim_unique_commit {a : Nat} {rows : List (List Byte)} {c : Check} {x : Claim} (hf : s.stationFailure a rows = none)
    (h : ∀ b d b' d', b < 6 → b' < 6 → x ∈ (s.row b d).claims → x ∈ (s.row b' d').claims → b = b' ∧ d = d') :
    let t := s.setArm a ((s.arm a).takeTable rows c)
    ∀ b d b' d', b < 6 → b' < 6 → x ∈ (t.row b d).claims → x ∈ (t.row b' d').claims → b = b' ∧ d = d' := by
  intro t b d b' d' hb hb' hx hx'
  rw [State.row_takeTable] at hx hx'
  split at hx <;> split at hx'
  · rename_i e1 e2
    obtain ⟨hd, hx⟩ := claims_staged hx
    obtain ⟨hd', hx'⟩ := claims_staged hx'
    refine ⟨e1.1.symm.trans e2.1, Classical.byContradiction (fun hne => ?_)⟩
    exact (State.stationFailure_none hf (i := d - 1) (by omega)).2.1 (d' - 1) (by omega) (by omega) x hx' hx
  · rename_i e1 e2
    obtain ⟨hd, hx⟩ := claims_staged hx
    refine absurd hx ((State.stationFailure_none hf (i := d - 1) (by omega)).2.2 b' d' hb' (fun e => e2 ⟨e.symm, hb'⟩) x hx')
  · rename_i e1 e2
    obtain ⟨hd', hx'⟩ := claims_staged hx'
    refine absurd hx' ((State.stationFailure_none hf (i := d' - 1) (by omega)).2.2 b d hb (fun e => e1 ⟨e.symm, hb⟩) x hx)
  · exact h b d b' d' hb hb' hx hx'

theorem RowLaw.commit {a : Nat} {rows : List (List Byte)} {c : Check} (h : RowLaw s) (hf : s.stationFailure a rows = none) :
    RowLaw (s.setArm a ((s.arm a).takeTable rows c)) := by
  refine ⟨fun b d hb => ?_, fun b d b' d' x => claim_unique_commit hf (fun b d b' d' => h.2 b d b' d' x) b d b' d'⟩
  rw [State.row_takeTable]
  split
  · split
    · rw [Row.claims_inForce]
      exact Row.claims_nodup (State.stationFailure_none hf (i := d - 1) (by omega)).1
    · exact List.nodup_nil
  · exact h.1 b d hb

theorem PointOk.created : PointOk Point.created :=
  ⟨rfl, by decide, by decide, fun ses h => by cases h⟩

theorem Slot.takeRow_post {x : Slot} {r : Row} {p : Post} (h : (x.takeRow r).post = some p) :
    (∀ q, x.post = some q → PostOk q) → PostOk p := by
  intro hx
  unfold Slot.takeRow at h
  dsimp only at h
  split at h
  · cases hp : x.post with
    | none =>
      rw [hp] at h
      cases h
      exact ⟨.created, .created, .created, .created⟩
    | some q =>
      rw [hp] at h
      cases h
      exact hx q hp
  · cases h

theorem Slot.takeRow_missed {x : Slot} {r : Row} {st : Station} (h : (x.takeRow r).station = some st) :
    (∀ t, x.station = some t → t.missed ≤ 15) → st.missed ≤ 15 := by
  intro hx
  unfold Slot.takeRow at h
  dsimp only at h
  split at h
  · cases h
  · cases hp : x.station with
    | none =>
      rw [hp] at h
      cases h
      exact Nat.zero_le _
    | some t =>
      rw [hp] at h
      cases h
      exact hx _ hp

/-- A table replaced keeps every law but that of the holds, which it keeps only with the pumps placed anew. -/
theorem Law.takeTable {a : Nat} {rows : List (List Byte)} {c : Check} (h : Law k s) (hf : s.stationFailure a rows = none)
    (hh : k ≠ .holds) : Law k (s.setArm a ((s.arm a).takeTable rows c)) := by
  by_cases hr : k = .rows
  · subst hr
    exact RowLaw.commit h hf
  · refine h.setArm ⟨fun hk => ?_, fun hk => ?_, fun hk d p hp => ?_, fun hk => absurd hk hr, fun hk => absurd hk hh⟩
    · subst hk
      refine ⟨(h a).1, (h a).2.1, fun d st hst => ?_, (h a).2.2.2.1, (h a).2.2.2.2⟩
      rw [Arm.slot_takeTable] at hst
      split at hst
      · exact Slot.takeRow_missed hst (fun t ht => (h a).2.2.1 d t ht)
      · cases hst
    · subst hk
      obtain ⟨h1, h2, h3, h4, h5⟩ := h.armSettings a
      refine ⟨h1, h2, h3, h4, ?_⟩
      show (if _ then 0 else (s.arm a).anchor) ≤ 30
      split
      · exact Nat.zero_le _
      · exact h5
    · subst hk
      rw [Arm.slot_takeTable] at hp
      split at hp
      · exact Slot.takeRow_post hp (fun q hq => h a d q hq)
      · cases hp

theorem Law.regate {a g : Nat} (h : Law k s) : Law k (s.regate a g) := by
  unfold State.regate
  dsimp only
  split
  · exact h.setGate
  · exact h

theorem PumpOk.placed {x : Pump} (h : PumpOk x) (p : Nat × Nat) (g0 g1 : Nat) : PumpOk (x.placed p g0 g1) :=
  h.enters rfl (.inl rfl) (fun e => by cases e) h.2.2.2.1

theorem PumpOk.unplaced {x : Pump} (h : PumpOk x) : PumpOk x.unplaced :=
  h.enters rfl (.inl rfl) (fun e => by cases e) h.2.2.2.1

/-- A pump placed anew keeps every law but that of the holds, which holds again once all four are. -/
theorem Law.repump {a n : Nat} (h : Law k s) (hh : k ≠ .holds) : Law k (s.repump a n) := by
  unfold State.repump
  dsimp only
  split
  · split
    · split
      · exact h.setPump ⟨fun hk => (h.pumpOk n hk).placed _ _ _, fun hk => absurd hk hh, fun hk => absurd hk hh⟩
      · exact h
    · exact h
  · split
    · exact h.setPump ⟨fun hk => (h.pumpOk n hk).unplaced, fun hk => absurd hk hh, fun hk => absurd hk hh⟩
    · exact h

/-! ### A commit and the pumps (R36, R170, R178) -/

theorem State.regate_same (a g : Nat) :
    (s.regate a g).arms = s.arms ∧ (s.regate a g).pumps = s.pumps ∧ (s.regate a g).accounts = s.accounts := by
  unfold State.regate
  dsimp only
  split <;> exact ⟨rfl, rfl, rfl⟩

theorem State.regates_same (a : Nat) (l : List Nat) :
    (l.foldl (fun t g => t.regate a g) s).arms = s.arms ∧ (l.foldl (fun t g => t.regate a g) s).pumps = s.pumps ∧
    (l.foldl (fun t g => t.regate a g) s).accounts = s.accounts := by
  induction l generalizing s with
  | nil => exact ⟨rfl, rfl, rfl⟩
  | cons g l ih =>
    obtain ⟨h1, h2, h3⟩ := s.regate_same a g
    obtain ⟨i1, i2, i3⟩ := ih (s := s.regate a g)
    exact ⟨i1.trans h1, i2.trans h2, i3.trans h3⟩

theorem State.arm_of_arms {t : State} (h : t.arms = s.arms) (a : Nat) : t.arm a = s.arm a := by
  unfold State.arm
  rw [h]

theorem State.row_of_arms {t : State} (h : t.arms = s.arms) (a d : Nat) : t.row a d = s.row a d := by
  unfold State.row State.slot
  rw [State.arm_of_arms h]

theorem State.repump_same (a n : Nat) :
    (s.repump a n).arms = s.arms ∧ (s.repump a n).accounts = s.accounts ∧ ∀ p, p ≠ n → (s.repump a n).pump p = s.pump p := by
  have set : ∀ x p, p ≠ n → (s.setPump n x).pump p = s.pump p := fun x p hp => by
    rw [State.pump_setPump, if_neg (fun c => hp c.1.symm)]
  unfold State.repump
  dsimp only
  split
  · split
    · split
      · exact ⟨rfl, rfl, set _⟩
      · exact ⟨rfl, rfl, fun _ _ => rfl⟩
    · exact ⟨rfl, rfl, fun _ _ => rfl⟩
  · split
    · exact ⟨rfl, rfl, set _⟩
    · exact ⟨rfl, rfl, fun _ _ => rfl⟩

/-- What a pump becomes depends on its record and the rows alone. -/
theorem State.repump_congr {t : State} {a p : Nat} (hp : p < 4) (h : t.arms = s.arms) (e : t.pump p = s.pump p) :
    (t.repump a p).pump p = (s.repump a p).pump p := by
  have hr := State.row_of_arms h
  have hpl : t.pumpPlace p = s.pumpPlace p := by
    unfold State.pumpPlace
    simp only [hr]
  unfold State.repump
  rw [hpl, e]
  dsimp only
  split
  · rename_i q _
    rw [hr]
    split
    · split
      · rw [State.pump_set_self hp, State.pump_set_self hp]
      · exact e
    · exact e
  · split
    · rw [State.pump_set_self hp, State.pump_set_self hp]
    · exact e

theorem State.repumps (a : Nat) (l : List Nat) (hl : l.Nodup) (h4 : ∀ p ∈ l, p < 4) :
    ∀ t : State, t.arms = s.arms → (∀ p ∈ l, t.pump p = s.pump p) →
      (l.foldl (fun t n => t.repump a n) t).arms = s.arms ∧ (l.foldl (fun t n => t.repump a n) t).accounts = t.accounts ∧
      (∀ p ∈ l, (l.foldl (fun t n => t.repump a n) t).pump p = (s.repump a p).pump p) ∧
      ∀ p, p ∉ l → (l.foldl (fun t n => t.repump a n) t).pump p = t.pump p := by
  induction l with
  | nil => exact fun t ht _ => ⟨ht, rfl, nofun, fun _ _ => rfl⟩
  | cons n l ih =>
    intro t ht hp
    obtain ⟨hn, hl⟩ := List.nodup_cons.mp hl
    obtain ⟨r1, r2, r3⟩ := t.repump_same a n
    have ne : ∀ p ∈ l, p ≠ n := fun p hp e => hn (e ▸ hp)
    obtain ⟨i1, i2, i3, i4⟩ := ih hl (fun p hp => h4 p (List.mem_cons_of_mem _ hp)) (t.repump a n) (r1.trans ht)
      (fun p hpl => (r3 p (ne p hpl)).trans (hp p (List.mem_cons_of_mem _ hpl)))
    rw [List.foldl_cons]
    refine ⟨i1, i2.trans r2, fun p hpm => ?_, fun p hpm => ?_⟩
    · rcases List.mem_cons.mp hpm with rfl | hpl
      · exact (i4 p hn).trans (State.repump_congr (h4 p List.mem_cons_self) ht (hp p List.mem_cons_self))
      · exact i3 p hpl
    · have hpm := fun c => hpm (List.mem_cons.mpr c)
      exact (i4 p (fun c => hpm (.inr c))).trans (r3 p (fun c => hpm (.inl c)))

theorem State.pumpPlace_some {p : Nat} {q : Nat × Nat} (h : s.pumpPlace p = some q) : .pump p ∈ (s.row q.1 q.2).claims := by
  have := List.find?_some h
  rw [Row.pump_mem_claims]
  split at this
  · rename_i n g0 g1 e
    exact ⟨g0, g1, by rw [e, beq_iff_eq.mp this]⟩
  · cases this

theorem State.pumpPlace_none {p : Nat} (h : s.pumpPlace p = none) (a d : Nat) : .pump p ∉ (s.row a d).claims := by
  intro c
  obtain ⟨g0, g1, e⟩ := Row.pump_mem_claims.mp c
  have hr := Row.of_default (s := s) (a := a) (d := d) (by rw [e]; nofun)
  have := List.find?_eq_none.mp h (a, d) (mem_places.mpr hr)
  rw [e] at this
  simp at this

/-- What a commit does to a pump: it keeps the record of one whose row stays, and one it names or leaves without a row goes OFFLINE;
that one's sale held no funds. Either stands where the new rows say (R170, R178). -/
theorem State.repump_cases {t : State} {a p : Nat} (h : Law .holds s) (hd : (s.arm a).state = .disabled) (hp : p < 4)
    (hpump : t.pump p = s.pump p) (hrow : ∀ b d, b ≠ a → t.row b d = s.row b d)
    (huniq : ∀ b d b' d', .pump p ∈ (t.row b d).claims → .pump p ∈ (t.row b' d').claims → b = b' ∧ d = d') :
    ((t.repump a p).pump p = s.pump p ∨
      ((t.repump a p).pump p).state = .offline ∧ ((t.repump a p).pump p).suspendedFrom = (s.pump p).suspendedFrom ∧
      (s.pump p).state.holdsFunds = false) ∧
    ∀ b d, ((t.repump a p).pump p).station = some (b, d) ↔ .pump p ∈ (t.row b d).claims := by
  have onA : ∀ d, (s.pump p).station = some (a, d) → (s.pump p).state.holdsFunds = false := by
    intro d e
    refine Bool.eq_false_iff.mpr (fun c => ?_)
    obtain ⟨b, d', e', hb⟩ := h.placed.line c
    rw [e] at e'
    cases e'
    exact hb hd
  have stay : ∀ b d, b ≠ a → ((s.pump p).station = some (b, d) ↔ .pump p ∈ (t.row b d).claims) := by
    intro b d hb
    rw [hrow b d hb]
    exact h.placed.row hp b d
  unfold State.repump
  dsimp only
  cases hpl : t.pumpPlace p with
  | some q =>
    obtain ⟨b, d⟩ := q
    have hc := State.pumpPlace_some hpl
    dsimp only at hc ⊢
    by_cases hba : b = a
    · subst hba
      obtain ⟨g0, g1, e⟩ := Row.pump_mem_claims.mp hc
      rw [if_pos rfl, e]
      dsimp only
      rw [State.pump_set_self hp, hpump]
      refine ⟨.inr ⟨rfl, rfl, Bool.eq_false_iff.mpr (fun c => ?_)⟩, fun b' d' => ?_⟩
      · obtain ⟨b', d', e', hb'⟩ := h.placed.line c
        have hne : b' ≠ b := fun c => hb' (c ▸ hd)
        exact hne (huniq b' d' b d ((stay b' d' hne).mp e') hc).1
      · constructor
        · intro e'
          cases e'
          exact hc
        · intro hc'
          obtain ⟨rfl, rfl⟩ := huniq b d b' d' hc hc'
          rfl
    · rw [if_neg hba, hpump]
      have hs := (stay b d hba).mpr hc
      refine ⟨.inl rfl, fun b' d' => ?_⟩
      rw [hs]
      constructor
      · intro e'
        cases e'
        exact hc
      · intro hc'
        obtain ⟨rfl, rfl⟩ := huniq b d b' d' hc hc'
        rfl
  | none =>
    have hno := State.pumpPlace_none hpl
    dsimp only
    rw [hpump]
    cases hst : (s.pump p).station with
    | none =>
      refine ⟨.inl (by simpa using hpump), fun b d => ?_⟩
      simp only [Option.any_none, Bool.false_eq_true, if_false]
      rw [hpump, hst]
      exact ⟨nofun, fun c => absurd c (hno b d)⟩
    | some q =>
      obtain ⟨b, d⟩ := q
      have hba : b = a := Classical.byContradiction (fun c => hno b d ((stay b d c).mp hst))
      subst hba
      rw [Option.any_some, if_pos BEq.rfl, State.pump_set_self hp]
      exact ⟨.inr ⟨rfl, rfl, onA d hst⟩, fun b' d' => ⟨nofun, fun c => absurd c (hno b' d')⟩⟩

theorem Slot.takeRow_present {x : Slot} {r : Row} (h : (x.takeRow r).present = true) : x.present = true := by
  unfold Slot.takeRow Slot.present at h
  unfold Slot.present
  cases hs : x.station with
  | none =>
    rw [hs] at h
    dsimp only at h
    split at h <;> simp at h
  | some st =>
    rw [hs] at h
    dsimp only at h
    split at h
    · simp at h
    · simpa using h

/-- A commit keeps the pairing of the holds: the arm is DISABLED, so no pump whose sale holds funds stands on it (R36, R178, R184). -/
theorem Law.commitPumps {a : Nat} {rows : List (List Byte)} {c : Check} (h : Law .holds s) (hd : (s.arm a).state = .disabled)
    (hf : s.stationFailure a rows = none) :
    Law .holds ((List.range 4).foldl (fun t n => t.repump a n)
      ((List.range 8).foldl (fun t g => t.regate a g) (s.setArm a ((s.arm a).takeTable rows c)))) := by
  obtain ⟨g1, g2, g3⟩ := State.regates_same (s := s.setArm a ((s.arm a).takeTable rows c)) a (List.range 8)
  generalize (List.range 8).foldl (fun t g => t.regate a g) (s.setArm a ((s.arm a).takeTable rows c)) = t at g1 g2 g3
  obtain ⟨r1, r2, r3, r4⟩ := State.repumps (s := t) a (List.range 4) (by decide) (fun p hp => List.mem_range.mp hp) t rfl
    (fun _ _ => rfl)
  generalize (List.range 4).foldl (fun t n => t.repump a n) t = u at r1 r2 r3 r4
  have hrow : ∀ b d, u.row b d = t.row b d := State.row_of_arms r1
  have trow : ∀ b d, t.row b d = (s.setArm a ((s.arm a).takeTable rows c)).row b d := State.row_of_arms g1
  have stay : ∀ b d, b ≠ a → t.row b d = s.row b d := fun b d hb => by
    rw [trow, State.row_takeTable, if_neg (fun c => hb c.1.symm)]
  have tpump : ∀ p, t.pump p = s.pump p := fun p => by unfold State.pump; rw [g2]; rfl
  have range : ∀ b d x, x ∈ (t.row b d).claims → b < 6 := fun b d x hx =>
    (Row.of_default (s := t) (a := b) (d := d) (fun e => by rw [e] at hx; cases hx)).1
  have cases4 : ∀ p, p < 4 → _ := fun p hp => State.repump_cases h hd hp (tpump p) stay (fun b d b' d' h1 h2 => by
    have b1 := range _ _ _ h1
    have b2 := range _ _ _ h2
    rw [trow] at h1 h2
    refine claim_unique_commit hf (fun b d b' d' _ _ h1 h2 => ?_) b d b' d' b1 b2 h1 h2
    have e1 := (h.placed.row hp b d).mpr h1
    rw [(h.placed.row hp b' d').mpr h2] at e1
    cases e1
    exact ⟨rfl, rfl⟩)
  have upump : ∀ p, p < 4 → u.pump p = (t.repump a p).pump p := fun p hp => r3 p (List.mem_range.mpr hp)
  have after : ∀ p, u.pump p = s.pump p ∨ (u.pump p).state = .offline ∧ (u.pump p).suspendedFrom = (s.pump p).suspendedFrom ∧
      (s.pump p).state.holdsFunds = false := fun p => by
    by_cases hp : p < 4
    · rw [upump p hp]
      exact (cases4 p hp).1
    · exact .inl (by rw [State.pump_default hp, State.pump_default hp])
  have uarm : ∀ b, u.arm b = (s.setArm a ((s.arm a).takeTable rows c)).arm b := State.arm_of_arms (r1.trans g1)
  have arm : ∀ b, b ≠ a → u.arm b = s.arm b := fun b hb => by
    rw [uarm, State.arm_setArm, if_neg (fun c => hb c.1.symm)]
  have armA : (u.arm a).state = (s.arm a).state ∧ (u.arm a).inFlight = (s.arm a).inFlight := by
    rw [uarm, State.arm_setArm]
    split <;> exact ⟨rfl, rfl⟩
  have armS : ∀ b, (u.arm b).state = (s.arm b).state ∧ (u.arm b).inFlight = (s.arm b).inFlight := fun b => by
    by_cases hb : b = a
    · subst hb; exact armA
    · rw [arm b hb]; exact ⟨rfl, rfl⟩
  have live : ∀ b d, b ≠ a → u.isPresent b d = s.isPresent b d := fun b d hb => by
    rw [State.isPresent_eq, State.isPresent_eq]
    unfold State.slot
    rw [arm b hb]
  have funds : ∀ p, (u.pump p).state.holdsFunds = true → u.pump p = s.pump p := fun p hp => by
    rcases after p with e | ⟨e, -, -⟩
    · exact e
    · rw [e] at hp; cases hp
  refine ⟨?_, fun p => ?_, fun p hp b d => ?_, fun p hp => ?_, fun p hp => ?_, fun b d hb => ?_, fun b hb => ?_⟩
  · have hh : u.holder = s.holder := by
      funext p
      unfold State.holder
      rcases after p with e | ⟨e, -, e'⟩
      · rw [e]
      · rw [Pump.holder_none (by rw [e]; rfl), Pump.holder_none e']
    rw [hh]
    exact h.paired.same ((r2.trans g3).trans rfl)
  · rcases after p with e | ⟨e, e', -⟩
    · rw [e]; exact h.bound p
    · refine ⟨fun c => ?_, fun q hq => (h.bound p).2 q (e' ▸ hq)⟩
      rw [e] at c
      cases c
  · rw [upump p hp, hrow]
    exact (cases4 p hp).2 b d
  · have e := funds p hp
    rw [e] at hp ⊢
    obtain ⟨b, d, hs, hb⟩ := h.placed.line hp
    exact ⟨b, d, hs, by rw [(armS b).1]; exact hb⟩
  · have e : u.pump p = s.pump p := by
      rcases after p with e | ⟨e, -, -⟩
      · exact e
      · rw [e] at hp; cases hp
    rw [e] at hp
    have hs := h.placed.idle hp
    cases hst : (s.pump p).station with
    | none =>
      unfold State.pumpPresent at hs
      rw [hst] at hs
      cases hs
    | some q =>
      obtain ⟨b, d⟩ := q
      have hl := h.placed.idleAt hp hst
      have hb : b ≠ a := fun c => h.placed.present hl (c ▸ hd)
      rw [State.pumpPresent_at (s := u) (by rw [e]; exact hst), live b d hb]
      exact hl
  · by_cases hba : b = a
    · subst hba
      exfalso
      have e : u.slot b d = (s.setArm b ((s.arm b).takeTable rows c)).slot b d := by
        unfold State.slot
        rw [uarm]
      rw [State.isPresent_eq, e, State.slot_setArm] at hb
      have old : s.isPresent b d = true := by
        rw [State.isPresent_eq]
        split at hb
        · rw [Arm.slot_takeTable] at hb
          split at hb
          · exact Slot.takeRow_present hb
          · cases hb
        · exact hb
      exact h.placed.present old hd
    · rw [(armS b).1]
      exact h.placed.present (live b d hba ▸ hb)
  · rw [(armS b).1] at hb
    rw [(armS b).2]
    exact h.placed.quiet hb

theorem Law.commitStations {a : Nat} {rows : List (List Byte)} {c : Check} (h : Law k s)
    (hf : s.stationFailure a rows = none) (hd : (s.arm a).state = .disabled) : Law k (s.commitStations a rows c) := by
  unfold State.commitStations
  dsimp only
  refine Law.foldl (fun _ _ ht => ht.judgeTracking) _ ?_
  by_cases hk : k = .holds
  · subst hk
    exact h.commitPumps hd hf
  · exact Law.foldl (fun _ _ ht => ht.repump hk) _ (Law.foldl (fun _ _ ht => ht.regate) _ (h.takeTable hf hk))

/-! ### Loads, commits, the scan -/

theorem Law.restartScan {b : Bool} (h : Law k s) : Law k (s.restartScan b) := by
  unfold State.restartScan
  split
  · exact h.scanAt (fun _ => Scan.startOf_row b)
  · exact h

theorem Law.commitLoad {l : Load} {c : Check} (h : Law k s) : Law k (commitLoad s l c).1 := by
  unfold Machine.commitLoad
  split
  · split
    · exact h
    · exact (h.setCreds.restartScan).staging
  · split
    · exact h
    · exact (h.setRates.restartScan).staging
  · split
    · exact h
    · rename_i hd
      split
      · exact h
      · exact (h.commitStations ‹_› (Classical.byContradiction hd)).staging

theorem Law.judgeLoadCommit {c : Check} (h : Law k s) : Law k (judgeLoadCommit s c).1 := by
  unfold Machine.judgeLoadCommit
  split
  · exact h
  · dsimp only
    split
    · exact h
    · exact h.commitLoad

theorem Law.judgeLoadOpen {n : Nat} (h : Law k s) : Law k (judgeLoadOpen s n).1 := by
  unfold Machine.judgeLoadOpen
  repeat' split
  all_goals exact h

theorem Law.judgeLoadRow {f : LoadRowArgs} (h : Law k s) : Law k (judgeLoadRow s f).1 := by
  unfold Machine.judgeLoadRow
  repeat' split
  all_goals exact h

theorem Law.judgeLoadDiscard {u : Unit} (h : Law k s) : Law k (judgeLoadDiscard s u).1 := by
  unfold Machine.judgeLoadDiscard
  split
  · exact h
  · exact h.staging

theorem Law.scanEnd {c : Check} (h : Law k s) : Law k (s.scanEnd c) := by
  unfold State.scanEnd
  split
  · split
    · split
      · exact h
      · exact h.setRates.post
    · exact h
  · split
    · split
      · exact h
      · exact h.setCreds.post
    · exact h

theorem Law.scanStep (h : Law k s) : Law k s.scanStep := by
  unfold State.scanStep
  split
  · exact h.scanAt (fun _ => by assumption)
  · exact h.scanEnd.scanAt (fun _ => Scan.startOf_row _)

end Sys2Proof.Machine
end

