-- ==== Sys2Proof/Laws/Reception.lean ====
section
/-! SUPPORT. What the reception of the bytes after a discard can do (Machine/Reception.lean): each frame found is taken as its own command
would be, what every such frame keeps is kept, and one frame is passed over, taken or kept as the bytes from the first marker say. -/

namespace Sys2Proof.Machine

@[simp] theorem State.keepBytes_pending (s : State) (bs : List Byte) : (s.keepBytes bs).pending = s.pending := rfl

/-- The commands that a whole frame can be: those that `takeFrame` takes. -/
def IsFrame (i : Instr) : Prop :=
  ∀ s, takeFrame i s = exec i s

/-- A number read byte by byte onto `a` stays below the next number after `a` with as many bytes behind it. -/
theorem foldl_bytes_lt (bs : List Byte) : ∀ a : Nat,
    bs.foldl (fun n (b : Byte) => n * 256 + b.toNat) a < (a + 1) * 256 ^ bs.length := by
  induction bs with
  | nil => intro a; simp
  | cons b bs ih =>
    intro a
    refine Nat.lt_of_lt_of_le (ih _) ?_
    rw [List.length_cons, Nat.pow_succ, Nat.mul_comm (256 ^ _) 256, ← Nat.mul_assoc]
    refine Nat.mul_le_mul_right _ ?_
    have := b.isLt
    show a * 256 + b.toNat + 1 ≤ _
    omega

/-- A number of `n` bytes is below the `n`-th power of 256. -/
theorem natOfBytes_lt (bs : List Byte) : natOfBytes bs < 256 ^ bs.length := by
  simpa [natOfBytes] using foldl_bytes_lt bs 0

/-- A request read from a frame is a frame command. -/
theorem isFrame_request (tag kind : Nat) (bs : List Byte) : IsFrame (Decode.request tag kind bs) := by
  unfold Decode.request
  split <;> first | exact fun _ => rfl | skip
  unfold Decode.armModeOf
  split <;> exact fun _ => rfl

/-- A frame that is not bad is read as a frame command. -/
theorem isFrame_decodeFrame {bs : List Byte} {i : Instr} (hb : badFrame bs = false) (h : decodeFrame bs = some i) : IsFrame i := by
  unfold decodeFrame at h
  rw [if_neg (by simp [hb])] at h
  split at h
  · split at h
    · split at h <;> cases h
      · exact fun _ => rfl
      · exact isFrame_request _ _ _
    · cases h
  · cases h

/-- The time a frame sets is one the clock can hold. -/
theorem request_time {tag kind : Nat} {bs : List Byte} {t n : Nat} (h : Decode.request tag kind bs = .timeSet t (.fields n)) :
    n ≤ timeMax := by
  unfold Decode.request at h
  split at h <;> first | cases h | skip
  · unfold Decode.armModeOf at h
    split at h <;> cases h
  · injection h with _ h
    unfold Decode.body Decode.nat at h
    split at h
    · rename_i e
      split at e
      · obtain ⟨rfl, -⟩ := Prod.mk.inj (Option.some.inj e)
        cases h
        have := natOfBytes_lt (bs.take 4)
        have hl : (bs.take 4).length ≤ 4 := List.length_take_le 4 bs
        have := Nat.pow_le_pow_right (n := 256) (by decide) hl
        unfold timeMax
        omega
      · cases e
    · cases h

theorem decodeFrame_time {bs : List Byte} {t n : Nat} (hb : badFrame bs = false) (h : decodeFrame bs = some (.timeSet t (.fields n))) :
    n ≤ timeMax := by
  unfold decodeFrame at h
  rw [if_neg (by simp [hb])] at h
  split at h
  · split at h
    · split at h
      · cases h
      · exact request_time (Option.some.inj h)
    · cases h
  · cases h

/-- Reception answers a next state, and what the kept bytes and every frame keep holds of it. -/
theorem receiveFrames_keeps {P : State → Prop} (hk : ∀ bs t, P t → P (t.keepBytes bs))
    (hf : ∀ bs i t, badFrame bs = false → decodeFrame bs = some i → P t → ∃ u, exec i t = .next u ∧ P u) :
    ∀ (n : Nat) (bs : List Byte) (s : State), P s → ∃ t, receiveFrames n bs s = .next t ∧ P t
  | 0, _, s, h => ⟨_, rfl, hk _ s h⟩
  | n + 1, bs, s, h => by
    unfold receiveFrames
    dsimp only
    split
    · exact ⟨_, rfl, hk _ s h⟩
    split
    · exact ⟨_, rfl, hk _ s h⟩
    split
    · exact receiveFrames_keeps hk hf n _ s h
    rename_i hb
    split
    · rename_i i hi
      obtain ⟨u, hu, pu⟩ := hf _ i s (by simpa using hb) hi h
      rw [isFrame_decodeFrame (by simpa using hb) hi s, hu]
      exact receiveFrames_keeps hk hf n _ u pu
    · exact receiveFrames_keeps hk hf n _ s h

/-- What the kept bytes and every frame keep, reception keeps. -/
theorem receive_keeps {P : State → Prop} (hk : ∀ bs t, P t → P (t.keepBytes bs))
    (hf : ∀ bs i t, badFrame bs = false → decodeFrame bs = some i → P t → ∃ u, exec i t = .next u ∧ P u)
    (bs : List Byte) {s : State} (h : P s) : ∃ t, receive bs s = .next t ∧ P t :=
  receiveFrames_keeps hk hf _ bs s h

theorem fromMarker_length (bs : List Byte) : (fromMarker bs).length ≤ bs.length :=
  (List.dropWhile_suffix _).length_le

/-- How many frames are looked for does not count, from one more than the bytes are. -/
theorem receiveFrames_enough : ∀ (n m : Nat) (bs : List Byte) (s : State), bs.length < n → bs.length < m →
    receiveFrames n bs s = receiveFrames m bs s
  | 0, _, _, _, h, _ => absurd h (Nat.not_lt_zero _)
  | _, 0, _, _, _, h => absurd h (Nat.not_lt_zero _)
  | n + 1, m + 1, bs, s, hn, hm => by
    have hl := fromMarker_length bs
    unfold receiveFrames
    dsimp only
    split
    · rfl
    rename_i hne
    have hpos : 0 < (fromMarker bs).length := List.length_pos_iff.mpr hne
    have ht : (fromMarker bs).tail.length < n ∧ (fromMarker bs).tail.length < m := by simp; omega
    have hd : ∀ t, receiveFrames n ((fromMarker bs).drop (firstFrame (fromMarker bs)).length) t =
        receiveFrames m ((fromMarker bs).drop (firstFrame (fromMarker bs)).length) t := by
      have : 0 < (firstFrame (fromMarker bs)).length := by simp [firstFrame]; omega
      exact fun t => receiveFrames_enough n m _ t (by simp; omega) (by simp; omega)
    split
    · rfl
    split
    · exact receiveFrames_enough n m _ s ht.1 ht.2
    split
    · split <;> first | exact hd _ | rfl
    · exact receiveFrames_enough n m _ s ht.1 ht.2

/-- Reception once over: what it does with the bytes from the first start marker on. -/
theorem receive_eq (bs : List Byte) (s : State) :
    receive bs s =
      let rest := fromMarker bs
      if rest = [] then .next (s.keepBytes [])
      else if partFrame rest then .next (s.keepBytes rest)
      else if badFrame (firstFrame rest) then receive rest.tail s
      else
        match decodeFrame (firstFrame rest) with
        | some i =>
          match exec i s with
          | .next t => receive (rest.drop (firstFrame rest).length) t
          | .fault r => .fault r
          | .refused r => .refused r
        | none => receive rest.tail s := by
  have hl := fromMarker_length bs
  conv => lhs; unfold receive receiveFrames
  dsimp only
  split
  · rfl
  rename_i hne
  have hpos : 0 < (fromMarker bs).length := List.length_pos_iff.mpr hne
  have ht : receiveFrames bs.length (fromMarker bs).tail s = receive (fromMarker bs).tail s :=
    receiveFrames_enough _ _ _ s (by simp; omega) (by simp)
  have hd : ∀ t, receiveFrames bs.length ((fromMarker bs).drop (firstFrame (fromMarker bs)).length) t =
      receive ((fromMarker bs).drop (firstFrame (fromMarker bs)).length) t := by
    have : 0 < (firstFrame (fromMarker bs)).length := by simp [firstFrame]; omega
    exact fun t => receiveFrames_enough _ _ _ t (by simp; omega) (by simp)
  split
  · rfl
  split
  · exact ht
  rename_i hb
  cases hi : decodeFrame (firstFrame (fromMarker bs)) with
  | none => exact ht
  | some i =>
    dsimp only
    rw [isFrame_decodeFrame (by simpa using hb) hi s]
    cases exec i s with
    | next t => exact hd t
    | fault r => rfl
    | refused r => rfl

end Sys2Proof.Machine
end

