-- ==== Sys2Proof/Machine/Frames.lean ====
section
/-! DEFINITION. The bytes of what the part sends on the trunk (R200, R210, 11.5): the encoding of each field, of each reply body and of
each notice body, in the order of the rule that names the fields, and the frames that carry them. Where R210 leaves the form of a
compound field open the choice is marked in log entry 7. -/

namespace Sys2Proof.Machine

/-! ### Fields (R210) -/

/-- A value from a named list: its place in the list. -/
def listByte (n : Nat) : List Byte :=
  natBytes 1 n

/-- An optional value from a named list. -/
def optList {α : Type} (f : α → Nat) : Option α → List Byte :=
  optBytes 1 (fun a => listByte (f a))

/-- A card code in five bytes. -/
def cardBytes (c : Card) : List Byte :=
  natBytes 5 c.toNat

/-- A check in two bytes. -/
def checkBytes (c : Check) : List Byte :=
  natBytes 2 c.toNat

/-- A pair (arm, address). -/
def placeBytes (p : Nat × Nat) : List Byte :=
  natBytes 1 p.1 ++ natBytes 1 p.2

/-- A service point: arm, address, side, service. -/
def PointRef.bytes (r : PointRef) : List Byte :=
  natBytes 1 r.arm ++ natBytes 1 r.addr ++ natBytes 1 r.side ++ listByte r.svc.ctorIdx

/-- A release enable set, CREDIT lowest. -/
def Enables.bytes (e : Enables) : List Byte :=
  natBytes 1 (setBits [e.credit, e.tap, e.office])

/-- A reading with its time. -/
def Baseline.bytes (b : Baseline) : List Byte :=
  natBytes 2 b.reading ++ natBytes 4 b.time

/-- The number of a table (R204). -/
def TableId.number : TableId → Nat
  | .credentials => 0
  | .rates => 1
  | .stations a => a + 2

/-- The peak current, for POWER only. -/
def peakBytes (svc : Service) (peak : Nat) : List Byte :=
  optNat 2 (match svc with
    | .power => some peak
    | .water => none)

/-- A trip cause with its time. -/
def tripBytes (ses : Session) : List Byte :=
  optBytes 5 (fun c : TripCause => listByte c.ctorIdx ++ natBytes 4 (ses.tripTime.getD 0)) ses.tripCause

/-- Every field of a session (R90). -/
def Session.bytes (svc : Service) (ses : Session) : List Byte :=
  natBytes 2 ses.account ++ optBytes 5 cardBytes ses.card ++ natBytes 4 ses.start ++ natBytes 4 ses.billed ++
  natBytes 4 ses.unbilled ++ natBytes 6 ses.cents ++ natBytes 2 ses.residue ++ peakBytes svc ses.peak ++
  optList SuspReason.ctorIdx ses.suspension ++ optList Cause.ctorIdx ses.lastRelease ++ tripBytes ses ++
  optList CloseReason.ctorIdx ses.closeReason

/-- Every field of a service point (R89). -/
def PointReport.bytes (p : PointReport) : List Byte :=
  p.point.bytes ++ optNat 1 p.berth ++ listByte p.record.state.ctorIdx ++ p.record.enables.bytes ++
  optBytes 6 Baseline.bytes p.record.baseline ++ natBytes 2 p.record.unattributed ++ natBytes 1 p.record.unconfirmed ++
  optBytes 43 (Session.bytes p.point.svc) p.record.session

/-- A desired state, numbered as R91 lists them: ON 0, OFF 1. -/
def desiredByte (on : Bool) : List Byte :=
  listByte (if on then 0 else 1)

/-- A post's mark: the desired states of its four points and the class, SAFETY first (R91, R106). That the states stand in the order of the
POST-SET frame, without a count byte, is a DESIGN CHOICE (log entry 7). -/
def PostMark.bytes (m : PostMark) : List Byte :=
  desiredByte m.power0 ++ desiredByte m.water0 ++ desiredByte m.power1 ++ desiredByte m.water1 ++
  listByte (if m.safety then 0 else 1)

/-- Every field of a sale (R149). -/
def Sale.bytes (x : Sale) : List Byte :=
  listByte x.source.ctorIdx ++ optNat 2 x.account ++ optBytes 5 cardBytes x.card ++ natBytes 1 x.nozzle ++
  natBytes 1 x.grade ++ natBytes 2 x.price ++ natBytes 3 x.limit ++ optNat 1 x.holdId ++ natBytes 3 x.preset ++
  natBytes 3 x.volume ++ natBytes 4 x.amount ++ flagBytes x.abortTaken ++ natBytes 4 x.start ++ optNat 4 x.endTime ++
  optList EndReason.ctorIdx x.endReason

/-- Every field of a credential row (R50). A disabled row's berth above 255 goes out modulo 256 (DESIGN CHOICE, log entry 37). -/
def CredRow.bytes (r : CredRow) : List Byte :=
  flagBytes r.enabled ++ cardBytes r.code ++ cardBytes r.mask ++ listByte r.kind.ctorIdx ++ optNat 1 r.berth ++
  optBytes 8 (fun w : Nat × Nat => natBytes 4 w.1 ++ natBytes 4 w.2) r.window ++ natBytes 1 r.pontoons ++
  flagBytes r.antiPassback

/-- The reservation part of a berth (R3). -/
def Reservation.bytes (r : Reservation) : List Byte :=
  natBytes 4 r.deadline ++ flagBytes r.enabled ++ optNat 4 r.planned

/-- Every field of a berth (R3). -/
def berthBytes (n : Nat) (b : Berth) (bound : Option SideRef) : List Byte :=
  natBytes 1 n ++ listByte b.state.ctorIdx ++ natBytes 1 b.lengthClass ++ listByte b.powerClass.ctorIdx ++ flagBytes b.water ++
  flagBytes b.autoArrival ++ flagBytes b.nightlyFee ++ optNat 2 b.occupant ++ optBytes 10 Reservation.bytes b.reservation ++
  optNat 4 b.arrival ++ optNat 4 b.checkOut ++ natBytes 1 b.feesPending ++ flagBytes b.overstay ++ flagBytes b.overdueSent ++
  optBytes 3 (fun d : SideRef => natBytes 1 d.arm ++ natBytes 1 d.addr ++ natBytes 1 d.side) bound

/-- A hold entry (R28). -/
def Hold.bytes (h : Hold) : List Byte :=
  natBytes 1 h.id ++ natBytes 1 h.pump ++ natBytes 3 h.amount

/-- Every item of ACCOUNT-QUERY (R45). -/
def accountBytes (a : Account) (available : Option Int) : List Byte :=
  listByte a.standing.ctorIdx ++ optList Funds.ctorIdx a.funds ++ intBytes 4 a.balance ++ natBytes 3 a.overdraft ++
  natBytes 3 a.lowThreshold ++ natBytes 3 a.restartMin ++ optBytes 4 (intBytes 4) available ++ natBytes 4 a.uncollected ++
  listBytes Hold.bytes a.holds

/-- A gate's mark: none, STRIKE, DENY, HOLD-RELEASE (R64). -/
def gateMarkByte : Option GateMark → Nat
  | none => 0
  | some m => m.cmd.ctorIdx + 1

/-- Every item of GATE-QUERY (R64, R86); the link is ONLINE or OFFLINE. -/
def gateBytes (n : Nat) (g : Gate) (online : Bool) (pontoon : Option (Tracking × Nat)) : List Byte :=
  natBytes 1 n ++ optBytes 2 placeBytes g.station ++ optNat 1 g.pontoon ++ optNat 1 g.strikeTime ++ optNat 2 g.holdGrace ++
  listByte g.mode.ctorIdx ++ listByte (if g.doorOpen then 1 else 0) ++ listByte g.monitor.ctorIdx ++ optNat 4 g.strikeEnd ++
  flagBytes g.passageSeen ++ listByte (gateMarkByte g.mark) ++ listByte (if online then 0 else 1) ++
  optBytes 3 (fun x : Tracking × Nat => listByte x.1.ctorIdx ++ natBytes 2 x.2) pontoon

/-- A pump's mark: none, AUTH with its fields, STOP (R148). -/
def pumpMarkBytes : Option PumpMark → List Byte
  | none => listByte 0
  | some { cmd := .auth nozzle grade preset, .. } => listByte 1 ++ natBytes 1 nozzle ++ natBytes 1 grade ++ natBytes 3 preset
  | some { cmd := .stop, .. } => listByte 2

/-- The state a SUSPECT pump was suspended from: READY, FUELLING, STOPPING (R148). -/
def suspendedByte : PumpState → Nat
  | .fuelling => 1
  | .stopping => 2
  | _ => 0

/-- Every field of a pump (R148). -/
def pumpBytes (n : Nat) (x : Pump) : List Byte :=
  natBytes 1 n ++ optBytes 2 placeBytes x.station ++ natBytes 1 x.grade0 ++ natBytes 1 x.grade1 ++ flagBytes x.protect ++
  listByte x.state.ctorIdx ++ optList suspendedByte x.suspendedFrom ++ optNat 4 x.suspectSince ++
  optBytes 41 Sale.bytes x.sale ++ listBytes Sale.bytes x.slots ++ natBytes 2 x.lost ++ optNat 3 x.closedVolume ++
  pumpMarkBytes x.mark

/-- An address's mark in ARM-QUERY (R186): present or absent, its owner's kind, and for a post its class, SAFETY first. -/
def markBytes (kind : RowKind) (present : Bool) (safety : Option Bool) : List Byte :=
  flagBytes present ++ listByte (if present then kind.ctorIdx else 0) ++
  (match kind with
    | .post => listByte (if safety = some false then 1 else 0)
    | _ => [])

/-- One address of ARM-QUERY (R186). The four zero bytes of an absent station record, and the mark's owner numbered by the row's kind and 0
without a mark, are a DESIGN CHOICE (log entry 7). -/
def AddressReport.bytes (r : AddressReport) : List Byte :=
  listByte r.kind.ctorIdx ++
  optBytes 4 (fun x : Station × Bool × Option Bool =>
    listByte x.1.link.ctorIdx ++ natBytes 1 x.1.missed ++ markBytes r.kind x.2.1 x.2.2) r.station

/-- What R196 reports of a relay request: direction (WRITE, READ), the target as translated in its first form, the per-arm results, and
for a READ the bytes that arrived. -/
def RelayReport.fields (r : RelayReport) : List Byte :=
  listByte (if r.isRead then 1 else 0) ++ listByte 0 ++ natBytes 1 r.arms ++ natBytes 1 r.addr ++
  listBytes (fun x : Nat × Nat × Nat × Option EndCause =>
    natBytes 1 x.2.1 ++ natBytes 1 x.2.2.1 ++ listByte ((x.2.2.2.map EndCause.ctorIdx).getD 0)) r.results ++
  (if r.isRead then listBytes (fun b : Byte => [b]) r.bytes else [])

/-- A transfer as RELAY-QUERY gives it: every field of R194 but the read buffer (R198). -/
def transferBytes (x : RelayRequest × Transfer) : List Byte :=
  natBytes 1 x.1.tag ++ listByte (match x.1.data with
    | .write _ => 0
    | .read _ => 1) ++ natBytes 1 x.1.addr ++ natBytes 1 x.2.total ++ natBytes 1 x.2.done ++
  optList EndCause.ctorIdx x.2.endCause

/-- The six display digits of a value, carried as three bytes of packed decimal (R131, R133). -/
def digitBytes (v : Nat) : List Byte :=
  packDigits (displayDigits v)

/-- The answer of MATCH-TEST: TABLE, UNKNOWN, or MATCH with the row, its fields and the verdict (R62). -/
def matchBytes : MatchAnswer → Verdict → List Byte
  | .table, _ => listByte 0
  | .unknown, _ => listByte 1
  | .hit r row, v => listByte 2 ++ natBytes 2 r ++ row.bytes ++ listByte v.ctorIdx

/-- The row of a failed commit: R56 gives a credential row, R118 a rate row, R177 a station row with the clash, if any. -/
def failedRowBytes (t : TableId) (row : Nat) (clash : Option (Nat × Nat)) : List Byte :=
  match t with
  | .credentials => natBytes 2 row
  | .rates => natBytes 1 row
  | .stations _ => natBytes 1 row ++ optBytes 2 placeBytes clash

/-! ### Reply bodies -/

/-- The fields of a reply after its result byte. That STATUS gives its notices of each class (R214) as two plain numbers, ROUTINE before
URGENT, that RATE-QUERY's stored checksum (R132), always present there, goes out as the optional field that the table has (R117), and that
ARM-QUERY's anchor in force (R186) is an optional field, absent on an arm without a station, are a DESIGN CHOICE (log entry 7); so is that
a failed station row's clash (R177) is an optional field, while the row and verdict of MATCH-TEST's answer (R62), the bytes of a READ, the
fields of an AUTH mark and the class of a post's mark in ARM-QUERY are forms an earlier field decides, and that a session's trip cause and
time are a pair present together (log entry 7). -/
def ReplyBody.bytes : ReplyBody → List Byte
  | .empty => []
  | .berth n b bound => berthBytes n b bound
  | .debited balance uncollected st => intBytes 4 balance ++ natBytes 4 uncollected ++ listByte st.ctorIdx
  | .credited balance available st => intBytes 4 balance ++ intBytes 4 available ++ listByte st.ctorIdx
  | .standing s => listByte s.ctorIdx
  | .closedAccount balance uncollected => intBytes 4 balance ++ natBytes 4 uncollected
  | .account a available => accountBytes a available
  | .credential state row => listByte state.ctorIdx ++ row.bytes
  | .matched table a v => listByte table.ctorIdx ++ matchBytes a v
  | .gate n g online pontoon => gateBytes n g online pontoon
  | .count n => natBytes 2 n
  | .presence pontoons matching records =>
    listBytes (fun x : Nat × Nat × Tracking => natBytes 2 x.1 ++ natBytes 2 x.2.1 ++ listByte x.2.2.ctorIdx) pontoons ++
    natBytes 2 matching ++ listBytes (fun r : Presence => cardBytes r.card ++ natBytes 1 r.pontoon ++ natBytes 4 r.entry) records
  | .removed pontoon entry => natBytes 1 pontoon ++ natBytes 4 entry
  | .points states => listBytes (fun x : PointState => listByte x.ctorIdx) states
  | .releases reports =>
    listBytes (fun r : ReleaseReport => listByte r.state.ctorIdx ++ optList ReleaseFailure.ctorIdx r.failed) reports
  | .outlets reports mark => listBytes PointReport.bytes reports ++ optBytes 5 PostMark.bytes mark
  | .rates state checksum rows => listByte state.ctorIdx ++ optBytes 2 checkBytes checksum ++ rows.flatten
  | .quoteAmount price amount volume => natBytes 2 price ++ natBytes 4 amount ++ digitBytes amount ++ digitBytes volume
  | .quoteStop price stop amount clamped => natBytes 2 price ++ natBytes 3 stop ++ natBytes 4 amount ++ flagBytes clamped
  | .protection offset shift fullScale shortN window rating warn det delay tapAt =>
    natBytes 2 offset ++ natBytes 1 shift ++ natBytes 2 fullScale ++ natBytes 1 shortN ++ natBytes 1 window ++ natBytes 2 rating ++
    natBytes 2 warn ++ natBytes 1 det.run ++ natBytes 3 det.sum ++ natBytes 1 det.count ++ flagBytes det.latch ++
    optNat 2 det.last ++ natBytes 2 delay ++ optNat 4 tapAt
  | .holdRefused r => listByte r.ctorIdx
  | .authorized price limit preset => natBytes 2 price ++ natBytes 3 limit ++ natBytes 3 preset
  | .sale x left => x.bytes ++ natBytes 1 left
  | .pump n x => pumpBytes n x
  | .station addr => natBytes 1 addr
  | .arm state errors period slot window silence anchor autoRestore inForce probes pointer sweep checksum addrs =>
    listByte state.ctorIdx ++ natBytes 1 errors ++ natBytes 2 period ++ natBytes 2 slot ++ natBytes 1 window ++
    natBytes 1 silence ++ natBytes 1 anchor ++ flagBytes autoRestore ++ optNat 1 inForce ++ natBytes 1 probes ++
    natBytes 1 pointer ++ flagBytes sweep.isSome ++ listBytes (natBytes 1) (sweep.getD []) ++ optBytes 2 checkBytes checksum ++
    listBytes AddressReport.bytes addrs
  | .groups n => natBytes 1 n
  | .relayed r => r.fields
  | .refusals pairs => listBytes placeBytes pairs
  | .relays pairs perArm => listBytes placeBytes pairs ++ listBytes (optBytes 7 transferBytes) perArm
  | .rowCount n => natBytes 2 n
  | .found c => checkBytes c
  | .failedRow t row clash => failedRowBytes t row clash
  | .times old new => natBytes 4 old ++ natBytes 4 new
  | .status link silence clock cs rs load scan routine urgent dropped discarded next arms =>
    listByte link.ctorIdx ++ natBytes 1 silence ++ natBytes 4 clock ++ listByte cs.ctorIdx ++ listByte rs.ctorIdx ++
    optList TableId.number load ++ listByte (if scan.inRates then 1 else 0) ++ natBytes 2 scan.row ++ natBytes 1 routine ++
    natBytes 1 urgent ++ natBytes 2 dropped ++ natBytes 2 discarded ++ natBytes 2 next ++
    listBytes (fun x : ArmState × Nat => listByte x.1.ctorIdx ++ natBytes 1 x.2) arms

/-! ### Notice bodies -/

/-- The number of the reason of a PUMP-DENIED notice: the checks of R154 in their order, those of its HOLD in the order R154 lists them. CLOSED,
which R154 says does not arise, comes last (DESIGN CHOICE, log entry 7). -/
def PumpRefusal.number : PumpRefusal → Nat
  | .blocked => 0
  | .busy => 1
  | .table => 2
  | .unknown => 3
  | .time => 4
  | .kind => 5
  | .berth => 6
  | .rates => 7
  | .hold .exhausted => 8
  | .hold .barred => 9
  | .hold .holdsFull => 10
  | .hold .insufficient => 11
  | .hold .closed => 12

/-- The kind code of a notice (11.8). -/
def NoticeBody.code : NoticeBody → Nat
  | .arrived .. => 0x10
  | .overdue .. => 0x11
  | .lapsed .. => 0x12
  | .overstay .. => 0x13
  | .departed .. => 0x14
  | .feesUnpriced .. => 0x15
  | .low .. => 0x20
  | .exhausted .. => 0x21
  | .barred .. => 0x22
  | .restored .. => 0x23
  | .accountMismatch .. => 0x24
  | .tableFault .. => 0x28
  | .passage .. => 0x30
  | .forced .. => 0x31
  | .heldOpen .. => 0x32
  | .doorSecure .. => 0x33
  | .tracking .. => 0x34
  | .tap .. => 0x38
  | .sessionClosed .. => 0x39
  | .startFailed .. => 0x3A
  | .supplyDropped .. => 0x3B
  | .cutUnconfirmed .. => 0x3C
  | .leak .. => 0x3D
  | .meterFault .. => 0x40
  | .trip .. => 0x41
  | .overloadWarn .. => 0x42
  | .pumpDenied .. => 0x48
  | .pumpAuthorized .. => 0x49
  | .authExpired .. => 0x4A
  | .abortDone .. => 0x4B
  | .saleComplete .. => 0x4C
  | .saleLost .. => 0x4D
  | .linkLost .. => 0x4E
  | .lateVolume .. => 0x4F
  | .stationSilent .. => 0x50
  | .stationPresent .. => 0x51
  | .armWarning .. => 0x52
  | .armState .. => 0x53
  | .armIsolated .. => 0x54
  | .armReachable .. => 0x55
  | .relayDone .. => 0x58
  | .autonomous .. => 0x60

/-- A matched row's kind and berth, given together where a row was matched. -/
def matchedBytes (kind : Option CredKind) (berth : Option Nat) : List Byte :=
  optBytes 3 (fun k : CredKind => listByte k.ctorIdx ++ optNat 1 berth) kind

/-- The subject fields of a notice, in the order of their chapter's notice table (R210). The pontoon of a crossed record (R72), which
PASSAGE's row does not list, comes last as an optional field, and the state left in DOOR-SECURE is numbered HELD 0, FORCED 1 by its notice's
own row and not by R64; the points acted on in TAP (R100) are a list of services, one byte each, because the notice names the side before.
A field its record calls optional that is always present in its notice is plain (the arrival and check-out time of DEPARTED, the planned
departure of OVERSTAY, the strike end of HELD-OPEN, the close reason of SESSION-CLOSED, the baseline of METER-FAULT, the cause and time of
TRIP, the closed volume of LATE-VOLUME, the stored checksum of TABLE-FAULT, the anchor of ARM-REACHABLE); the berth of a side or a point has
its presence byte in every notice, those included where one is always bound (TRIP, OVERLOAD-WARN, SESSION-CLOSED), and a completed sale goes
out whole, its end time and end reason with theirs. A field carried only for some values of an earlier one is an optional field with a
presence byte and not a form the earlier one decides (the card code of ARRIVED and PASSAGE, the denial reason of PASSAGE, the refusal reason
of TAP, the amount, hold id and source of ACCOUNT-MISMATCH); the figures of TRIP alone are such a form. (DESIGN CHOICE, all of these log
entry 7.) -/
def NoticeBody.bytes : NoticeBody → List Byte
  | .arrived b n src card late =>
    natBytes 1 b ++ natBytes 2 n ++ listByte src.ctorIdx ++ optBytes 5 cardBytes card ++ flagBytes late
  | .overdue b n deadline => natBytes 1 b ++ natBytes 2 n ++ natBytes 4 deadline
  | .lapsed b n deadline => natBytes 1 b ++ natBytes 2 n ++ natBytes 4 deadline
  | .overstay b n planned => natBytes 1 b ++ natBytes 2 n ++ natBytes 4 planned
  | .departed b n arrival checkOut count late =>
    natBytes 1 b ++ natBytes 2 n ++ natBytes 4 arrival ++ natBytes 4 checkOut ++ natBytes 1 count ++ flagBytes late
  | .feesUnpriced b n nights => natBytes 1 b ++ natBytes 2 n ++ natBytes 1 nights
  | .low n available threshold => natBytes 2 n ++ intBytes 4 available ++ natBytes 3 threshold
  | .exhausted n available balance holds => natBytes 2 n ++ intBytes 4 available ++ intBytes 4 balance ++ natBytes 1 holds
  | .barred n balance => natBytes 2 n ++ intBytes 4 balance
  | .restored n st available => natBytes 2 n ++ listByte st.ctorIdx ++ intBytes 4 available
  | .accountMismatch n kind amount holdId src =>
    natBytes 2 n ++ listByte kind.ctorIdx ++ optNat 4 amount ++ optNat 1 holdId ++ optList DebitSource.ctorIdx src
  | .tableFault rates stored found => listByte (if rates then 1 else 0) ++ checkBytes stored ++ checkBytes found
  | .passage g p dir card kind berth granted reason outcome crossedFrom =>
    natBytes 1 g ++ natBytes 1 p ++ listByte dir.ctorIdx ++ optBytes 5 cardBytes card ++ matchedBytes kind berth ++
    listByte (if granted then 0 else 1) ++ optList Denial.ctorIdx reason ++ listByte outcome.ctorIdx ++ optNat 1 crossedFrom
  | .forced g p => natBytes 1 g ++ natBytes 1 p
  | .heldOpen g p strikeEnd => natBytes 1 g ++ natBytes 1 p ++ natBytes 4 strikeEnd
  | .doorSecure g p left => natBytes 1 g ++ natBytes 1 p ++ listByte (if left = .forced then 1 else 0)
  | .tracking p state count => natBytes 1 p ++ listByte state.ctorIdx ++ natBytes 2 count
  | .tap a d side berth card kind result reason points =>
    natBytes 1 a ++ natBytes 1 d ++ natBytes 1 side ++ optNat 1 berth ++ cardBytes card ++ optList CredKind.ctorIdx kind ++
    listByte result.ctorIdx ++ optList TapRefusal.ctorIdx reason ++ listBytes (fun x : Service => listByte x.ctorIdx) points
  | .sessionClosed r berth ses closeTime reason =>
    r.bytes ++ optNat 1 berth ++ natBytes 2 ses.account ++ optBytes 5 cardBytes ses.card ++ natBytes 4 ses.start ++
    natBytes 4 closeTime ++ natBytes 4 ses.billed ++ natBytes 4 ses.unbilled ++ natBytes 6 ses.cents ++ peakBytes r.svc ses.peak ++
    listByte reason.ctorIdx ++ optList TripCause.ctorIdx ses.tripCause
  | .startFailed r berth n => r.bytes ++ optNat 1 berth ++ natBytes 2 n
  | .supplyDropped r berth n => r.bytes ++ optNat 1 berth ++ natBytes 2 n
  | .cutUnconfirmed r berth state => r.bytes ++ optNat 1 berth ++ listByte state.ctorIdx
  | .leak r berth pulses => r.bytes ++ optNat 1 berth ++ natBytes 2 pulses
  | .meterFault r berth b reading delta elapsed limit =>
    r.bytes ++ optNat 1 berth ++ b.bytes ++ natBytes 2 reading ++ natBytes 2 delta ++ natBytes 2 elapsed ++ natBytes 3 limit
  | .trip a d side berth n cause left raw current run mean time =>
    natBytes 1 a ++ natBytes 1 d ++ natBytes 1 side ++ optNat 1 berth ++ natBytes 2 n ++ listByte cause.ctorIdx ++
    listByte left.ctorIdx ++ natBytes 2 raw ++ natBytes 2 current ++
    (match run with
      | some x => natBytes 1 x.1 ++ natBytes 1 x.2
      | none => []) ++
    (match mean with
      | some x => natBytes 2 x.1 ++ natBytes 2 x.2
      | none => []) ++
    natBytes 4 time
  | .overloadWarn a d side berth n mean warn rating =>
    natBytes 1 a ++ natBytes 1 d ++ natBytes 1 side ++ optNat 1 berth ++ natBytes 2 n ++ natBytes 2 mean ++ natBytes 2 warn ++
    natBytes 2 rating
  | .pumpDenied p nozzle card reason => natBytes 1 p ++ natBytes 1 nozzle ++ cardBytes card ++ listByte reason.number
  | .pumpAuthorized p x =>
    natBytes 1 p ++ natBytes 1 x.nozzle ++ natBytes 1 x.grade ++ listByte x.source.ctorIdx ++ optNat 2 x.account ++
    optBytes 5 cardBytes x.card ++ natBytes 2 x.price ++ natBytes 3 x.limit ++ natBytes 3 x.preset
  | .authExpired p x =>
    natBytes 1 p ++ natBytes 1 x.nozzle ++ listByte x.source.ctorIdx ++ optNat 2 x.account ++ natBytes 4 x.start
  | .abortDone p volume amount => natBytes 1 p ++ natBytes 3 volume ++ natBytes 4 amount
  | .saleComplete p x => natBytes 1 p ++ x.bytes
  | .saleLost p x => natBytes 1 p ++ x.bytes
  | .linkLost p n volume amount => natBytes 1 p ++ optNat 2 n ++ natBytes 3 volume ++ natBytes 4 amount
  | .lateVolume p closed reported phase =>
    natBytes 1 p ++ natBytes 3 closed ++ natBytes 3 reported ++ listByte phase.ctorIdx
  | .stationSilent a d kind missed => natBytes 1 a ++ natBytes 1 d ++ listByte kind.ctorIdx ++ natBytes 1 missed
  | .stationPresent a d kind left => natBytes 1 a ++ natBytes 1 d ++ listByte kind.ctorIdx ++ listByte left.ctorIdx
  | .armWarning a n => natBytes 1 a ++ natBytes 1 n
  | .armState a left entered cause n =>
    natBytes 1 a ++ listByte left.ctorIdx ++ listByte entered.ctorIdx ++ listByte cause.ctorIdx ++ natBytes 1 n
  | .armIsolated a left n => natBytes 1 a ++ listByte left.ctorIdx ++ natBytes 1 n
  | .armReachable a anchor => natBytes 1 a ++ natBytes 1 anchor
  | .relayDone tag r => natBytes 1 tag ++ r.fields
  | .autonomous silence => natBytes 1 silence

/-! ### Frames (11.5) -/

/-- A trunk frame (11.5): start marker, length of tag, kind and body, tag, kind, body, and the check over all but the marker (R200). -/
def trunkFrame (tag kind : Nat) (body : List Byte) : List Byte :=
  let inner := natBytes 1 (body.length + 2) ++ natBytes 1 tag ++ natBytes 1 kind ++ body
  [startMarker] ++ inner ++ checkBytes (crc inner)

/-- The bytes of a reply frame: the request's kind plus 0x80, the result byte, the fields (11.5). -/
def Reply.frame (r : Reply) : List Byte :=
  trunkFrame r.tag (r.kind + 0x80) (listByte r.result.ctorIdx ++ r.body.bytes)

/-- The bytes of a notice frame: tag 0, kind 0xFF; kind, class, time, number, subject fields (11.5). -/
def Notice.frame (n : Notice) : List Byte :=
  trunkFrame 0 0xFF (natBytes 1 n.body.code ++ listByte n.body.cls.ctorIdx ++ natBytes 4 n.time ++ natBytes 2 n.number ++
    n.body.bytes)

/-- The bytes of a frame being sent (R202). -/
def SentFrame.bytes : SentFrame → List Byte
  | .reply r => r.frame
  | .notice n => n.frame

end Sys2Proof.Machine
end

