-- ==== Sys2Proof/Tests/Slice0.lean ====
section
/-! SUPPORT. Tests: the checks of WellFormed on ill-formed commands, frames read from bytes written out from the manual, one step of each
command on a small state with the outcome the manual's worked sequences and rules give, and for every statement with hypotheses a
`witness_<Statement>` that meets them, at the boundary values of its clauses. -/

set_option Elab.async false

namespace Sys2Proof.Tests

open Sys2Proof Sys2Proof.Machine

/-! ### Helpers -/

/-- The state after a command. -/
def after (c : Instr) (s : State) : State :=
  match exec c s with
  | .next t => t
  | .fault _ => s
  | .refused _ => s

/-- The result of the reply being sent. -/
def sentResult (s : State) : Option Result :=
  match s.trunk.sending with
  | some (.reply r) => some r.result
  | _ => none

/-- The fields of the reply being sent. -/
def sentBody (s : State) : Option ReplyBody :=
  match s.trunk.sending with
  | some (.reply r) => some r.body
  | _ => none

/-- The result of a request whose reply is sent at once. -/
def resultOf (c : Instr) (s : State) : Option Result :=
  sentResult (after c s)

/-- The fields of a request's reply that is sent at once. -/
def bodyOf (c : Instr) (s : State) : Option ReplyBody :=
  sentBody (after c s)

/-- The notices posted from a state with an empty queue, oldest first, one of them perhaps being sent. -/
def told (s : State) : List NoticeBody :=
  (match s.trunk.sending with
    | some (.notice n) => [n.body]
    | _ => []) ++ s.notices.queue.map (·.body)

/-- `n` numbers of two bytes each. -/
def words (l : List Nat) : List Byte :=
  l.flatMap (natBytes 2)

/-- `n` numbers of three bytes each. -/
def triples (l : List Nat) : List Byte :=
  l.flatMap (natBytes 3)

/-! ### A small marina, with the figures of the worked sequences -/

/-- Rates of 5.10, 6.8 and 8.10: bands 0, 420, 1080, 1320; power 30, 35, 42, 30; water 150; 32 A limit 3; night fee of class 3 4,500. -/
def rateRows : List (List Byte) :=
  [words [0, 420, 1080, 1320], words [30, 35, 42, 30], words [150, 150, 150, 150], natBytes 1 1 ++ natBytes 1 2 ++ natBytes 1 3 ++
    natBytes 1 6 ++ natBytes 1 12 ++ natBytes 1 4, words [50, 20], triples [2000, 3000, 3500, 4500, 6000, 9000],
   words [1899, 1950, 2150, 2200], triples [500, 20000, 5000, 1000]]

/-- A credential row's bytes: flags and kind, code, mask, berth, window, pontoons. -/
def credBytes (flags code mask berth from_ until_ pontoons : Nat) : List Byte :=
  natBytes 1 flags ++ natBytes 5 code ++ natBytes 5 mask ++ natBytes 2 berth ++ natBytes 4 from_ ++ natBytes 4 until_ ++
    natBytes 1 pontoons

/-- The rows of 3.9. -/
def credRows : Vector (List Byte) 512 :=
  ((((CredTable.reset.rows.set 0 (credBytes 3 0x004A217C93 0xFFFFFFFFFF 47 0 0 4)).set 5
    (credBytes 13 0x004A217C94 0xFFFFFFFFFF 47 17350000 17539200 4)).set 6
    (credBytes 2 0x004A217C95 0xFFFFFFFFFF 47 0 0 4)).set 20
    (credBytes 17 0x7E00000000 0xFF00000000 0 0 0 63)).set 21
    (credBytes 29 0x7E10000000 0xFFF0000000 0 17280000 17366400 16)

/-- A session of account 112. -/
def session : Session :=
  { account := 112, card := none, start := 17395200, billed := 10164, unbilled := 0, cents := 355, residue := 740, peak := 250
    suspension := none, lastRelease := none, tripCause := none, tripTime := none, closeReason := none }

/-- A point at rest. -/
def offPoint : Point :=
  { state := .off, enables := { credit := true, tap := true, office := true }, baseline := none, unattributed := 0, unconfirmed := 0
    session := none }

/-- A point with the session of account 112. -/
def drawing (st : PointState) : Point :=
  { offPoint with state := st, session := some session, baseline := some { reading := 65480, time := 17434800 } }

/-- The post of berths 47 and 48 (5.10, 7.7). -/
def postRow : Row :=
  .post (some 47) (some 48) 48 2 4000 2 4

/-- A post with side 0 as given and side 1 at rest. -/
def postWith (power water : Point) : Post :=
  { Post.created with power0 := power, water0 := water }

/-- A slot whose station is PRESENT. -/
def present (r : Row) (p : Option Post) : Slot :=
  { row := r, station := some { link := .present, missed := 0 }, post := p }

/-- An ACTIVE arm without timers. -/
def activeArm : Arm :=
  { Arm.reset with state := .active }

/-- A berth of account 112 held in a state. -/
def heldBerth (st : BerthState) : Berth :=
  { Berth.reset with
    state := st, lengthClass := 3, powerClass := .a32, water := true, autoArrival := true, nightlyFee := true
    occupant := some 112, reservation := some { deadline := 17344800, enabled := true, planned := some 17488800 } }

/-- An account with a balance, an overdraft and a standing. -/
def accountOf (st : Standing) (f : Option Funds) (balance : Int) (overdraft : Nat) (holds : List Hold) : Account :=
  { standing := st, funds := f, balance := balance, overdraft := overdraft, lowThreshold := 10000, restartMin := 15000
    holds := holds, uncollected := 0 }

/-- A sale on account 203 at pump 1 (8.10). -/
def sale203 : Sale :=
  { source := .account, account := some 203, card := some 0x005C102E41#40, nozzle := 0, grade := 0, price := 1899, limit := 20000
    holdId := some 0, preset := 10532, volume := 0, amount := 0, abortTaken := false, start := 17561000, endTime := none
    endReason := none }

/-- Pump 1 in a state, with a sale and completed sales. -/
def pumpIn (st : PumpState) (q : Option Sale) (slots : List Sale) : Pump :=
  { Pump.reset with station := some (5, 3), grade1 := 2, state := st, sale := q, slots := slots, closedVolume := some 6120 }

/-- Gate 3 on arm 2, address 1 (4.9). -/
def gate3 : Gate :=
  { Gate.reset with station := some (2, 1), strikeTime := some 5, holdGrace := some 30 }

/-- The marina: berth 47 OCCUPIED, 12 FREE, 14 RESERVED, 15 OVERDUE, 16 DEPARTING, 131 OCCUPIED, the rest CLOSED; arms 1 to 3 and 5
ACTIVE with their stations PRESENT; arm 4 ISOLATED; both tables VALID; the link CONNECTED. -/
def dock : State :=
  let s := { State.reset with
    clock := 17434860
    trunk := { Trunk.reset with link := .connected }
    creds := { state := .valid, rows := credRows, checksum := some 0x1234#16 }
    rates := { state := .valid, rows := Vector.ofFn (fun i : Fin 8 => rateRows.getD i.val []), checksum := some 0x4321#16 } }
  let s := (((((s.setBerth 47 (heldBerth .occupied)).setBerth 12 { Berth.reset with state := .free, lengthClass := 3 }).setBerth 14
    (heldBerth .reserved)).setBerth 15 (heldBerth .overdue)).setBerth 16 { heldBerth .departing with checkOut := some 17434800 }).setBerth
    131 { heldBerth .occupied with occupant := some 203 }
  let s := (((s.setAccount 112 (accountOf .good (some .good) 50000 0 [])).setAccount 203
    (accountOf .exhausted (some .exhausted) 14960 5000 [{ id := 0, pump := 1, amount := 20000 }])).setAccount 88
    (accountOf .exhausted (some .exhausted) (-9999500) 0 [])).setAccount 57 (accountOf .barred (some .low) 700 0 [])
  let s := ((s.setArm 1 activeArm).setArm 2 activeArm).setArm 3 activeArm
  let s := (s.setArm 5 activeArm).setArm 4 { activeArm with state := .isolated, probeTimer := true }
  let s := ((s.setSlot 2 9 (present postRow (some (postWith (drawing .live) offPoint)))).setSlot 2 1
    (present (.gate 3 5 30) none)).setSlot 5 3 (present (.pump 1 0 2) none)
  let s := (s.setSlot 1 7 (present (.post none none 0 0 4000 2 16) (some Post.created))).setSlot 3 7
    (present (.post none none 0 0 4000 2 16) (some Post.created))
  let s := ((s.setGate 3 gate3).setPump 1 (pumpIn .idle none [])).setPontoon 2 { limit := 2, tracking := .on }
  s

/-- The marina with side 0 of the post at arm 2, address 9 as given. -/
def dockWith (power water : Point) : State :=
  dock.setPost 2 9 (postWith power water)

/-- The marina with pump 1 as given. -/
def dockPump (p : Pump) : State :=
  dock.setPump 1 p

/-- The POWER point of berth 47. -/
def power47 : PointRef :=
  { arm := 2, addr := 9, side := 0, svc := .power }

/-- The WATER point of berth 47. -/
def water47 : PointRef :=
  { arm := 2, addr := 9, side := 0, svc := .water }

/-- A state whose reply list is full. -/
def fullReplies : State :=
  { dock with trunk := { dock.trunk with
      sending := some (.notice { number := 0, time := 0, body := .autonomous 30 })
      replies := List.replicate 16 { tag := 1, kind := 0x65, result := .done, body := .empty } } }

theorem dock_room : dock.Room := of_decide_eq_true (p := dock.trunk.replies.length + dock.withheld < 16) (by decide +kernel)

/-- A property of every record of a table and of its default holds of every read. -/
theorem tabGet_all {α : Type} {n : Nat} {P : α → Prop} (v : Vector α n) (d : α) (h : ∀ x ∈ v.toList, P x) (hd : P d) (i : Nat) :
    P (tabGet v d i) := by
  unfold tabGet
  by_cases hi : i < n
  · rw [Vector.getElem?_eq_getElem hi]
    exact h _ (by simp)
  · rw [Vector.getElem?_eq_none (Nat.le_of_not_lt hi)]
    exact hd

/-- The same for a table numbered from 1. -/
theorem numGet_all {α : Type} {n : Nat} {P : α → Prop} (v : Vector α n) (d : α) (h : ∀ x ∈ v.toList, P x) (hd : P d) (i : Nat) :
    P (numGet v d i) := by
  cases i with
  | zero => exact hd
  | succ k => exact tabGet_all v d h hd k


/-! ### WellFormed: an ill-formed command for each check -/

theorem test_wf_tag :
    (Instr.rateQuery 0 (.fields ())).wellFormed = false ∧ (Instr.rateQuery 256 (.fields ())).wellFormed = false ∧
    (Instr.rateQuery 255 (.fields ())).wellFormed = true := by decide +kernel

theorem test_wf_berth_requests :
    ReserveArgs.ok { berth := 256, account := 1, deadline := 0, deadlineEnable := true, planned := none } = false ∧
    ReserveArgs.ok { berth := 1, account := 65536, deadline := 0, deadlineEnable := true, planned := none } = false ∧
    ReserveArgs.ok { berth := 1, account := 1, deadline := 4294967296, deadlineEnable := true, planned := none } = false ∧
    ReserveArgs.ok { berth := 1, account := 1, deadline := 0, deadlineEnable := true, planned := some 4294967296 } = false ∧
    CheckInArgs.ok { berth := 256, account := 1, planned := none } = false ∧
    CheckInArgs.ok { berth := 1, account := 65536, planned := none } = false ∧
    CheckInArgs.ok { berth := 1, account := 1, planned := some 4294967296 } = false ∧
    DepartureArgs.ok { berth := 256, planned := none } = false ∧ DepartureArgs.ok { berth := 1, planned := some 4294967296 } = false ∧
    BerthSetArgs.ok { berth := 256, lengthClass := 0, powerClass := 0, water := true, autoArrival := true, nightlyFee := true } = false ∧
    BerthSetArgs.ok { berth := 1, lengthClass := 256, powerClass := 0, water := true, autoArrival := true, nightlyFee := true } = false ∧
    BerthSetArgs.ok { berth := 1, lengthClass := 0, powerClass := 256, water := true, autoArrival := true, nightlyFee := true } = false ∧
    (Instr.checkOut 1 (.fields 256)).wellFormed = false ∧ (Instr.close 1 (.fields 256)).wellFormed = false ∧
    (Instr.open_ 1 (.fields 256)).wellFormed = false ∧ (Instr.berthQuery 1 (.fields 256)).wellFormed = false ∧
    (Instr.graceSet 1 (.fields 65536)).wellFormed = false := by decide +kernel

theorem test_wf_account_requests :
    AmountArgs.ok { account := 65536, amount := 1 } = false ∧ AmountArgs.ok { account := 1, amount := 16777216 } = false ∧
    LimitsArgs.ok { account := 65536, overdraft := 0, lowThreshold := 0, restartMin := 1 } = false ∧
    LimitsArgs.ok { account := 1, overdraft := 16777216, lowThreshold := 0, restartMin := 1 } = false ∧
    LimitsArgs.ok { account := 1, overdraft := 0, lowThreshold := 16777216, restartMin := 1 } = false ∧
    LimitsArgs.ok { account := 1, overdraft := 0, lowThreshold := 0, restartMin := 16777216 } = false ∧
    (Instr.accountClose 1 (.fields 65536)).wellFormed = false ∧ (Instr.accountQuery 1 (.fields 65536)).wellFormed = false ∧
    (Instr.bar 1 (.fields 65536)).wellFormed = false ∧ (Instr.unbar 1 (.fields 65536)).wellFormed = false ∧
    (Instr.credentialRead 1 (.fields 65536)).wellFormed = false := by decide +kernel

theorem test_wf_gate_and_outlet_requests :
    GateModeArgs.ok { gate := 256, mode := 0 } = false ∧ GateModeArgs.ok { gate := 0, mode := 256 } = false ∧
    (Instr.gateOpen 1 (.fields 256)).wellFormed = false ∧ (Instr.gateQuery 1 (.fields 256)).wellFormed = false ∧
    PontoonSetArgs.ok { pontoon := 256, limit := 0 } = false ∧ PontoonSetArgs.ok { pontoon := 0, limit := 65536 } = false ∧
    PresenceArgs.ok { sel := .all, first := 256 } = false ∧ PresenceArgs.ok { sel := .pontoon 256, first := 0 } = false ∧
    OutletSel.ok (.side 256 1 0) = false ∧ OutletSel.ok (.side 0 256 0) = false ∧ OutletSel.ok (.side 0 1 256) = false ∧
    OutletSel.ok (.berth 256) = false ∧ OutletArgs.ok { sel := .berth 256, service := 0 } = false ∧
    OutletArgs.ok { sel := .berth 1, service := 256 } = false ∧
    EnablesArgs.ok { sel := .berth 256, service := 0, set := 0 } = false ∧
    EnablesArgs.ok { sel := .berth 1, service := 256, set := 0 } = false ∧
    EnablesArgs.ok { sel := .berth 1, service := 0, set := 256 } = false := by decide +kernel

theorem test_wf_rate_and_fuel_requests :
    QuoteArgs.ok { form := .amount 16777216, source := .grade 0 } = false ∧
    QuoteArgs.ok { form := .stop 16777216, source := .grade 0 } = false ∧
    QuoteArgs.ok { form := .stop 1, source := .price 65536 } = false ∧
    QuoteArgs.ok { form := .stop 1, source := .grade 256 } = false ∧
    (Instr.tripDelaySet 1 (.fields 65536)).wellFormed = false ∧ ProtectionArgs.ok { arm := 256, addr := 1, side := 0 } = false ∧
    ProtectionArgs.ok { arm := 0, addr := 256, side := 0 } = false ∧ ProtectionArgs.ok { arm := 0, addr := 1, side := 256 } = false ∧
    FuelAuthArgs.ok { pump := 256, nozzle := 0, limit := 1, account := 0 } = false ∧
    FuelAuthArgs.ok { pump := 0, nozzle := 256, limit := 1, account := 0 } = false ∧
    FuelAuthArgs.ok { pump := 0, nozzle := 0, limit := 16777216, account := 0 } = false ∧
    FuelAuthArgs.ok { pump := 0, nozzle := 0, limit := 1, account := 65536 } = false ∧
    (Instr.fuelAbort 1 (.fields 256)).wellFormed = false ∧ (Instr.saleCollect 1 (.fields 256)).wellFormed = false ∧
    ProtectArgs.ok { pump := 256, flag := true } = false ∧ (Instr.pumpQuery 1 (.fields 256)).wellFormed = false ∧
    TimersArgs.ok { ready := 65536, window := 0 } = false ∧ TimersArgs.ok { ready := 0, window := 65536 } = false := by
  decide +kernel

theorem test_wf_arm_and_relay_requests :
    (Instr.armModeEnable 1 (.fields 256)).wellFormed = false ∧ (Instr.armModeDisable 1 (.fields 256)).wellFormed = false ∧
    (Instr.armModeRestore 1 (.fields 256)).wellFormed = false ∧ (Instr.armQuery 1 (.fields 256)).wellFormed = false ∧
    ArmConfigArgs.ok { arm := 256, period := 0, slot := 0, window := 0, silence := 0, anchor := 0, autoRestore := true } = false ∧
    ArmConfigArgs.ok { arm := 0, period := 65536, slot := 0, window := 0, silence := 0, anchor := 0, autoRestore := true } = false ∧
    ArmConfigArgs.ok { arm := 0, period := 0, slot := 65536, window := 0, silence := 0, anchor := 0, autoRestore := true } = false ∧
    ArmConfigArgs.ok { arm := 0, period := 0, slot := 0, window := 256, silence := 0, anchor := 0, autoRestore := true } = false ∧
    ArmConfigArgs.ok { arm := 0, period := 0, slot := 0, window := 0, silence := 256, anchor := 0, autoRestore := true } = false ∧
    ArmConfigArgs.ok { arm := 0, period := 0, slot := 0, window := 0, silence := 0, anchor := 256, autoRestore := true } = false ∧
    RelayArgs.ok { target := .arms 256 1, sub := 0, payload := .read 1, group := 1, wait := true } = false ∧
    RelayArgs.ok { target := .arms 1 256, sub := 0, payload := .read 1, group := 1, wait := true } = false ∧
    RelayArgs.ok { target := .berth 256, sub := 0, payload := .read 1, group := 1, wait := true } = false ∧
    RelayArgs.ok { target := .berth 1, sub := 65536, payload := .read 1, group := 1, wait := true } = false ∧
    RelayArgs.ok { target := .berth 1, sub := 0, payload := .read 256, group := 1, wait := true } = false ∧
    RelayArgs.ok { target := .berth 1, sub := 0, payload := .write (List.replicate 241 0#8), group := 1, wait := true } = false ∧
    RelayArgs.ok { target := .berth 1, sub := 0, payload := .read 1, group := 256, wait := true } = false ∧
    refusalsOk (List.replicate 241 (0, 1)) = false ∧ refusalsOk [(256, 1)] = false ∧ refusalsOk [(0, 256)] = false := by
  decide +kernel

theorem test_wf_table_and_trunk_requests :
    (Instr.loadOpen 1 (.fields 256)).wellFormed = false ∧ LoadRowArgs.ok { index := 65536, bytes := [] } = false ∧
    LoadRowArgs.ok { index := 0, bytes := List.replicate 241 0#8 } = false ∧
    (Instr.timeSet 1 (.fields 4294967296)).wellFormed = false ∧ (Instr.trunkConfig 1 (.fields 256)).wellFormed = false ∧
    (Instr.loadCommit 0 (.fields 0#16)).wellFormed = false ∧ (Instr.matchTest 0 (.fields 0#40)).wellFormed = false ∧
    (Instr.presenceRemove 0 (.fields 0#40)).wellFormed = false ∧
    (Instr.unknownRequest 1 0x80).wellFormed = false ∧ (Instr.unknownRequest 1 0x10).wellFormed = false ∧
    (Instr.unknownRequest 0 0x7F).wellFormed = false ∧ (Instr.unknownRequest 1 0x7F).wellFormed = true ∧
    (Instr.nonRequestFrame 1 0x7F).wellFormed = false ∧ (Instr.nonRequestFrame 256 0x80).wellFormed = false ∧
    (Instr.nonRequestFrame 0 256).wellFormed = false ∧ (Instr.nonRequestFrame 1 0x80).wellFormed = true := by decide +kernel

/-- STATUS with tag 1, as 11.5 gives a frame: start marker, length 2, tag, kind 0x65, check. -/
def statusFrame : List Byte :=
  [0xC3#8, 0x02#8, 0x01#8, 0x65#8] ++ natBytes 2 (crc [0x02#8, 0x01#8, 0x65#8]).toNat

theorem test_wf_frame_events :
    (Instr.discardedFrame statusFrame).wellFormed = false ∧ (Instr.interByteTimeout statusFrame).wellFormed = false ∧
    (Instr.discardedFrame (statusFrame.take 5)).wellFormed = false ∧ (Instr.interByteTimeout (statusFrame.take 5)).wellFormed = true ∧
    (Instr.discardedFrame [0xC3#8, 1#8]).wellFormed = true ∧ (Instr.interByteTimeout [0x00#8]).wellFormed = false := by
  decide +kernel

theorem test_wf_events :
    (Instr.departureCloseTimeout 0).wellFormed = false ∧ (Instr.departureCloseTimeout 201).wellFormed = false ∧
    (Instr.armRequestSent 6).wellFormed = false ∧ (Instr.exchangeReply 6 []).wellFormed = false ∧
    (Instr.replyWindowExpiry 6).wellFormed = false ∧ (Instr.lateReply 6 []).wellFormed = false ∧
    (Instr.probeDue 6).wellFormed = false ∧ (Instr.prioritySweepDue 6).wellFormed = false ∧
    (Instr.regularSlot 6).wellFormed = false ∧ (Instr.strikeEndExpiry 8).wellFormed = false ∧
    (Instr.holdExpiry 8).wellFormed = false ∧ (Instr.readyTimeout 4).wellFormed = false ∧
    (Instr.linkLossWindow 4).wellFormed = false := by decide +kernel

/-! ### Reading frames: bytes written out from 11.5, 11.6 and R210 -/

/-- A frame of a tag, a kind and a body (11.5). -/
def frameOf (body : List Byte) : List Byte :=
  let counted := natBytes 1 body.length ++ body
  [0xC3#8] ++ counted ++ natBytes 2 (crc counted).toNat

/-- The check of R1 on the nine digits 1 to 9 in ASCII: with this polynomial, all ones first and no inversion it is 0x29B1 (the published
check value of that variant; the manual gives no example). -/
theorem test_crc_nine_digits :
    crc [0x31#8, 0x32#8, 0x33#8, 0x34#8, 0x35#8, 0x36#8, 0x37#8, 0x38#8, 0x39#8] = 0x29B1#16 := by decide +kernel

theorem test_decode_reserve :
    decodeFrame (frameOf [0x07#8, 0x10#8, 0x2F#8, 0x00#8, 0x70#8, 0x01#8, 0x08#8, 0xA9#8, 0x20#8, 0x01#8, 0x00#8, 0x00#8, 0x00#8, 0x00#8,
      0x00#8]) =
      some (.reserve 7 (.fields { berth := 47, account := 112, deadline := 17344800, deadlineEnable := true, planned := none })) := by
  decide +kernel

theorem test_decode_fuel_authorize :
    decodeFrame (frameOf [0x02#8, 0x48#8, 0x01#8, 0x01#8, 0x00#8, 0x0B#8, 0xB8#8, 0x00#8, 0x00#8]) =
      some (.fuelAuthorize 2 (.fields { pump := 1, nozzle := 1, limit := 3000, account := 0 })) := by decide +kernel

theorem test_decode_arm_mode_restore :
    decodeFrame (frameOf [0x03#8, 0x50#8, 0x04#8, 0x02#8]) = some (.armModeRestore 3 (.fields 4)) := by decide +kernel

theorem test_decode_relay_read_of_a_berth :
    decodeFrame (frameOf [0x04#8, 0x58#8, 0x01#8, 0x2F#8, 0x01#8, 0x01#8, 0x00#8, 0x10#8, 0x08#8, 0x00#8]) =
      some (.relay 4 (.fields { target := .berth 47, sub := 256, payload := .read 16, group := 8, wait := false })) := by
  decide +kernel

theorem test_decode_short_body_is_unsuited :
    decodeFrame (frameOf [0x05#8, 0x25#8, 0x01#8]) = some (.accountQuery 5 .unsuited) := by decide +kernel

theorem test_decode_unknown_non_request_and_discarded :
    decodeFrame (frameOf [0x05#8, 0x7F#8]) = some (.unknownRequest 5 0x7F) ∧
    decodeFrame (frameOf [0x00#8, 0x10#8]) = some (.nonRequestFrame 0 0x10) ∧
    decodeFrame (frameOf [0x05#8, 0x90#8]) = some (.nonRequestFrame 5 0x90) ∧
    decodeFrame [0xC3#8, 0x02#8, 0x01#8, 0x65#8, 0x00#8, 0x00#8] =
      some (.discardedFrame [0xC3#8, 0x02#8, 0x01#8, 0x65#8, 0x00#8, 0x00#8]) := by decide +kernel

/-- The table gives no row any bits. -/
theorem test_table_words_spell_nothing : decodeTableWord 8 0 = none ∧ decodeTableWord 32 0xFFFF = none := by decide +kernel

/-! ### The queue and power-on -/

theorem witness_StepTakesTheFrontCommand :
    (dock.withQueue [.scanRow, .clockAdvance]).pending = .scanRow :: [.clockAdvance] ∧ dock.pending = [] := by decide +kernel

/-- The command at the front runs, and the rest waits on. -/
theorem test_step_runs_the_front :
    (match step (dock.withQueue [.graceSet 1 (.fields 5), .scanRow]) with
      | .next t => t.grace == 5 && t.pending == [.scanRow]
      | _ => false) = true := by decide +kernel

/-- R26, R48, R216: POWER_ON makes the reset values, the waiting commands kept. -/
theorem test_power_on :
    let t := after .powerOn (dock.withQueue [.scanRow])
    t.pending = [.scanRow] ∧ t.clock = 0 ∧ (t.berth 47).state = .closed ∧ (t.account 112).standing = .closed ∧
    t.trunk.link = .awaiting ∧ (t.arm 2).state = .disabled ∧ t.grace = 120 ∧ t.creds.state = .empty := by decide +kernel

/-! ### Berths (1.9) -/

/-- RESERVE of a berth for an account, as in 1.9. -/
def reserve (b a : Nat) : Instr :=
  .reserve 1 (.fields { berth := b, account := a, deadline := 17344800, deadlineEnable := true, planned := some 17488800 })

/-- The figures of the reservation in 1.9. -/
theorem test_reserve :
    (after (reserve 12 112) { dock with clock := 17312400 }).berth 12 =
      { Berth.reset with
        state := .reserved, lengthClass := 3, occupant := some 112, arrival := none, feesPending := 0, overstay := false
        overdueSent := false, reservation := some { deadline := 17344800, enabled := true, planned := some 17488800 } } := by
  decide +kernel

theorem witness_ReserveHoldsAFreeBerth :
    dock.Room ∧
    resultOf (reserve 0 112) dock = some .range ∧ resultOf (reserve 201 112) dock = some .range ∧
    resultOf (reserve 12 0) dock = some .range ∧ resultOf (reserve 12 257) dock = some .range ∧
    resultOf (reserve 1 1) dock = some .state ∧ resultOf (reserve 200 256) dock = some .state ∧
    resultOf (reserve 12 256) dock = some .denied ∧ resultOf (reserve 12 57) dock = some .denied ∧
    resultOf (reserve 12 203) dock = some .done := ⟨dock_room, by decide +kernel⟩

/-- CHECK-IN of a berth by an account. -/
def checkIn (b a : Nat) : Instr :=
  .checkIn 1 (.fields { berth := b, account := a, planned := none })

/-- R7, R8: an arrival on an OVERDUE berth keeps the planned departure and is told as late. -/
theorem test_check_in :
    let t := after (checkIn 15 0) (dock.setBerth 15 { heldBerth .overdue with overdueSent := true })
    (t.berth 15).state = .occupied ∧ (t.berth 15).arrival = some 17434860 ∧
    (t.berth 15).reservation = some { deadline := 17344800, enabled := true, planned := some 17488800 } ∧
    told t = [.arrived 15 112 .checkIn none true] := by decide +kernel

theorem witness_CheckInRecordsTheVessel :
    dock.Room ∧
    resultOf (checkIn 0 112) dock = some .range ∧ resultOf (checkIn 201 112) dock = some .range ∧
    resultOf (checkIn 12 257) dock = some .range ∧ resultOf (checkIn 12 0) dock = some .range ∧
    resultOf (checkIn 12 256) dock = some .denied ∧ resultOf (checkIn 12 57) dock = some .denied ∧
    resultOf (checkIn 12 112) dock = some .done ∧ resultOf (checkIn 14 203) dock = some .range ∧
    resultOf (checkIn 14 112) dock = some .done ∧ resultOf (checkIn 15 0) dock = some .done ∧
    resultOf (checkIn 47 112) dock = some .state ∧ resultOf (checkIn 200 1) dock = some .state := ⟨dock_room, by decide +kernel⟩

/-- DEPARTURE-SET clears the overstay flag (R11). -/
theorem test_departure_set :
    let t := after (.departureSet 1 (.fields { berth := 47, planned := some 17500000 }))
      (dock.setBerth 47 { heldBerth .occupied with overstay := true })
    (t.berth 47).overstay = false ∧
    (t.berth 47).reservation = some { deadline := 17344800, enabled := true, planned := some 17500000 } := by decide +kernel

/-- BERTH-SET of a berth with a length class and a power class. -/
def berthSet (b l p : Nat) (w : Bool) : Instr :=
  .berthSet 1 (.fields { berth := b, lengthClass := l, powerClass := p, water := w, autoArrival := true, nightlyFee := false })

/-- BERTH-SET on a CLOSED berth; the length class of a held one may change (R16). -/
theorem test_berth_set :
    (after (berthSet 200 5 4 true) dock).berth 200 =
      { Berth.reset with lengthClass := 5, powerClass := .a125, water := true, autoArrival := true, nightlyFee := false } ∧
    ((after (berthSet 47 5 2 true) dock).berth 47).lengthClass = 5 := by decide +kernel

theorem test_close : ((after (.close 1 (.fields 12)) dock).berth 12).state = .closed := by decide +kernel

theorem test_open : ((after (.open_ 1 (.fields 13)) dock).berth 13).state = .free := by decide +kernel

theorem witness_BerthFieldsAreReplacedByRequest :
    dock.Room ∧
    (resultOf (.departureSet 1 (.fields { berth := 0, planned := none })) dock = some .range ∧
      resultOf (.departureSet 1 (.fields { berth := 201, planned := none })) dock = some .range ∧
      resultOf (.departureSet 1 (.fields { berth := 16, planned := none })) dock = some .state ∧
      resultOf (.departureSet 1 (.fields { berth := 14, planned := none })) dock = some .done) ∧
    (powerClassOf 0 = some .none ∧ powerClassOf 4 = some .a125 ∧ resultOf (berthSet 0 0 0 false) dock = some .range ∧
      resultOf (berthSet 200 6 4 false) dock = some .range ∧ resultOf (berthSet 200 5 4 false) dock = some .done ∧
      resultOf (berthSet 16 3 3 true) dock = some .denied ∧ resultOf (berthSet 16 3 2 false) dock = some .denied) ∧
    (powerClassOf 5 = none ∧ resultOf (berthSet 200 5 5 false) dock = some .range) ∧
    (resultOf (.close 1 (.fields 0)) dock = some .range ∧ resultOf (.close 1 (.fields 201)) dock = some .range ∧
      resultOf (.close 1 (.fields 200)) dock = some .state) ∧
    resultOf (.open_ 1 (.fields 0)) dock = some .range ∧ resultOf (.open_ 1 (.fields 201)) dock = some .range ∧
    resultOf (.open_ 1 (.fields 12)) dock = some .state ∧ resultOf (.open_ 1 (.fields 200)) dock = some .done ∧
    ((dock.berth 200).state = .closed ∧ 200 ≤ 200 ∧ 1 ≤ 256 ∧ 0 ≤ 256) ∧
    (let row : CredRow := { enabled := true, code := 0#40, mask := 0#40, kind := .crew, berth := some 200, window := none
                            pontoons := 1, antiPassback := false }
     row.kind = .crew ∧ row.berth = some 200 ∧ row.window = none ∧ row.pontoons.testBit 0 = true) :=
  ⟨dock_room, by decide +kernel⟩

/-- The check-out of 1.9: the fee of two pending nights goes to the account, both LIVE points go to CLOSING, the reply is ACCEPTED. -/
theorem test_check_out :
    let s := (dockWith (drawing .live) { drawing .live with baseline := none }).setBerth 47
      { heldBerth .occupied with feesPending := 2, arrival := some 17349150 }
    let t := after (.checkOut 1 (.fields 47)) { s with clock := 17492700 }
    (t.berth 47).state = .departing ∧ (t.berth 47).checkOut = some 17492700 ∧ (t.berth 47).feesPending = 0 ∧
    (t.account 112).balance = 50000 - 9000 ∧ (t.point? power47).map (·.state) = some .closing ∧
    (t.point? water47).map (fun x => x.session.map (·.closeReason)) = some (some (some .checkout)) ∧
    sentResult t = some .accepted := by decide +kernel

/-- A check-out with nothing left to close departs at once (R13), and one of a RESERVED berth cancels it. -/
theorem test_check_out_at_once :
    let t := after (.checkOut 1 (.fields 131)) dock
    (t.berth 131).state = .free ∧ (t.berth 131).occupant = none ∧ sentResult t = some .done ∧
    told t = [.departed 131 203 0 17434860 0 false] ∧
    ((after (.checkOut 1 (.fields 14)) dock).berth 14).state = .free := by decide +kernel

theorem witness_CheckOutEndsAReservationOrAStay :
    dock.Room ∧
    resultOf (.checkOut 1 (.fields 0)) dock = some .range ∧ resultOf (.checkOut 1 (.fields 201)) dock = some .range ∧
    resultOf (.checkOut 1 (.fields 1)) dock = some .state ∧ resultOf (.checkOut 1 (.fields 16)) dock = some .state ∧
    resultOf (.checkOut 1 (.fields 15)) dock = some .done ∧ resultOf (.checkOut 1 (.fields 47)) dock = some .accepted ∧
    (power47 ∈ dock.berthPoints 47 ∧ dock.point? power47 = some (drawing .live) ∧ (drawing .live).session = some session ∧
      (drawing .live).state = .live) ∧
    (water47.side ≤ 1 ∧ dock.point? water47 = some offPoint ∧ offPoint.state = .off) ∧
    ({ power47 with side := 1 } ∉ dock.berthPoints 47 ∧ dock.point? { power47 with side := 1 } = some Point.created) :=
  ⟨dock_room, by decide +kernel⟩

/-- A visit to a berth at a time. -/
def visited (n time : Nat) (b : Berth) : State :=
  after .scannerVisit { dock.setBerth n b with scanPtr := n, clock := time }

/-- The deadline and the lapse of 1.9, each at its first second. -/
theorem test_scanner_deadline_and_lapse :
    ((visited 200 17344799 (heldBerth .reserved)).berth 200).state = .reserved ∧
    ((visited 200 17344800 (heldBerth .reserved)).berth 200).state = .overdue ∧
    told (visited 200 17344800 (heldBerth .reserved)) = [.overdue 200 112 17344800] ∧
    (visited 200 17344800 (heldBerth .reserved)).scanPtr = 1 ∧
    ((visited 1 17351999 (heldBerth .overdue)).berth 1).state = .overdue ∧
    ((visited 1 17352000 (heldBerth .overdue)).berth 1).state = .free ∧
    told (visited 1 17352000 (heldBerth .overdue)) = [.lapsed 1 112 17344800] := by decide +kernel

/-- The overstay and the night fee of 1.9. -/
theorem test_scanner_overstay_and_fee :
    told (visited 47 17488804 (heldBerth .occupied)) = [.overstay 47 112 17488800] ∧
    told (visited 47 17488799 (heldBerth .occupied)) = [] ∧
    ((visited 47 17366405 { heldBerth .occupied with feesPending := 1 }).account 112).balance = 50000 - 4500 ∧
    ((visited 47 17366405 { heldBerth .occupied with feesPending := 1 }).berth 47).feesPending = 0 := by decide +kernel

theorem witness_ScannerVisitActsOnOneBerth :
    (1 ≤ dock.scanPtr ∧ dock.scanPtr ≤ 200) ∧ (dock.berth dock.scanPtr).state = .closed ∧
    (1 ≤ { dock with scanPtr := 200 }.scanPtr ∧ { dock with scanPtr := 200 }.scanPtr ≤ 200) ∧
    (dock.berth 12).state = .free ∧ (dock.berth 16).state = .departing ∧
    ((dock.berth 14).state = .reserved ∧
      (dock.berth 14).reservation = some { deadline := 17344800, enabled := true, planned := some 17488800 }) ∧
    ((dock.berth 15).state = .overdue ∧ (dock.berth 15).reservation.isSome = true) ∧
    ((dock.berth 47).state = .occupied ∧ (dock.berth 47).reservation.isSome = true) := by decide +kernel

/-- R14 at its first second: both points closed with UNCONFIRMED, forced count 2, as in the silent departure of 1.9. -/
theorem test_departure_close_timeout :
    let s := (dockWith (drawing .closing) (drawing .closing)).setBerth 47
      { heldBerth .departing with checkOut := some 17492700, arrival := some 17349150 }
    let t := after (.departureCloseTimeout 47) { s with clock := 17492760 }
    (t.berth 47).state = .free ∧ (t.point? power47).map (·.state) = some .off ∧
    (told t).getLast? = some (.departed 47 112 17349150 17492700 2 false) ∧
    ((after (.departureCloseTimeout 47) { s with clock := 17492759 }).berth 47).state = .departing := by decide +kernel

/-! ### Queries and settings -/

theorem test_berth_query :
    bodyOf (.berthQuery 1 (.fields 47)) dock =
      some (.berth 47 (heldBerth .occupied) (some { arm := 2, addr := 9, side := 0 })) := by decide +kernel

/-- R29, R45: A is the balance with the overdraft less the holds; absent in CLOSED. -/
theorem test_account_query :
    bodyOf (.accountQuery 1 (.fields 203)) dock = some (.account (dock.account 203) (some (-40))) ∧
    bodyOf (.accountQuery 1 (.fields 1)) dock = some (.account Account.reset none) := by decide +kernel

theorem test_gate_query :
    bodyOf (.gateQuery 1 (.fields 3)) dock = some (.gate 3 gate3 true (some (.on, 0))) := by decide +kernel

/-- Two people on pontoon 2 and one on pontoon 1. -/
def crowded : State :=
  { dock with presence := [
      { card := 0x004A217C93#40, pontoon := 2, entry := 17350100 }, { card := 0x7E00000001#40, pontoon := 1, entry := 17350150 },
      { card := 0x004A217C94#40, pontoon := 2, entry := 17350200 }] }

theorem test_presence_query :
    bodyOf (.presenceQuery 1 (.fields { sel := .pontoon 2, first := 1 })) crowded =
      some (.presence [(2, 2, .on)] 2 [{ card := 0x004A217C94#40, pontoon := 2, entry := 17350200 }]) := by decide +kernel

theorem test_pump_query : bodyOf (.pumpQuery 1 (.fields 1)) dock = some (.pump 1 (pumpIn .idle none [])) := by decide +kernel

theorem test_arm_query :
    (match bodyOf (.armQuery 1 (.fields 2)) dock with
      | some (.arm st n _ _ _ _ _ _ anchor _ _ _ _ l) => st == .active && n == 0 && anchor == some 1 && l.length == 30
      | _ => false) = true := by decide +kernel

/-- The warn level of 7.7: floor(320 × 9 / 10) = 288. -/
theorem test_protection_query :
    bodyOf (.protectionQuery 1 (.fields { arm := 2, addr := 9, side := 0 })) dock =
      some (.protection 48 2 4000 2 4 320 288 Detector.cleared 60 none) := by decide +kernel

theorem witness_RecordQueriesChangeNothing :
    dock.Room ∧
    (resultOf (.berthQuery 1 (.fields 0)) dock = some .range ∧ resultOf (.berthQuery 1 (.fields 1)) dock = some .done ∧
      resultOf (.berthQuery 1 (.fields 200)) dock = some .done ∧ resultOf (.berthQuery 1 (.fields 201)) dock = some .range) ∧
    (resultOf (.accountQuery 1 (.fields 0)) dock = some .range ∧ resultOf (.accountQuery 1 (.fields 256)) dock = some .done ∧
      resultOf (.accountQuery 1 (.fields 257)) dock = some .range) ∧
    (resultOf (.gateQuery 1 (.fields 7)) dock = some .done ∧ resultOf (.gateQuery 1 (.fields 8)) dock = some .range) ∧
    (resultOf (.presenceQuery 1 (.fields { sel := .pontoon 5, first := 255 })) dock = some .done ∧
      resultOf (.presenceQuery 1 (.fields { sel := .pontoon 6, first := 0 })) dock = some .range) ∧
    (resultOf (.pumpQuery 1 (.fields 3)) dock = some .done ∧ resultOf (.pumpQuery 1 (.fields 4)) dock = some .range) ∧
    (resultOf (.armQuery 1 (.fields 5)) dock = some .done ∧ resultOf (.armQuery 1 (.fields 6)) dock = some .range) ∧
    resultOf (.protectionQuery 1 (.fields { arm := 5, addr := 30, side := 1 })) dock = some .state ∧
    resultOf (.protectionQuery 1 (.fields { arm := 6, addr := 30, side := 1 })) dock = some .range ∧
    resultOf (.protectionQuery 1 (.fields { arm := 2, addr := 0, side := 1 })) dock = some .range ∧
    resultOf (.protectionQuery 1 (.fields { arm := 2, addr := 9, side := 2 })) dock = some .range := ⟨dock_room, by decide +kernel⟩

theorem test_credential_read :
    bodyOf (.credentialRead 1 (.fields 5)) dock = some (.credential .valid {
      enabled := true, code := 0x004A217C94#40, mask := 0xFFFFFFFFFF#40, kind := .guest, berth := some 47
      window := some (17350000, 17539200), pontoons := 4, antiPassback := false }) := by decide +kernel

/-- The row number and the verdict of a MATCH-TEST at a time. -/
def matched (c : Card) (time : Nat) : Option (Nat × Verdict) :=
  match bodyOf (.matchTest 1 (.fields c)) { dock with clock := time } with
  | some (.matched .valid (.hit r _) v) => some (r, v)
  | _ => none

/-- The cards of 3.9: the lowest covering row, a disabled row, a shadowed row, and the window's verdicts. -/
theorem test_match_test :
    matched 0x004A217C93#40 17349150 = some (0, .none) ∧ matched 0x004A217C94#40 17349150 = some (5, .before) ∧
    matched 0x004A217C94#40 17350000 = some (5, .within) ∧ matched 0x004A217C94#40 17539200 = some (5, .after) ∧
    matched 0x7E135502A0#40 17349150 = some (20, .none) ∧
    bodyOf (.matchTest 1 (.fields 0x004A217C93#40)) (dock.setCreds { dock.creds with state := .fault }) =
      some (.matched .fault .table .none) ∧
    bodyOf (.matchTest 1 (.fields 0#40)) State.reset = some (.matched .empty .table .none) := by decide +kernel

/-- A table whose rows are all clear matches no card (R52, R63). -/
theorem clear_table_matches_nothing {s : State} (e : s.creds.rows = CredTable.reset.rows) (c : Card) : s.matchRow c = none := by
  have h (r : Nat) : (s.credRow r).enabled = false := by
    rw [State.credRow, e]
    simp [CredTable.reset, tabGet, Vector.getElem?_replicate]
    split <;> decide
  simp [State.matchRow, CredRow.covers, h]

/-- `dock` with a VALID credential table whose rows are all clear. -/
def dockNoCreds : State :=
  { dock with creds := { CredTable.reset with state := .valid } }

theorem witness_MatchIsTheLowestCoveringRow :
    (dock.matchRow 0x7E135502A0#40).map Prod.fst = some 20 ∧ State.reset.matchRow 0x004A217C95#40 = none :=
  ⟨by decide +kernel, clear_table_matches_nothing rfl _⟩

theorem test_rate_query :
    bodyOf (.rateQuery 1 (.fields ())) dock = some (.rates .valid (some 0x4321#16) rateRows) ∧
    resultOf (.rateQuery 1 (.fields ())) State.reset = some .state := by decide +kernel

/-- The rows of 6.11 and 6.12. -/
theorem test_charge_quote :
    bodyOf (.chargeQuote 1 (.fields { form := .amount 4237, source := .grade 0 })) dock = some (.quoteAmount 1899 8046 4237) ∧
    bodyOf (.chargeQuote 1 (.fields { form := .stop 10000, source := .price 1899 })) dock =
      some (.quoteStop 1899 5266 10000 false) ∧
    bodyOf (.chargeQuote 1 (.fields { form := .stop 999999, source := .price 500 })) dock =
      some (.quoteStop 500 999999 500000 true) ∧
    bodyOf (.chargeQuote 1 (.fields { form := .stop 1, source := .price 1500 })) dock = some (.quoteStop 1500 0 0 false) ∧
    digitBytes 8046 = [0x00#8, 0x80#8, 0x46#8] := by decide +kernel

theorem test_relay_query :
    bodyOf (.relayQuery 1 (.fields ())) { dock with refusals := [(5, 30)] } =
      some (.relays [(5, 30)] [none, none, none, none, none, none]) := by decide +kernel

theorem test_outlet_query :
    (match bodyOf (.outletQuery 1 (.fields { sel := .berth 47, service := 2 })) dock with
      | some (.outlets [a, b] m) => a.point == power47 && a.record.state == .live && b.point == water47 && b.record.state == .off &&
          m.isNone
      | _ => false) = true := by decide +kernel

/-- The CONTROL mark of R106 with side 0 POWER ON and the other three OFF: R91 lists ON before OFF, R106 SAFETY before CONTROL. -/
theorem test_post_mark_bytes :
    ({ power0 := true, water0 := false, power1 := false, water1 := false, safety := false, setAgain := true } : PostMark).bytes =
      [0#8, 1#8, 1#8, 1#8, 1#8] := by decide +kernel

/-- STATUS as in 11.11: the link is CONNECTED before the request is taken. -/
theorem test_status :
    (match bodyOf (.status 1 (.fields ())) { dock with trunk := { dock.trunk with link := .autonomous } } with
      | some (.status link silence clock creds rates load _ r u d x n arms) =>
        link == .connected && silence == 30 && clock == 17434860 && creds == .valid && rates == .valid && load.isNone && r == 0 &&
          u == 0 && d == 0 && x == 0 && n == 0 && arms.getLast? == some (.active, 0)
      | _ => false) = true := by decide +kernel

theorem witness_TableQueriesChangeNothing :
    dock.Room ∧
    (resultOf (.credentialRead 1 (.fields 511)) dock = some .done ∧ resultOf (.credentialRead 1 (.fields 512)) dock = some .range) ∧
    (quoteInRange { form := .amount 999999, source := .price 1 } = true ∧
      quoteInRange { form := .stop 999999, source := .price 65535 } = true) ∧
    (quoteInRange { form := .amount 0, source := .grade 3 } = true ∧ quoteInRange { form := .stop 1, source := .grade 0 } = true) ∧
    (quoteInRange { form := .amount 1000000, source := .price 1 } = false ∧
      quoteInRange { form := .stop 0, source := .price 1 } = false ∧ quoteInRange { form := .stop 1, source := .price 0 } = false ∧
      quoteInRange { form := .stop 1, source := .grade 4 } = false) ∧
    (servicesOf 0 = some [.power] ∧ servicesOf 2 = some [.power, .water] ∧ servicesOf 3 = none ∧
      selInRange (.berth 200) = true ∧ selInRange (.berth 201) = false ∧ selInRange (.side 5 30 1) = true ∧
      selInRange (.side 6 30 1) = false ∧ selInRange (.side 5 31 1) = false ∧ selInRange (.side 5 30 2) = false) ∧
    dock.selected (.berth 47) = some { arm := 2, addr := 9, side := 0 } ∧ dock.selected (.berth 200) = none ∧
    dock.selected (.side 2 1 0) = none := ⟨dock_room, by decide +kernel⟩

theorem test_grace_set : (after (.graceSet 1 (.fields 720)) dock).grace = 720 := by decide +kernel

theorem test_trip_delay_set : (after (.tripDelaySet 1 (.fields 600)) dock).tripDelay = 600 := by decide +kernel

theorem test_trunk_config : (after (.trunkConfig 1 (.fields 5)) dock).trunk.silenceTime = 5 := by decide +kernel

theorem test_pontoon_set :
    (after (.pontoonSet 1 (.fields { pontoon := 2, limit := 256 })) crowded).pontoon 2 = { limit := 256, tracking := .on } ∧
    bodyOf (.pontoonSet 1 (.fields { pontoon := 2, limit := 1 })) crowded = some (.count 2) := by decide +kernel

theorem test_relay_refuse_set :
    (after (.relayRefuseSet 1 (.fields [(5, 30), (0, 1)])) dock).refusals = [(5, 30), (0, 1)] := by decide +kernel

/-- ARM-CONFIG of arm 4, ISOLATED in the marina. -/
def armConfig (arm period slot window silence anchor : Nat) : Instr :=
  .armConfig 1 (.fields { arm := arm, period := period, slot := slot, window := window, silence := silence, anchor := anchor
                          autoRestore := false })

/-- R185: a new setting, and the probe count of an ISOLATED arm set to 0. -/
theorem test_arm_config :
    let t := after (armConfig 4 1000 1000 40 15 0) (dock.setArm 4 { dock.arm 4 with probes := 7 })
    (t.arm 4).period = 1000 ∧ (t.arm 4).silence = 15 ∧ (t.arm 4).autoRestore = false ∧ (t.arm 4).probes = 0 := by decide +kernel

theorem witness_SettingsAreStoredWithinTheirRanges :
    dock.Room ∧
    resultOf (.graceSet 1 (.fields 721)) dock = some .range ∧
    (resultOf (.tripDelaySet 1 (.fields 9)) dock = some .range ∧ resultOf (.tripDelaySet 1 (.fields 10)) dock = some .done ∧
      resultOf (.tripDelaySet 1 (.fields 601)) dock = some .range) ∧
    (resultOf (.trunkConfig 1 (.fields 4)) dock = some .range ∧ resultOf (.trunkConfig 1 (.fields 255)) dock = some .done ∧
      resultOf (.trunkConfig 1 (.fields 256)) dock = some .range) ∧
    (resultOf (.pontoonSet 1 (.fields { pontoon := 6, limit := 0 })) dock = some .range ∧
      resultOf (.pontoonSet 1 (.fields { pontoon := 5, limit := 257 })) dock = some .range ∧
      resultOf (.pontoonSet 1 (.fields { pontoon := 2, limit := 1 })) crowded = some .state ∧
      resultOf (.pontoonSet 1 (.fields { pontoon := 2, limit := 2 })) crowded = some .done) ∧
    (resultOf (.relayRefuseSet 1 (.fields (List.replicate 8 (5, 30)))) dock = some .done ∧
      resultOf (.relayRefuseSet 1 (.fields (List.replicate 9 (0, 1)))) dock = some .range ∧
      resultOf (.relayRefuseSet 1 (.fields [(6, 1)])) dock = some .range ∧
      resultOf (.relayRefuseSet 1 (.fields [(0, 0)])) dock = some .range ∧
      resultOf (.relayRefuseSet 1 (.fields [(0, 31)])) dock = some .range) ∧
    resultOf (armConfig 6 100 50 4 1 0) dock = some .range ∧ resultOf (armConfig 5 100 50 4 1 3) dock = some .done ∧
    resultOf (armConfig 5 99 50 4 1 0) dock = some .range ∧ resultOf (armConfig 5 100 49 4 1 0) dock = some .range ∧
    resultOf (armConfig 5 100 50 3 1 0) dock = some .range ∧ resultOf (armConfig 5 100 50 41 1 0) dock = some .range ∧
    resultOf (armConfig 5 100 50 4 0 0) dock = some .range ∧ resultOf (armConfig 5 100 50 4 16 0) dock = some .range ∧
    resultOf (armConfig 5 100 50 4 1 4) dock = some .range ∧ resultOf (armConfig 5 100 50 4 1 31) dock = some .range ∧
    resultOf (armConfig 5 1001 50 4 1 0) dock = some .range := ⟨dock_room, by decide +kernel⟩

/-! ### Accounts (2.7) -/

/-- ACCOUNT-OPEN, ACCOUNT-SET of 203 with the limits of 2.7. -/
def limits203 : LimitsArgs :=
  { account := 203, overdraft := 5000, lowThreshold := 10000, restartMin := 15000 }

theorem test_account_open :
    let t := after (.accountOpen 1 (.fields limits203)) (dock.setAccount 203 Account.reset)
    t.account 203 = accountOf .low (some .low) 0 5000 [] ∧ told t = [] ∧ sentBody t = some (.standing .low) := by decide +kernel

/-- The funding and the topping up of 2.7. -/
theorem test_credit :
    bodyOf (.credit 1 (.fields { account := 203, amount := 30000 })) (dock.setAccount 203 (accountOf .low (some .low) 0 5000 [])) =
      some (.credited 30000 35000 .good) ∧
    bodyOf (.credit 1 (.fields { account := 203, amount := 5000 }))
      (dock.setAccount 203 (accountOf .exhausted (some .exhausted) 6914 5000 [])) = some (.credited 11914 16914 .good) ∧
    bodyOf (.credit 1 (.fields { account := 203, amount := 3000 }))
      (dock.setAccount 203 (accountOf .exhausted (some .exhausted) 6914 5000 [])) = some (.credited 9914 14914 .exhausted) := by
  decide +kernel

/-- The floor of 2.7: balance −9,999,999, the excess 301 uncollected. -/
theorem test_account_debit :
    bodyOf (.accountDebit 1 (.fields { account := 88, amount := 800 })) dock = some (.debited (-9999999) 301 .exhausted) := by
  decide +kernel

/-- The debit of 2.7 that takes A to 0: EXHAUSTED, told, and the LIVE outlet suspended. -/
theorem test_account_debit_exhausts :
    let s := (dock.setAccount 112 (accountOf .low (some .low) 16200 5000 [{ id := 0, pump := 1, amount := 20000 }]))
    let t := after (.accountDebit 1 (.fields { account := 112, amount := 1200 })) s
    told t = [.exhausted 112 0 15000 1] ∧ (t.point? power47).map (·.state) = some .suspended ∧
    (t.account 112).standing = .exhausted := by decide +kernel

theorem witness_AccountDebitIsForcedDownToTheFloor :
    dock.Room ∧
    resultOf (.accountDebit 1 (.fields { account := 0, amount := 1 })) dock = some .range ∧
    resultOf (.accountDebit 1 (.fields { account := 257, amount := 1 })) dock = some .range ∧
    resultOf (.accountDebit 1 (.fields { account := 88, amount := 0 })) dock = some .range ∧
    resultOf (.accountDebit 1 (.fields { account := 88, amount := 1000000 })) dock = some .range ∧
    resultOf (.accountDebit 1 (.fields { account := 256, amount := 1 })) dock = some .state ∧
    bodyOf (.accountDebit 1 (.fields { account := 88, amount := 499 })) dock = some (.debited (-9999999) 0 .exhausted) ∧
    bodyOf (.accountDebit 1 (.fields { account := 88, amount := 500 })) dock = some (.debited (-9999999) 1 .exhausted) :=
  ⟨dock_room, by decide +kernel⟩

theorem test_account_set :
    let t := after (.accountSet 1 (.fields { limits203 with account := 112, overdraft := 0, lowThreshold := 60000 })) dock
    (t.account 112).lowThreshold = 60000 ∧ (t.account 112).standing = .low ∧ told t = [.low 112 50000 60000] := by decide +kernel

theorem test_account_close :
    let t := after (.accountClose 1 (.fields 57)) dock
    t.account 57 = Account.reset ∧ sentBody t = some (.closedAccount 700 0) ∧
    resultOf (.accountClose 1 (.fields 112)) dock = some .state := by decide +kernel

theorem witness_AccountsAreFundedOpenedSetAndClosed :
    dock.Room ∧
    (resultOf (.credit 1 (.fields { account := 112, amount := 999999 })) dock = some .done ∧
      resultOf (.credit 1 (.fields { account := 112, amount := 0 })) dock = some .range ∧
      resultOf (.credit 1 (.fields { account := 256, amount := 1 })) dock = some .state ∧
      resultOf (.credit 1 (.fields { account := 112, amount := 1 }))
        (dock.setAccount 112 (accountOf .good (some .good) 9999999 0 [])) = some .range ∧
      resultOf (.credit 1 (.fields { account := 112, amount := 1 }))
        (dock.setAccount 112 (accountOf .good (some .good) 9999998 0 [])) = some .done) ∧
    (resultOf (.accountOpen 1 (.fields { limits203 with account := 256, overdraft := 999999 })) dock = some .done ∧
      resultOf (.accountOpen 1 (.fields { limits203 with account := 256, overdraft := 1000000 })) dock = some .range ∧
      resultOf (.accountOpen 1 (.fields { limits203 with account := 256, restartMin := 0 })) dock = some .range ∧
      resultOf (.accountOpen 1 (.fields { limits203 with account := 257 })) dock = some .range ∧
      resultOf (.accountOpen 1 (.fields limits203)) dock = some .state) ∧
    (resultOf (.accountSet 1 (.fields { limits203 with lowThreshold := 999999 })) dock = some .done ∧
      resultOf (.accountSet 1 (.fields { limits203 with lowThreshold := 1000000 })) dock = some .range ∧
      resultOf (.accountSet 1 (.fields { limits203 with account := 1 })) dock = some .state) ∧
    resultOf (.accountClose 1 (.fields 0)) dock = some .range ∧ resultOf (.accountClose 1 (.fields 256)) dock = some .state ∧
    resultOf (.accountClose 1 (.fields 203)) dock = some .state ∧ resultOf (.accountClose 1 (.fields 88)) dock = some .done :=
  ⟨dock_room, by decide +kernel⟩

/-- BAR (R46): BARRED, the sessions suspended, told; the funds standing stays. -/
theorem test_bar :
    let t := after (.bar 1 (.fields 112)) dock
    (t.account 112).standing = .barred ∧ (t.account 112).funds = some .good ∧ told t = [.barred 112 50000] ∧
    (t.point? power47).map (fun x => x.session.map (·.suspension)) = some (some (some .barred)) := by decide +kernel

theorem test_unbar :
    let t := after (.unbar 1 (.fields 57)) dock
    (t.account 57).standing = .low ∧ told t = [.restored 57 .low 700] := by decide +kernel

theorem witness_BarAndUnbarMoveTheStanding :
    dock.Room ∧
    (resultOf (.bar 1 (.fields 0)) dock = some .range ∧ resultOf (.bar 1 (.fields 256)) dock = some .state ∧
      resultOf (.bar 1 (.fields 257)) dock = some .range ∧ resultOf (.bar 1 (.fields 57)) dock = some .state) ∧
    ((dock.account 57).standing = .barred ∧ (dock.account 57).funds = some .low) ∧
    (¬ (1 ≤ 0 ∧ 0 ≤ 256) ∧ ¬ (1 ≤ 257 ∧ 257 ≤ 256)) ∧ (dock.account 256).standing ≠ .barred ∧
    (dock.account 1).standing ≠ .barred := ⟨dock_room, by decide +kernel⟩

/-- The marina with account 256 as given. -/
def account256 (a : Account) : State :=
  dock.setAccount 256 a

/-- The standing of account 256 before and after its recomputation. -/
def moves256 (a : Account) : Standing × Standing :=
  (((account256 a).account 256).standing, ((account256 a).account 256).recomputed.standing)

theorem witness_FundsStandingFollowsTheTable :
    (dock.account 112).funds = some .good ∧ (dock.account 203).funds = some .exhausted ∧
    ((accountOf .low (some .low) 5000 5000 []).recomputed).funds = some .good ∧
    ((accountOf .low (some .low) 4999 5000 []).recomputed).funds = some .low ∧
    ((accountOf .low (some .low) (-4999) 5000 []).recomputed).funds = some .low ∧
    ((accountOf .low (some .low) (-5000) 5000 []).recomputed).funds = some .exhausted ∧
    ((accountOf .exhausted (some .exhausted) 9999 5000 []).recomputed).funds = some .exhausted ∧
    ((accountOf .exhausted (some .exhausted) 10000 5000 []).recomputed).funds = some .good ∧
    (1 ≤ 256 ∧ 256 ≤ 256 ∧ moves256 (accountOf .good (some .good) 10000 0 []) = (.good, .good) ∧
      moves256 (accountOf .good (some .good) 9999 0 []) = (.good, .low) ∧
      moves256 (accountOf .good (some .good) 0 0 []) = (.good, .exhausted) ∧
      moves256 (accountOf .low (some .low) 0 0 []) = (.low, .exhausted) ∧
      moves256 (accountOf .low (some .low) 10000 0 []) = (.low, .good) ∧
      moves256 (accountOf .exhausted (some .exhausted) 15000 0 []) = (.exhausted, .good) ∧
      moves256 { accountOf .exhausted (some .exhausted) 9999 0 [] with restartMin := 9999 } = (.exhausted, .low)) ∧
    (let s := dockWith { drawing .suspended with session := some { session with suspension := some .credit } } offPoint
     s.point? power47 = some { drawing .suspended with session := some { session with suspension := some .credit } } ∧
     power47.side ≤ 1 ∧ s.pointBerth power47 = some 47 ∧ (s.berth 47).state = .occupied ∧ (s.account 112).standing = .good ∧
     session.account = 112 ∧ offPoint.enables.credit = true ∧ s.point? water47 = some offPoint ∧ offPoint.session = none) := by
  decide +kernel

/-- The hold of 2.7 on account 203, and its account as the law of accounts wants it. -/
theorem witness_HoldsMoveTheAvailableAmount :
    (accountOf .good (some .good) 18000 5000 []).holdRefusal 20000 500 = none ∧
    (accountOf .good (some .good) 18000 5000 []).holdRefusal 500 500 = none ∧
    (accountOf .good (some .good) 0 499 []).holdRefusal 20000 500 = some .insufficient ∧
    AccountOk (dock.account 203) ∧ ({ id := 0, pump := 1, amount := 20000 } : Hold) ∈ (dock.account 203).holds ∧
    -9999999 ≤ (dock.account 203).balance - 10014959 := by unfold AccountOk; decide +kernel

/-- The hold and the settlement of 2.7. -/
theorem test_hold_and_settle :
    let s := dock.setAccount 203 (accountOf .good (some .good) 18000 5000 [])
    let t := (s.hold 203 1 20000 500).fst
    (t.account 203).standing = .low ∧ (t.account 203).available = 3000 ∧ told t = [.low 203 3000 10000] ∧
    ((dock.settle 203 0 8046).account 203).balance = 6914 ∧ ((dock.settle 203 0 8046).account 203).standing = .exhausted := by
  decide +kernel

/-- R35, R38, R39: a hold id that is not on the list, and an account that is CLOSED. -/
theorem test_account_mismatch :
    told (dock.settle 203 3 100) = [.accountMismatch 203 .settle (some 100) (some 3) none] ∧
    ((dock.settle 203 3 100).account 203).balance = 14860 ∧ (dock.release 203 3).accounts = dock.accounts ∧
    told (dock.debit 1 5 .meter) = [.accountMismatch 1 .debit (some 5) none (some .meter)] := by decide +kernel

theorem witness_SuspensionOrderTakesEveryPointOut :
    dock.point? power47 = some (drawing .live) ∧ power47.side ≤ 1 ∧ (drawing .live).session = some session ∧ session.account = 112 ∧
    session.account ≠ 203 ∧ (drawing .live).state = .live ∧ dock.point? water47 = some offPoint ∧
    (offPoint.state ≠ .starting ∧ offPoint.state ≠ .live) := by decide +kernel

/-! ### Gates and presence (4.9) -/

/-- The marina with gate 3 as given. -/
def dockGate (x : Gate) : State :=
  dock.setGate 3 x

/-- A gate RELEASED at 17,434,860. -/
def released (doorOpen : Bool) (e : GateExpiry) (strikeEnd : Nat) : Gate :=
  { gate3 with monitor := .released, strikeEnd := some strikeEnd, doorOpen := doorOpen, passageSeen := doorOpen, expiry := e }

/-- To FREE: HOLD-RELEASE (taken up at once by the arbiter), monitor IDLE, tracking SUSPENDED. And back to NORMAL. -/
theorem test_gate_mode :
    let t := after (.gateMode 1 (.fields { gate := 3, mode := 2 })) (dockGate (released false .strikePending 17434865))
    (t.gate 3).mark.map (·.cmd) = some .holdRelease ∧ (t.gate 3).monitor = .idle ∧ (t.pontoon 2).tracking = .suspended ∧
    told t = [.tracking 2 .suspended 0] ∧
    (let u := after (.gateMode 1 (.fields { gate := 3, mode := 0 })) { t with clock := 17351000 }
     (u.gate 3).strikeEnd = some 17351005 ∧ (u.gate 3).monitor = .released ∧ (u.pontoon 2).tracking = .on) := by decide +kernel

/-- R76: a change out of FREE on an unconfigured gate awaits the end of the held release as well, and moves no mark and no monitor. -/
theorem test_gate_mode_unconfigured :
    let t := after (.gateMode 1 (.fields { gate := 7, mode := 0 })) (dock.setGate 7 { Gate.reset with mode := .free })
    (t.gate 7).awaitsHeldEnd = true ∧ (t.gate 7).mode = .normal ∧ (t.gate 7).mark = none ∧ (t.gate 7).monitor = .idle := by
  decide +kernel

theorem witness_GateModeMovesMarkAndMonitor :
    dock.Room ∧ (gateModeOf 3 = none ∧ gateModeOf 255 = none ∧ ¬ 8 < 8) ∧
    (gateModeOf 0 = some .normal ∧ gateModeOf 1 = some .locked ∧ gateModeOf 2 = some .free ∧ 7 < 8) ∧ 5 < 6 ∧
    ((dock.judgeTracking 2).pontoon 2).tracking = (dock.pontoon 2).tracking ∧
    (((dockGate { gate3 with mode := .free }).judgeTracking 2).pontoon 2).tracking ≠ (dock.pontoon 2).tracking :=
  ⟨dock_room, by decide +kernel⟩

theorem test_gate_open :
    let t := after (.gateOpen 1 (.fields 3)) dock
    (t.gate 3).monitor = .released ∧ (t.gate 3).strikeEnd = some 17434865 ∧ sentResult t = some .done ∧
    told t = [.passage 3 2 .remote none none none true none .none none] := by decide +kernel

theorem test_presence_remove :
    let t := after (.presenceRemove 1 (.fields 0x004A217C94#40)) crowded
    t.presence.map (·.pontoon) = [2, 1] ∧ sentBody t = some (.removed 2 17350200) := by decide +kernel

theorem witness_RemoteGrantAndPresenceRemoval :
    dock.Room ∧ resultOf (.gateOpen 1 (.fields 8)) dock = some .range ∧ resultOf (.gateOpen 1 (.fields 7)) dock = some .state ∧
    resultOf (.gateOpen 1 (.fields 3)) (dock.setStation 2 1 { link := .silent, missed := 4 }) = some .busy ∧
    resultOf (.gateOpen 1 (.fields 3)) (dockGate { gate3 with mode := .free }) = some .done ∧
    resultOf (.presenceRemove 1 (.fields 0#40)) crowded = some .state := ⟨dock_room, by decide +kernel⟩

/-- The propped door of 4.9: the strike end finds the door OPEN and the gate stays RELEASED; with the door SHUT it goes IDLE. -/
theorem test_strike_end_expiry :
    let t := after (.strikeEndExpiry 3) (dockGate (released true .strikePending 17434860))
    (t.gate 3).monitor = .released ∧ (t.gate 3).expiry = .holdPending ∧
    ((after (.strikeEndExpiry 3) (dockGate (released false .strikePending 17434860))).gate 3).monitor = .idle ∧
    ((after (.strikeEndExpiry 3) (dockGate (released false .strikePending 17434861))).gate 3).monitor = .released := by decide +kernel

/-- Thirty seconds after the strike end the open gate is HELD and HELD-OPEN names the strike end. -/
theorem test_hold_expiry :
    let t := after (.holdExpiry 3) (dockGate (released true .holdPending 17434830))
    (t.gate 3).monitor = .held ∧ told t = [.heldOpen 3 2 17434830] ∧
    ((after (.holdExpiry 3) (dockGate (released true .holdPending 17434831))).gate 3).monitor = .released := by decide +kernel

theorem witness_DoorReportsMoveTheMonitor :
    ((dockGate { gate3 with mode := .locked }).gate 3).mode = .locked ∧ ((dockGate { gate3 with mode := .free }).gate 3).mode = .free ∧
    ((dock.gate 3).mode = .normal ∧ (dock.setCreds { dock.creds with state := .fault }).creds.state ≠ .valid) ∧
    (({ dock with creds := { CredTable.reset with state := .valid } } : State).gate 3).mode = .normal ∧
    ({ dock with creds := { CredTable.reset with state := .valid } } : State).creds.state = .valid ∧
    dockNoCreds.matchRow 0x004A217C95#40 = none ∧
    (dock.creds.state = .valid ∧ dock.matchRow 0x004A217C93#40 = some (0, dock.credRow 0) ∧
      dock.entryDenial 2 0x004A217C93#40 (.hit 0 (dock.credRow 0)) = none ∧
      crowded.entryDenial 2 0x004A217C93#40 (.hit 0 (crowded.credRow 0)) = some .passback) ∧
    (dock.presence.find? (fun q => q.card == 0x004A217C93#40) = none ∧
      crowded.presence.find? (fun q => q.card == 0x7E00000001#40) =
        some { card := 0x7E00000001#40, pontoon := 1, entry := 17350150 } ∧
      ((dock.pontoon 2).tracking = .on ∧ (dock.pontoon 1).tracking = .on) ∧
      ¬ ((dock.setPontoon 1 { limit := 0, tracking := .suspended }).pontoon 1).tracking = .on) ∧
    gate3.monitor = .idle ∧ ((dockGate (released true .holdPending 1)).gate 3).monitor = .released ∧
    ((dockGate { gate3 with monitor := .held }).gate 3).monitor = .held ∧
    ((dockGate { gate3 with monitor := .forced }).gate 3).monitor = .forced := by
  refine ⟨?_, ?_, ?_, ?_, ?_, clear_table_matches_nothing (s := dockNoCreds) rfl _, ?_, ?_, ?_, ?_, ?_, ?_⟩ <;> decide +kernel

/-- The presence list at its person limit and one below it. -/
theorem witness_EntryChecksAreJudgedInOrder :
    PresenceLaw { dock with presence := [] } ∧ 5 < 6 ∧
    PresenceLaw (({ crowded with presence := crowded.presence }).setPontoon 1 { limit := 1, tracking := .on }) := by
  unfold PresenceLaw; decide +kernel

/-- A state with an exchange begun on an arm. -/
def inExchange (s : State) (a addr : Nat) (req : ArmRequest) (w : Work) : State :=
  s.setArm a { s.arm a with inFlight := some { addr := addr, req := req, work := w, begun := true, window := 12 } }

/-- A gate's status reply from arm 2, address 1: flags, and a card where the flags say so. -/
def gateReply (flags : Nat) (card : List Byte) : Instr :=
  .exchangeReply 2 (armFrame 1 0x81 (natBytes 1 2 ++ natBytes 1 flags ++ card))

/-- The crew read IN of 4.9: granted and ADDED, then a second read denied with PASSBACK. -/
theorem test_exchange_reply_read_in :
    let s := inExchange { dock with clock := 17350100 } 2 1 .poll .priorityPoll
    let t := after (gateReply 4 (natBytes 5 0x004A217C93)) s
    t.presence = [{ card := 0x004A217C93#40, pontoon := 2, entry := 17350100 }] ∧ (t.gate 3).monitor = .released ∧
    (t.gate 3).strikeEnd = some 17350105 ∧ (t.gate 3).mark.map (·.cmd) = some .strike ∧
    told t = [.passage 3 2 .inward (some 0x004A217C93#40) (some .crew) (some 47) true none .added none] ∧
    told (after (gateReply 4 (natBytes 5 0x004A217C93))
      (inExchange { crowded with clock := 17350150 } 2 1 .poll .priorityPoll)) =
      [.passage 3 2 .inward (some 0x004A217C93#40) (some .crew) (some 47) false (some .passback) .none none] := by decide +kernel

/-- R78: a door that opens at an IDLE gate is FORCED; R180: a bad reply raises the missed count. -/
theorem test_exchange_reply_door_and_bad :
    told (after (gateReply 1 []) (inExchange dock 2 1 .poll .priorityPoll)) = [.forced 3 2] ∧
    ((after (.exchangeReply 2 [0#8]) (inExchange dock 2 1 .poll .priorityPoll)).slot 2 1).station =
      some { link := .present, missed := 1 } ∧
    ((after (.exchangeReply 2 [0#8]) (inExchange dock 2 1 .poll .priorityPoll)).arm 2).errors = 8 := by decide +kernel

/-! ### Service points (5.10) and metering (6.7 to 6.10) -/

theorem witness_PointChangeSetsTheMark :
    0 ≤ 1 ∧ 1 ≤ 1 ∧ ((0 : Nat) ≠ 1 ∨ Service.power ≠ Service.water) ∧
    ((postWith (drawing .live) offPoint).change 0 .power (drawing .closing)).mark.isSome = true ∧
    ((postWith (drawing .live) offPoint).change 0 .power (drawing .starting)).mark = none := by decide +kernel

/-- An outlet request's arguments for berth 47. -/
def outlet47 (service : Nat) : OutletArgs :=
  { sel := .berth 47, service := service }

/-- R109: both OFF points of the berth open sessions; the arbiter takes the mark up. -/
theorem test_outlet_start :
    let t := after (.outletStart 1 (.fields (outlet47 2))) (dockWith offPoint offPoint)
    (t.point? power47).map (·.state) = some .starting ∧ (t.point? water47).map (fun x => x.session.map (·.account)) = some (some 112) ∧
    sentBody t = some (.points [.starting, .starting]) ∧ sentResult t = some .done ∧
    (t.arm 2).inFlight.map (·.req) = some (.postSet true true false false) := by decide +kernel

/-- The selections of R108 at the ends of their ranges, and the states the clauses of the outlet statements ask for. -/
theorem witness_OutletStartOpensSessions :
    dock.Room ∧ (servicesOf 3 = none ∧ selInRange (.berth 0) = false ∧ selInRange (.side 6 1 0) = false) ∧
    (servicesOf 0 = some [.power] ∧ selInRange (.berth 200) = true ∧ dock.selected (.berth 200) = none) ∧
    (servicesOf 2 = some [.power, .water] ∧ selInRange (.side 2 9 1) = true ∧
      dock.selected (.side 2 9 1) = some { arm := 2, addr := 9, side := 1 } ∧
      dock.selected (.berth 47) = some { arm := 2, addr := 9, side := 0 }) ∧
    dock.point? water47 = some offPoint ∧ water47.side ≤ 1 ∧ offPoint.state = .off ∧
    (resultOf (.outletStart 1 (.fields (outlet47 3))) dock = some .range ∧
      resultOf (.outletStart 1 (.fields (outlet47 0))) dock = some .state ∧
      resultOf (.outletStart 1 (.fields (outlet47 0))) (dock.setBerth 47 (heldBerth .reserved)) = some .state ∧
      resultOf (.outletStart 1 (.fields (outlet47 1))) (dock.setAccount 112 (dock.account 57)) = some .denied ∧
      resultOf (.outletStart 1 (.fields (outlet47 1))) (dock.setArm 2 { dock.arm 2 with state := .disabled }) = some .busy) :=
  ⟨dock_room, by decide +kernel⟩

/-- R110: the LIVE point goes to CLOSING with reason OFFICE. -/
theorem test_outlet_stop :
    let t := after (.outletStop 1 (.fields (outlet47 2))) dock
    (t.point? power47).map (·.state) = some .closing ∧ sentBody t = some (.points [.closing, .off]) ∧
    (t.point? power47).map (fun x => x.session.map (·.closeReason)) = some (some (some .office)) := by decide +kernel

/-- R110: the LIVE point is SUSPENDED with reason OFFICE, and one suspended with CREDIT takes that reason. -/
theorem test_outlet_suspend :
    let t := after (.outletSuspend 1 (.fields (outlet47 0))) dock
    (t.point? power47).map (·.state) = some .suspended ∧
    (t.point? power47).map (fun x => x.session.map (·.suspension)) = some (some (some .office)) ∧
    ((after (.outletSuspend 1 (.fields (outlet47 0)))
      (dockWith { drawing .suspended with session := some { session with suspension := some .credit } } offPoint)).point?
      power47).map (fun x => x.session.map (·.suspension)) = some (some (some .office)) ∧
    sentResult (after (.outletSuspend 1 (.fields (outlet47 1))) dock) = some .state := by decide +kernel

theorem witness_OutletStopAndSuspendChangeTheSelected :
    dock.Room ∧ (servicesOf 255 = none ∨ selInRange (.berth 201) = false) ∧
    (servicesOf 1 = some [.water] ∧ selInRange (.berth 1) = true ∧ dock.selected (.berth 1) = none) ∧
    selInRange (.berth 47) = true ∧ dock.selected (.berth 47) = some { arm := 2, addr := 9, side := 0 } :=
  ⟨dock_room, by decide +kernel⟩

/-- R111: a SUSPENDED point is released; a LIVE one fails with STATE. -/
theorem test_outlet_release :
    let t := after (.outletRelease 1 (.fields (outlet47 0))) (dockWith (drawing .suspended) offPoint)
    (t.point? power47).map (·.state) = some .starting ∧ sentResult t = some .done ∧
    sentBody t = some (.releases [{ state := .starting, failed := none }]) ∧
    bodyOf (.outletRelease 1 (.fields (outlet47 0))) dock = some (.releases [{ state := .live, failed := some .state }]) := by
  decide +kernel

/-- R145: a POWER point released from TRIPPED starts with an empty window and a run count of 0, the warning latch kept. -/
theorem test_release_of_a_trip :
    let s := (dockWith (drawing .tripped) offPoint).setDetector 2 9 0 { run := 1, sum := 600, count := 2, latch := true, last := some 300 }
    (after (.outletRelease 1 (.fields (outlet47 0))) s).detector 2 9 0 =
      { run := 0, sum := 0, count := 0, latch := true, last := some 300 } := by decide +kernel

theorem witness_OutletReleaseTriesTheSelected :
    dock.Room ∧ (servicesOf 3 = none ∨ selInRange (.berth 47) = false) ∧
    (servicesOf 0 = some [.power] ∧ selInRange (.berth 47) = true ∧ selInRange (.berth 200) = true ∧
      dock.selected (.berth 200) = none ∧ dock.selected (.berth 47) = some { arm := 2, addr := 9, side := 0 }) ∧
    (dockWith (drawing .suspended) (drawing .tripped)).point? power47 = some (drawing .suspended) ∧
    (dockWith (drawing .suspended) (drawing .tripped)).point? water47 = some (drawing .tripped) ∧
    (drawing .suspended).session = some session ∧ power47.side ≤ 1 ∧ (0 ≤ 1 ∧ 1 ≤ 1) ∧
    (dockWith (drawing .tripped) offPoint).point? power47 = some (drawing .tripped) ∧
    dock.point? { power47 with addr := 30 } = none ∧ (dock.point? water47 = some offPoint ∧ offPoint.session = none) ∧
    ((dockWith { drawing .suspended with enables := { offPoint.enables with office := false } } offPoint).enableAlone power47 = true ∧
      (dockWith (drawing .suspended) offPoint).enableAlone power47 = false) := ⟨dock_room, by decide +kernel⟩

/-- R112: FAULT goes to OFF; a CLOSING point of a silent post is closed with UNCONFIRMED. -/
theorem test_outlet_clear :
    let s := dockWith { offPoint with state := .fault } (drawing .closing)
    let t := after (.outletClear 1 (.fields (outlet47 2))) (s.setStation 2 9 { link := .silent, missed := 4 })
    t.point? power47 = some offPoint ∧ (t.point? water47).map (·.state) = some .off ∧
    (told t).map (fun n => match n with
      | .sessionClosed _ b ses _ r => (b, ses.cents, r)
      | _ => (none, 0, .tap)) = [(some 47, 356, .unconfirmed)] ∧
    bodyOf (.outletClear 1 (.fields (outlet47 2))) s = some (.points [.off, .closing]) := by decide +kernel

/-- R108: the set is CREDIT, TAP, OFFICE from the lowest bit. -/
theorem test_outlet_enables :
    ((after (.outletEnables 1 (.fields { sel := .berth 47, service := 0, set := 5 })) dock).point? power47).map (·.enables) =
      some { credit := true, tap := false, office := true } := by decide +kernel

theorem witness_OutletClearAndEnablesChangeTheSelected :
    dock.Room ∧ (servicesOf 3 = none ∨ selInRange (.berth 47) = false) ∧ (8 ≤ 8 ∨ servicesOf 0 = none) ∧ 7 < 8 ∧
    (servicesOf 0 = some [.power] ∧ selInRange (.berth 200) = true ∧ dock.selected (.berth 200) = none ∧
      selInRange (.berth 47) = true ∧ dock.selected (.berth 47) = some { arm := 2, addr := 9, side := 0 }) ∧
    resultOf (.outletEnables 1 (.fields { sel := .berth 47, service := 0, set := 8 })) dock = some .range ∧
    resultOf (.outletEnables 1 (.fields { sel := .berth 200, service := 0, set := 7 })) dock = some .state ∧
    resultOf (.outletClear 1 (.fields (outlet47 2))) dock = some .state := ⟨dock_room, by decide +kernel⟩

/-- Berth 47 DEPARTING with its POWER point as the last one that is not at rest. -/
def leaving : State :=
  (dockWith (drawing .closing) offPoint).setBerth 47 { heldBerth .departing with checkOut := some 17434800 }

theorem witness_ReportedStatesConfirmOrCount :
    dock.point? power47 = some (drawing .live) ∧ (drawing .live).session = some session ∧ (drawing .live).state = .live ∧
    dock.point? water47 = some offPoint ∧ ¬ (offPoint.state = .starting ∨ offPoint.state = .live) ∧
    (dockWith (drawing .starting) offPoint).point? power47 = some (drawing .starting) ∧ (drawing .starting).state = .starting ∧
    (dockWith (drawing .closing) offPoint).point? power47 = some (drawing .closing) ∧ (drawing .closing).state = .closing ∧
    (leaving.post? 2 9 = some (postWith (drawing .closing) offPoint) ∧ power47.side ≤ 1 ∧ offPoint.state = .off ∧
      ((postWith (drawing .closing) offPoint).point 0 .power).state ≠ .off ∧
      (((postWith (drawing .closing) offPoint).change 0 .power offPoint).point 0 .power).state = .off ∧
      (((postWith (drawing .closing) offPoint).change 0 .power offPoint).point 0 .water).state = .off) ∧
    (leaving.pointBerth power47 = some 47 ∧ (leaving.berth 47).state = .departing) ∧
    (dock.pointBerth power47 = some 47 ∧ (dock.berth 47).state ≠ .departing) := by
  decide +kernel

/-- R13: the last point of a DEPARTING berth comes to rest, and the berth is freed. -/
theorem test_departure_completes :
    let t := leaving.changePoint power47 offPoint
    told t = [.departed 47 112 0 17434800 0 false] ∧ (t.berth 47).state = .free ∧
    told ((leaving.setPost 2 9 (postWith (drawing .closing) (drawing .closing))).changePoint power47 offPoint) = [] := by
  decide +kernel

/-- The stuck valve of 5.10: at the third settled report CUT-UNCONFIRMED is told and the mark is set again. -/
theorem test_cut_unconfirmed :
    let s := dockWith offPoint { drawing .closing with unconfirmed := 2 }
    let t := s.judgeSettled water47 true
    told t = [.cutUnconfirmed water47 (some 47) .closing] ∧ (t.point? water47).map (·.unconfirmed) = some 0 ∧
    ((t.post? 2 9).bind (·.mark)).map (·.water0) = some false ∧
    told ((dockWith offPoint { drawing .closing with unconfirmed := 1 }).judgeSettled water47 true) = [] := by decide +kernel

/-- The taps of 5.10: the crew's first tap starts both points of side 0, the second stops them; a card that is no crew's does nothing. -/
theorem test_taps :
    ((dockWith offPoint offPoint).judgeTap 2 9 0 0x004A217C93#40 (.hit 0 (dock.credRow 0))).snd = .started [.power, .water] ∧
    ((dockWith (drawing .live) (drawing .live)).judgeTap 2 9 0 0x004A217C93#40 (.hit 0 (dock.credRow 0))).snd =
      .stopped [.power, .water] ∧
    (dock.judgeTap 2 9 0 0x004A217C94#40 (.hit 5 (dock.credRow 5))).snd = .refused .ineligible ∧
    (dock.judgeTap 2 9 1 0x7E00000000#40 (.hit 20 (dock.credRow 20))).snd = .refused .berth := by decide +kernel

/-- An automatic arrival of R10 at the post of a RESERVED berth, and none at an OCCUPIED one. -/
theorem witness_TapsStopReleaseOrStart :
    dock.sideBerth 2 9 0 = some 47 ∧ dock.consult 0x004A217C93#40 = .hit 0 (dock.credRow 0) ∧ (dock.credRow 0).kind = .crew ∧
    (dock.credRow 0).berth = some 47 ∧ (dock.credRow 0).window = none ∧
    (((dock.setBerth 47 (heldBerth .reserved)).berth 47).autoArrival = true ∧
      ((dock.setBerth 47 (heldBerth .reserved)).berth 47).state = .reserved) ∧
    ¬ ((dock.berth 47).state = .reserved ∨ (dock.berth 47).state = .overdue) := by decide +kernel

/-- The reading of 6.7 across the wrap: delta 176, 6 cents, residue 900. -/
theorem test_metering_across_the_wrap :
    let t := (dock.setRates { dock.rates with rows := dock.rates.rows.set 1 (words [35, 35, 35, 35]) }).takeReading power47 120
    (t.point? power47).map (·.baseline) = some (some { reading := 120, time := 17434860 }) ∧
    (t.point? power47).map (fun x => x.session.map (fun q => (q.billed, q.cents, q.residue))) = some (some (10340, 361, 900)) ∧
    (t.account 112).balance = 50000 - 6 := by decide +kernel

/-- The bands of 6.8 at 17:59:59 and 18:00:00, and the meter fault of 6.10. -/
theorem test_bands_and_meter_fault :
    bandAt rateRows 64799 = 1 ∧ bandAt rateRows 64800 = 2 ∧ bandRate rateRows .power 2 = 42 ∧
    (let x := { drawing .live with
        baseline := some { reading := 30000, time := 17500000 }
        session := some { session with cents := 2104, residue := 620 } }
     let t := ({ dockWith x offPoint with clock := 17514400 }).takeReading power47 42800
     (told t).getLast? =
      some (.meterFault power47 (some 47) { reading := 30000, time := 17500000 } 42800 12800 3600 10800) ∧
     (t.account 112).balance = 49999 ∧ (t.point? power47).map (·.state) = some .fault) := by decide +kernel

theorem witness_CounterReadingsAreJudged :
    (dock.point? power47 = some (drawing .live) ∧ (drawing .live).baseline = some { reading := 65480, time := 17434800 } ∧
      (drawing .live).session = some session ∧ dock.rates.state = .valid ∧
      dock.pulseLimit power47 = 3 ∧ (65480 + 180 + 65536 - 65480) % 65536 ≤ 3 * 60 ∧ 3 * 60 < (65480 + 181 + 65536 - 65480) % 65536) ∧
    (dock.point? water47 = some offPoint ∧ offPoint.baseline = none) ∧
    ((dockWith { offPoint with baseline := some { reading := 0, time := 0 } } offPoint).point? power47 =
      some { offPoint with baseline := some { reading := 0, time := 0 } }) ∧
    (dock.setRates { dock.rates with state := .fault }).rates.state ≠ .valid ∧
    (bandRate dock.rateRows .power (bandAt dock.rateRows dock.clock) = 42 ∧
      281474976710655 < 281474976710655 + (740 + 7 * 42) / 1000 ∧ 281474976710655 + (740 + 6 * 42) / 1000 ≤ 281474976710655) := by
  decide +kernel

theorem witness_MeterFaultEndsTheSession :
    dock.point? power47 = some (drawing .live) ∧ power47.side ≤ 1 ∧ dock.point? { power47 with side := 1 } = some Point.created := by
  decide +kernel

/-- The extremes of R129 and the rows of 6.12. -/
theorem witness_FuelAmountStopVolumeAndDigits :
    (999999 ≤ 999999 ∧ 1 ≤ 65535 ∧ 65535 ≤ 65535) ∧ (1 ≤ 1 ∧ 1 ≤ 999999 ∧ 1 ≤ 1500 ∧ 1500 ≤ 65535) ∧
    stopVolume 1 1500 = 0 ∧ stopVolume 10000 1899 = 5266 ∧ stopVolume 10000 1899 < 999999 ∧ displayDigits 8046 = [0, 0, 8, 0, 4, 6] := by
  decide +kernel

/-- The windows of 7.7: 1,190 / 4 = 297 warns; 1,313 / 4 = 328 trips with a SAFETY mark. -/
theorem test_overload_windows :
    (let s := dock.setDetector 2 9 0 { run := 0, sum := 885, count := 3, latch := false, last := none }
     told (s.overloadDetector power47 1266 305 4) = [.overloadWarn 2 9 0 (some 47) 112 297 288 320]) ∧
    (let s := dock.setDetector 2 9 0 { run := 0, sum := 995, count := 3, latch := true, last := none }
     let t := { s with clock := 17440000 }.overloadDetector power47 1320 318 4
     told t = [.trip 2 9 0 (some 47) 112 .overload .live 1320 318 none (some (328, 320)) 17440000] ∧
     (t.point? power47).map (·.state) = some .tripped ∧ ((t.post? 2 9).bind (·.mark)).map (·.safety) = some true ∧
     t.detector 2 9 0 = { run := 0, sum := 0, count := 0, latch := true, last := none }) ∧
    convertSample 1406 48 2 = 340 := by decide +kernel

theorem witness_TripTakesThePointOut :
    (dock.row 2 9 = .post (some 47) (some 48) 48 2 4000 2 4 ∧ dock.point? { power47 with side := 1 } = some Point.created ∧
      Point.created.session = none ∧ 1 ≤ 1) ∧
    dock.point? power47 = some (drawing .live) ∧ (drawing .live).session = some session ∧ power47.side ≤ 1 ∧ power47.svc = .power ∧
    (drawing .live).state = .live ∧ ((drawing .closing).state = .closing ∧ session.tripCause = none) ∧
    (dockWith (drawing .tripped) offPoint).point? power47 = some (drawing .tripped) ∧
    ¬ ((drawing .tripped).state = .live ∨ (drawing .tripped).state = .starting ∨ (drawing .tripped).state = .suspended ∨
      ((drawing .tripped).state = .closing ∧ session.tripCause = none)) := by decide +kernel

/-! ### The fuel dock (8.10) -/

/-- The attendant's request of 8.10. -/
def attendant : FuelAuthArgs :=
  { pump := 1, nozzle := 1, limit := 3000, account := 0 }

/-- The attendant sale of 8.10: price 2,150, preset 1,395; the arbiter takes the AUTH up. -/
theorem test_fuel_authorize :
    let t := after (.fuelAuthorize 1 (.fields attendant)) dock
    sentBody t = some (.authorized 2150 3000 1395) ∧ (t.pump 1).state = .ready ∧
    (t.arm 5).inFlight.map (·.req) = some (.pumpAuth 1 1395) := by decide +kernel

theorem test_fuel_authorize_holds :
    let s := dock.setAccount 203 (accountOf .good (some .good) 18000 5000 [])
    let t := after (.fuelAuthorize 1 (.fields { pump := 1, nozzle := 0, limit := 999999, account := 203 })) s
    (t.account 203).holds = [{ id := 0, pump := 1, amount := 23000 }] ∧ (t.account 203).standing = .exhausted ∧
    ((t.pump 1).sale.map (fun q => (q.limit, q.preset))) = some (23000, 12111) := by decide +kernel

theorem witness_FuelAuthorizeOpensASale :
    dock.Room ∧
    resultOf (.fuelAuthorize 1 (.fields { attendant with pump := 4 })) dock = some .range ∧
    resultOf (.fuelAuthorize 1 (.fields { attendant with nozzle := 2 })) dock = some .range ∧
    resultOf (.fuelAuthorize 1 (.fields { attendant with limit := 0 })) dock = some .range ∧
    resultOf (.fuelAuthorize 1 (.fields { attendant with limit := 1000000 })) dock = some .range ∧
    resultOf (.fuelAuthorize 1 (.fields { attendant with account := 257 })) dock = some .range ∧
    resultOf (.fuelAuthorize 1 (.fields { attendant with pump := 3 })) dock = some .state ∧
    resultOf (.fuelAuthorize 1 (.fields attendant)) (dock.setRates { dock.rates with state := .fault }) = some .state ∧
    bodyOf (.fuelAuthorize 1 (.fields { attendant with account := 203 })) dock = some (.holdRefused .exhausted) ∧
    bodyOf (.fuelAuthorize 1 (.fields { attendant with account := 256 })) dock = some (.holdRefused .closed) ∧
    bodyOf (.fuelAuthorize 1 (.fields { attendant with account := 112, limit := 499 })) dock = some (.holdRefused .insufficient) :=
  ⟨dock_room, by decide +kernel⟩

/-- R159: a READY sale is discarded and its hold released. -/
theorem test_fuel_abort :
    let t := after (.fuelAbort 1 (.fields 1)) (dockPump (pumpIn .ready (some sale203) []))
    (t.pump 1).state = .idle ∧ (t.pump 1).sale = none ∧ (t.account 203).holds = [] ∧ sentResult t = some .done ∧
    resultOf (.fuelAbort 1 (.fields 1)) (dockPump (pumpIn .fuelling (some sale203) [])) = some .accepted := by decide +kernel

/-- A completed sale on account 57. -/
def sale57 : Sale :=
  { sale203 with account := some 57, volume := 1000, amount := 1899, endReason := some .hung }

/-- The collection of 8.10: the oldest goes with "one sale left", and the held sale moves into the freed slot. -/
theorem test_sale_collect :
    let t := after (.saleCollect 1 (.fields 1)) (dockPump { pumpIn .blocked (some sale203) [sale57, sale203] with protect := true })
    sentBody t = some (.sale sale57 1) ∧ (t.pump 1).slots = [sale203, sale203] ∧ (t.pump 1).state = .idle ∧
    (t.pump 1).sale = none := by decide +kernel

/-- R169: a BLOCKED pump whose protect flag is cleared loses its oldest sale. -/
theorem test_pump_protect :
    let t := after (.pumpProtect 1 (.fields { pump := 1, flag := false }))
      (dockPump { pumpIn .blocked (some sale203) [sale57, sale203] with protect := true })
    (t.pump 1).state = .idle ∧ (t.pump 1).slots = [sale203, sale203] ∧ (t.pump 1).lost = 1 ∧ told t = [.saleLost 1 sale57] := by
  decide +kernel

theorem witness_FuelAbortSaleCollectAndPumpProtect :
    dock.Room ∧
    (resultOf (.fuelAbort 1 (.fields 4)) dock = some .range ∧ resultOf (.fuelAbort 1 (.fields 3)) dock = some .tooLate) ∧
    (resultOf (.saleCollect 1 (.fields 4)) dock = some .range ∧ resultOf (.saleCollect 1 (.fields 3)) dock = some .state) ∧
    PumpLaw (dockPump { pumpIn .blocked (some sale203) [sale57, sale203] with protect := true }) ∧
    (dockPump { pumpIn .blocked (some sale203) [sale57, sale203] with protect := true }).Room ∧
    resultOf (.pumpProtect 1 (.fields { pump := 4, flag := true })) dock = some .range ∧
    resultOf (.pumpProtect 1 (.fields { pump := 3, flag := true })) dock = some .done :=
  ⟨dock_room, by decide +kernel, by decide +kernel,
    tabGet_all _ _ (by unfold PumpOk SaleOk; decide +kernel) (by unfold PumpOk SaleOk; decide +kernel),
    of_decide_eq_true (p := (dockPump { pumpIn .blocked (some sale203) [sale57, sale203] with protect := true }).trunk.replies.length +
      (dockPump { pumpIn .blocked (some sale203) [sale57, sale203] with protect := true }).withheld < 16) (by decide +kernel), by decide +kernel,
    by decide +kernel⟩

/-- R158 at its first second, 120 s after the start; the released hold restores account 203 (R39, R31). -/
theorem test_ready_timeout :
    let s := dockPump (pumpIn .ready (some { sale203 with start := 17434740 }) [])
    let t := after (.readyTimeout 1) s
    (t.pump 1).state = .idle ∧ told t = [.restored 203 .good 19960, .authExpired 1 { sale203 with start := 17434740 }] ∧
    ((after (.readyTimeout 1) { s with clock := 17434859 }).pump 1).state = .ready := by decide +kernel

/-- The link loss of 8.10: 3,100 cL at 1,899 are 5,887 cents, settled on hold 0. -/
theorem test_link_loss_window :
    let s := dockPump { pumpIn .suspect (some { sale203 with volume := 3100, amount := 5887 }) [] with
      suspendedFrom := some .fuelling, suspectSince := some 17434260 }
    let t := after (.linkLossWindow 1) s
    (t.pump 1).closedVolume = some 3100 ∧ (t.pump 1).slots.map (fun q => (q.amount, q.endReason)) = [(5887, some .linkLost)] ∧
    (t.account 203).balance = 14960 - 5887 ∧ (told t).getLast? = some (.linkLost 1 (some 203) 3100 5887) ∧
    ((after (.linkLossWindow 1) { s with clock := 17434859 }).pump 1).state = .suspect := by decide +kernel

theorem test_fuel_timers_set :
    let t := after (.fuelTimersSet 1 (.fields { ready := 600, window := 3600 })) dock
    t.readyTimeout = 600 ∧ t.linkLossWindow = 3600 ∧
    ((after (.fuelTimersSet 1 (.fields { ready := 30, window := 60 }))
      (dockPump (pumpIn .ready (some { sale203 with start := 17434830 }) []))).pump 1).state = .idle := by decide +kernel

theorem witness_FuelTimersExpireAndAreSet :
    dock.Room ∧
    ((dockPump (pumpIn .ready (some sale203) [])).pump 1).sale = some sale203 ∧
    resultOf (.fuelTimersSet 1 (.fields { ready := 29, window := 60 })) dock = some .range ∧
    resultOf (.fuelTimersSet 1 (.fields { ready := 30, window := 59 })) dock = some .range ∧
    resultOf (.fuelTimersSet 1 (.fields { ready := 601, window := 60 })) dock = some .range ∧
    resultOf (.fuelTimersSet 1 (.fields { ready := 600, window := 3601 })) dock = some .range := ⟨dock_room, by decide +kernel⟩

/-- A pump's status reply from arm 5, address 3. -/
def pumpReply (flags cause volume : Nat) : Instr :=
  .exchangeReply 5 (armFrame 3 0x81 (natBytes 1 3 ++ natBytes 1 flags ++ natBytes 1 cause ++ natBytes 3 volume))

/-- The nozzle hung in 8.10: 8,046 cents settled on hold 0, balance 6,914, the sale in a slot, the pump IDLE. -/
theorem test_exchange_reply_nozzle_hung :
    let s := inExchange (dockPump (pumpIn .fuelling (some sale203) [sale57])) 5 3 (.pollPump 0 0) .priorityPoll
    let t := after (pumpReply 12 2 4237) s
    (t.pump 1).state = .idle ∧ (t.pump 1).closedVolume = some 4237 ∧
    (t.pump 1).slots.map (fun q => (q.account, q.amount)) = [(some 57, 1899), (some 203, 8046)] ∧
    (t.account 203).balance = 6914 ∧ (t.account 203).holds = [] := by decide +kernel

/-- Pump 1 with an AUTH mark. -/
def unsent (st : PumpState) : Pump :=
  { pumpIn st (some sale203) [] with mark := some { cmd := .auth 0 0 10532, setAgain := true } }

theorem witness_CompletedSalesAreSettledAndPlaced :
    ((dock.pump 0).state = .offline ∧ (unsent .ready).state ≠ .suspect ∧ (unsent .ready).markAuth = true ∧
      (unsent .suspect).state = .suspect ∧ (unsent .suspect).markAuth = true) ∧
    ((pumpIn .ready (some sale203) []).state = .ready ∧ (pumpIn .ready (some sale203) []).markAuth = false ∧
      (pumpIn .fuelling (some sale203) []).markAuth = false ∧ (pumpIn .stopping (some sale203) []).state = .stopping ∧
      (dock.pump 1).state = .idle ∧ (dock.pump 1).markAuth = false ∧ (pumpIn .suspect (some sale203) []).state = .suspect ∧
      (pumpIn .suspect (some sale203) []).markAuth = false) ∧
    ((pumpIn .blocked (some sale203) [sale57, sale203]).state = .blocked ∧ (unsent .ready).state ≠ .idle ∧
      (unsent .ready).state ≠ .blocked ∧ (dock.setCreds { dock.creds with state := .fault }).creds.state ≠ .valid ∧
      dock.creds.state = .valid ∧ dock.matchRow 0x004A217C93#40 = some (0, dock.credRow 0)) ∧
    dockNoCreds.matchRow 0x004A217C95#40 = none ∧
    ((dockPump (pumpIn .fuelling (some sale203) [])).pump 1).sale = some sale203 ∧ 3 < 4 ∧
    ((dockPump (pumpIn .fuelling (some sale203) [sale57])).pump 1).slots.length < 2 ∧
    (2 ≤ ((dockPump { pumpIn .fuelling (some sale203) [sale57, sale57] with protect := true }).pump 1).slots.length ∧
      ((dockPump { pumpIn .fuelling (some sale203) [sale57, sale57] with protect := true }).pump 1).protect = true) ∧
    (((dockPump { pumpIn .fuelling (some sale203) [sale57, sale203] with protect := false }).pump 1).slots = [sale57, sale203] ∧
      ((dockPump { pumpIn .fuelling (some sale203) [sale57, sale203] with protect := false }).pump 1).protect = false) := by
  refine ⟨?_, ?_, ?_, clear_table_matches_nothing (s := dockNoCreds) rfl _, ?_, ?_, ?_, ?_, ?_⟩ <;> decide +kernel

/-! ### The arm buses (9.10, 9.11) -/

/-- R184: every station UNSEEN, the timers running, a sweep of the gate started by the arbiter. -/
theorem test_arm_mode_enable :
    let t := after (.armModeEnable 1 (.fields 2)) (dock.setArm 2 { dock.arm 2 with state := .disabled })
    (t.arm 2).state = .active ∧ (t.slot 2 9).station = some { link := .unseen, missed := 0 } ∧ sentResult t = some .done ∧
    (t.arm 2).inFlight.map (·.addr) = some 1 ∧ told t = [.armState 2 .disabled .active .office 0] := by decide +kernel

theorem test_arm_mode_disable :
    let t := after (.armModeDisable 1 (.fields 2)) (dockWith offPoint offPoint)
    (t.arm 2).state = .disabled ∧ (t.slot 2 9).station = some { link := .unseen, missed := 0 } ∧
    bodyOf (.armModeDisable 1 (.fields 2)) dock = some (.station 9) := by decide +kernel

theorem test_arm_mode_restore :
    let t := after (.armModeRestore 1 (.fields 4)) dock
    (t.arm 4).state = .active ∧ told t = [.armState 4 .isolated .active .office 0] := by decide +kernel

/-- The gate and the pump of a PRESENT station, and a gate and a pump that no station of the arm names, as `OwnersCutOff` tells them apart. -/
theorem owners_of_dock :
    (∃ d k h, dock.row 2 d = .gate 3 k h ∧ dock.link 2 d = .present) ∧ (∃ d k h, dock.row 5 d = .pump 1 k h ∧ dock.link 5 d = .present) ∧
    (∀ d k h, dock.row 2 d = .gate 0 k h → dock.link 2 d ≠ .present) ∧ ∀ d k h, dock.row 5 d = .pump 0 k h → dock.link 5 d ≠ .present := by
  have here (a d : Nat) (h : dock.link a d = .present) : d ∈ addresses := by
    refine mem_addresses.mpr (Classical.byContradiction fun w => ?_)
    rw [State.link, State.slot_outside dock a d w] at h
    cases h
  refine ⟨⟨1, 5, 30, by decide +kernel⟩, ⟨3, 0, 2, by decide +kernel⟩, fun d k h e l => ?_, fun d k h e l => ?_⟩
  · have w := (show ∀ d ∈ addresses, dock.gateHere 2 0 d = false by decide +kernel) d (here 2 d l)
    rw [(dock.gateHere_iff 2 0 d).mpr ⟨k, h, e, l⟩] at w
    cases w
  · have w := (show ∀ d ∈ addresses, dock.pumpHere 5 0 d = false by decide +kernel) d (here 5 d l)
    rw [(dock.pumpHere_iff 5 0 d).mpr ⟨k, h, e, l⟩] at w
    cases w

/-- R180, R182: a gate's DENY is cleared and a READY pump suspended when their stations go SILENT, by a miss or with their arm. -/
theorem test_owners_of_silent_stations :
    (((dockGate { gate3 with mark := some { cmd := .deny, setAgain := false } }).isolate 2).gate 3).mark = none ∧
    (((dockGate { gate3 with mark := some { cmd := .strike, setAgain := false } }).isolate 2).gate 3).mark.isSome = true ∧
    (let s := (dockPump (pumpIn .ready (some sale203) [])).setStation 5 3 { link := .present, missed := 3 }
     ((s.stationBad 5 3).pump 1).state = .suspect ∧ ((s.stationBad 5 3).pump 1).suspectSince = some 17434860) := by decide +kernel

theorem witness_ArmModeFollowsItsTable :
    dock.Room ∧ 5 < 6 ∧ resultOf (.armModeEnable 1 (.fields 6)) dock = some .range ∧
    resultOf (.armModeEnable 1 (.fields 5)) dock = some .state ∧ resultOf (.armModeEnable 1 (.fields 0)) dock = some .done ∧
    resultOf (.armModeRestore 1 (.fields 6)) dock = some .range ∧ resultOf (.armModeRestore 1 (.fields 5)) dock = some .state ∧
    resultOf (.armModeDisable 1 (.fields 6)) dock = some .range ∧ resultOf (.armModeDisable 1 (.fields 0)) dock = some .state ∧
    resultOf (.armModeDisable 1 (.fields 5)) dock = some .done := ⟨dock_room, by decide +kernel⟩

/-- R190: the window in force is read when the frame has been sent. -/
theorem test_arm_request_sent :
    let s := dock.setArm 2 { dock.arm 2 with
      window := 40, inFlight := some { addr := 9, req := .poll, work := .priorityPoll, begun := false, window := 0 } }
    ((after (.armRequestSent 2) s).arm 2).inFlight =
      some { addr := 9, req := .poll, work := .priorityPoll, begun := true, window := 40 } := by decide +kernel

/-- R180: the fourth miss makes the post SILENT, told. -/
theorem test_reply_window_expiry :
    let t := after (.replyWindowExpiry 2) (inExchange (dock.setStation 2 9 { link := .present, missed := 3 }) 2 9 .poll .regularPoll)
    (t.slot 2 9).station = some { link := .silent, missed := 4 } ∧ (t.arm 2).inFlight = none ∧
    told t = [.stationSilent 2 9 .post 4] := by decide +kernel

theorem test_late_reply : (after (.lateReply 2 [0#8]) dock).arm 2 = dock.arm 2 := by decide +kernel

/-- An exchange with address 1 of a request. -/
def carrying (addr : Nat) (req : ArmRequest) (w : Work) : Exchange :=
  { addr := addr, req := req, work := w, begun := true, window := 12 }

theorem witness_ExchangeEventsActOnTheExchangeBegun :
    (dock.row 2 (carrying 1 (.gateStrike 5) .mark).addr = .gate 3 5 30 ∧ (carrying 1 (.gateStrike 5) .mark).req = .gateStrike 5 ∧
      dock.row 5 (carrying 3 .pumpStop .mark).addr = .pump 1 0 2 ∧ (carrying 3 (.pumpAuth 0 10532) .mark).req = .pumpAuth 0 10532 ∧
      dock.post? 2 (carrying 9 (.postSet false true false true) .mark).addr = some (postWith (drawing .live) offPoint) ∧
      (carrying 7 (.relayWrite 256 [0x41#8]) .relay).req = .relayWrite 256 [0x41#8] ∧
      (carrying 7 (.relayRead 256 16) .relay).req = .relayRead 256 16) ∧
    ((inExchange dock 5 3 (.pollPump 0 0) .priorityPoll).arm 5).inFlight =
      some { addr := 3, req := .pollPump 0 0, work := .priorityPoll, begun := true, window := 12 } ∧
    (dock.arm 5).inFlight = none ∧ 5 < 6 ∧ ArmRequest.pollPump 0 0 ≠ .probe ∧
    ((carrying 1 .probe .probe).req = .probe ∧ ((dock.arm 4).state = .isolated ∧ ¬ 15 ≤ (dock.arm 4).probes) ∧
      (let A := (dock.setArm 4 { dock.arm 4 with probes := 15 }).arm 4
       (some ReplyContent.ack).isSome = true ∧ A.state = .isolated ∧ 15 ≤ A.probes ∧ A.autoRestore = true)) ∧
    ((dock.slot 5 3).station = some { link := .present, missed := 0 }) ∧
    (((dock.setStation 5 3 { link := .silent, missed := 15 }).slot 5 3).station = some { link := .silent, missed := 15 } ∧
      Link.silent ≠ .present) := by decide +kernel

/-- The error count and state of arm 2 after a bad exchange at a count, with what is told. -/
def afterBad (n : Nat) (st : ArmState) : Nat × ArmState × List NoticeBody :=
  let t := (dock.setArm 2 { dock.arm 2 with errors := n, state := st }).errorsBad 2
  ((t.arm 2).errors, (t.arm 2).state, told t)

/-- The counts of 9.11: 90 to 98, 122 to 130, 247 to 255, and 255 past the top. -/
theorem test_error_count :
    afterBad 90 .active = (98, .active, [.armWarning 2 98]) ∧
    afterBad 122 .active = (130, .degraded, [.armState 2 .active .degraded .errors 130]) ∧
    afterBad 247 .degraded = (255, .degraded, []) ∧ afterBad 255 .degraded = (0, .isolated, [.armIsolated 2 .degraded 2]) ∧
    (let t := (dock.setArm 2 { dock.arm 2 with errors := 128, state := .degraded }).errorsGood 2
     (t.arm 2).errors = 127 ∧ (t.arm 2).state = .active) := by decide +kernel

/-- R183, R184: a probe in flight across a RESTORE counts when it ends, and the last one of sixteen restores an ISOLATED arm. -/
theorem test_probe_outcomes :
    ((after (.armModeRestore 1 (.fields 4)) dock).arm 4).probes = 0 ∧
    (((dock.setArm 4 { dock.arm 4 with state := .active }).probeOutcome 4 true).arm 4).probes = 1 ∧
    ((dock.setArm 4 { dock.arm 4 with probes := 15 }).probeOutcome 4 true |>.arm 4).state = .active := by decide +kernel

theorem witness_ErrorCountAndIsolation :
    5 < 6 ∧ ((dock.arm 2).state = .active ∧ (dock.arm 2).errors + 8 ≤ 255) ∧
    (((dock.setArm 2 { dock.arm 2 with errors := 247, state := .degraded }).arm 2).errors + 8 ≤ 255) ∧
    (255 < ((dock.setArm 2 { dock.arm 2 with errors := 248, state := .degraded }).arm 2).errors + 8) ∧
    ((dock.arm 0).state = .disabled ∧ (dock.arm 0).state ≠ .isolated) ∧ ((dock.arm 4).state = .isolated ∧ (dock.arm 4).probes < 15 ∧ (dock.arm 4).autoRestore = true) ∧
    (let A : Arm := { dock.arm 4 with probes := 15, autoRestore := false }
     A.state = .isolated ∧ A.probes = 15 ∧ A.autoRestore = false) ∧
    (let A : Arm := { dock.arm 4 with probes := 16, autoRestore := false }
     A.state = .isolated ∧ A.probes = 16) ∧
    (let A : Arm := { dock.arm 4 with probes := 15 }
     A.state = .isolated ∧ 15 ≤ A.probes ∧ A.autoRestore = true) := by decide +kernel

/-- R183: the probe goes to the anchor, the lowest station of the arm. -/
theorem test_probe_due :
    let t := after (.probeDue 4) (dock.setSlot 4 2 (present (.gate 5 5 30) none))
    (t.arm 4).inFlight.map (fun ex => (ex.addr, ex.req)) = some (2, .probe) := by decide +kernel

/-- R187: the sweep holds the gate and the post with a session, and its first poll begins. -/
theorem test_priority_sweep_due :
    let t := after (.prioritySweepDue 2) (dock.setArm 2 { dock.arm 2 with periodRunning := some 250 })
    (t.arm 2).sweep = some [9] ∧ (t.arm 2).inFlight.map (fun ex => (ex.addr, ex.work)) = some (1, .priorityPoll) := by decide +kernel

/-- R188: the poll of the pointer's station begins and the pointer moves to the next station. -/
theorem test_regular_slot :
    let t := after (.regularSlot 2) (dock.setArm 2 { dock.arm 2 with slotRunning := some 200, pointer := 9, state := .degraded })
    (t.arm 2).inFlight.map (fun ex => (ex.addr, ex.work)) = some (9, .regularPoll) ∧ (t.arm 2).pointer = 1 ∧
    (t.arm 2).slotRunning = some 400 := by decide +kernel

/-- The arbiter of R189 on arm 2: with a SAFETY mark at the post it carries the mark, with a due regular poll alone it polls the pointer's
station, with nothing due it chooses nothing; and an ISOLATED arm probes. -/
theorem witness_ArmTimersMakeWorkDue :
    (let m : PostMark := { power0 := false, water0 := false, power1 := false, water1 := false, safety := true, setAgain := true }
     let s := dock.setPost 2 9 { postWith (drawing .live) offPoint with mark := some m }
     2 < 6 ∧ (s.arm 2).inFlight = none ∧ (s.arm 2).state = .active ∧
     s.chooseWork 2 = some (9, .postSet false false false false, .mark)) ∧
    (dock.setArm 2 { dock.arm 2 with pollDue := true, state := .degraded }).chooseWork 2 = some (1, .poll, .regularPoll) ∧
    dock.chooseWork 5 = none ∧ ((inExchange dock 2 9 .poll .regularPoll).arm 2).inFlight ≠ none ∧ (dock.arm 0).state = .disabled ∧
    ((dock.arm 4).state = .isolated ∧ (dock.arm 4).probeDue = false ∧ { dock.arm 4 with probeDue := true }.probeDue = true) ∧
    (dock.row 2 1 = .gate 3 5 30 ∧ dock.row 5 3 = .pump 1 0 2 ∧ (dock.row 2 9).kind = .post ∧
      dock.post? 2 9 = some (postWith (drawing .live) offPoint)) ∧
    ((dock.arm 2).sweep ≠ some [] ∧
      (let A := (dock.setArm 2 { dock.arm 2 with sweep := some [], sweepWaiting := true }).arm 2
       A.sweep = some [] ∧ A.sweepWaiting = true)) := by decide +kernel

/-- R187: the sweep ends with its last poll's exchange, and the waiting one starts in that event with a fresh list. -/
theorem test_sweep_end :
    let s (waiting : Bool) := dock.setArm 2 { dock.arm 2 with
      sweep := some [], sweepWaiting := waiting
      inFlight := some { addr := 9, req := .poll, work := .priorityPoll, begun := true, window := 12 } }
    ((after (.replyWindowExpiry 2) (s false)).arm 2).sweep = none ∧
    (let t := after (.replyWindowExpiry 2) (s true)
     (t.arm 2).sweep = some [9] ∧ (t.arm 2).sweepWaiting = false ∧ (t.arm 2).inFlight.map (·.addr) = some 1) := by decide +kernel

theorem witness_ReplyFramesAreJudgedByAddressKindAndContent :
    255 < 256 ∧ (0 : Nat) ≠ 255 ∧ (List.replicate 24 0#8).length ≤ 24 ∧
    judgeReply .gate 255 .pumpStop (armFrame 255 0x82 []) = some .ack ∧
    judgeReply .gate 255 .pumpStop (armFrame 0 0x82 []) = none ∧
    judgeReply .post 1 (.relayRead 0 24) (armFrame 1 0x83 (List.replicate 24 0#8)) = some (.data (List.replicate 24 0#8)) := by
  decide +kernel

/-! ### Relayed transfers (10.5) -/

/-- The label write of 10.5: 40 bytes to address 7 of arms 1 and 3 from sub-address 256 in groups of 16. -/
def label (mask sub group : Nat) (wait : Bool) : RelayArgs :=
  { target := .arms mask 7, sub := sub, payload := .write (List.replicate 40 0x41#8), group := group, wait := wait }

/-- Three groups on each arm; without the wait flag the reply is ACCEPTED with the count. -/
theorem test_relay :
    let t := after (.relay 1 (.fields (label 10 256 16 true))) dock
    sentResult t = none ∧ (t.relays.map (fun q => q.transfers.map (fun x => (x.arm, x.total)))) = [[(1, 3), (3, 3)]] ∧
    (t.arm 1).inFlight.map (·.req) = some (.relayWrite 256 (List.replicate 16 0x41#8)) ∧
    bodyOf (.relay 1 (.fields (label 10 256 16 false))) dock = some (.groups 3) := by decide +kernel

/-- The groups of 10.5 lie at 256, 272 and 288, with 16, 16 and 8 bytes. -/
theorem test_relay_groups :
    let q : RelayRequest := {
      tag := 1, wait := true, addr := 7, sub := 256, group := 16, data := .write (List.replicate 40 0x41#8), transfers := [] }
    q.groupRequest 0 = .relayWrite 256 (List.replicate 16 0x41#8) ∧ q.groupRequest 1 = .relayWrite 272 (List.replicate 16 0x41#8) ∧
    q.groupRequest 2 = .relayWrite 288 (List.replicate 8 0x41#8) := by decide +kernel

theorem witness_RelayIsJudgedAndPlaced :
    dock.Room ∧
    ((1 ≤ 63 ∧ 63 < 64) ∧ (1 ≤ 48 ∧ 48 ≤ 48) ∧ (1 ≤ 16 ∧ 16 ≤ 16) ∧ 65488 + 48 - 1 ≤ 65535) ∧
    (resultOf (.relay 1 (.fields (label 0 256 16 true))) dock = some .range ∧
      resultOf (.relay 1 (.fields (label 64 256 16 true))) dock = some .range ∧
      resultOf (.relay 1 (.fields (label 2 65497 16 true))) dock = some .range ∧
      resultOf (.relay 1 (.fields (label 2 65496 16 false))) dock = some .accepted ∧
      resultOf (.relay 1 (.fields (label 2 256 17 true))) dock = some .range ∧
      resultOf (.relay 1 (.fields (label 2 256 0 true))) dock = some .range) ∧
    resultOf (.relay 1 (.fields { target := .arms 10 7, sub := 0, payload := .read 48, group := 16, wait := true })) dock =
      some .range ∧
    resultOf (.relay 1 (.fields { target := .arms 2 7, sub := 0, payload := .read 49, group := 16, wait := true })) dock =
      some .range ∧
    resultOf (.relay 1 (.fields (label 6 256 16 true))) dock = some .state ∧
    resultOf (.relay 1 (.fields (label 2 256 16 true))) { dock with refusals := [(1, 7)] } = some .denied ∧
    resultOf (.relay 1 (.fields (label 2 256 16 true))) (dock.setArm 1 { dock.arm 1 with state := .degraded }) = some .busy ∧
    (resultOf (.relay 1 (.fields { target := .berth 47, sub := 0, payload := .read 1, group := 1, wait := false })) dock =
        some .accepted ∧
      resultOf (.relay 1 (.fields { target := .berth 200, sub := 0, payload := .read 1, group := 1, wait := false })) dock =
        some .state ∧
      resultOf (.relay 1 (.fields { target := .berth 201, sub := 0, payload := .read 1, group := 1, wait := false })) dock =
        some .range) := ⟨dock_room, by decide +kernel⟩

/-! ### Tables (11.10) and the integrity scan -/

/-- The marina with a load open. -/
def loading (t : TableId) (rows : List (List Byte)) : State :=
  { dock with staging := some { table := t, rows := rows } }

/-- LOAD-OPEN (RATES) is answered with 8 rows; with a load open it is BUSY. -/
theorem test_load_open :
    let t := after (.loadOpen 1 (.fields 1)) dock
    sentBody t = some (.rowCount 8) ∧ (t.staging.map (fun l => l.rows.map List.length)) = some [8, 8, 8, 6, 4, 18, 8, 12] ∧
    resultOf (.loadOpen 1 (.fields 4)) (loading .rates rateRows) = some .busy := by decide +kernel

theorem test_load_row :
    let t := after (.loadRow 1 (.fields { index := 7, bytes := List.replicate 12 7#8 })) (loading .rates rateRows)
    (t.staging.map (fun l => l.rows.getD 7 [])) = some (List.replicate 12 7#8) := by decide +kernel

theorem test_load_discard : (after (.loadDiscard 1 (.fields ())) (loading .rates rateRows)).staging = none := by decide +kernel

theorem witness_LoadsAreOpenedWrittenAndDiscarded :
    dock.Room ∧ dock.staging = none ∧ (loading .rates rateRows).staging = some { table := .rates, rows := rateRows } ∧
    (resultOf (.loadOpen 1 (.fields 8)) dock = some .range ∧ resultOf (.loadOpen 1 (.fields 7)) dock = some .done ∧
      bodyOf (.loadOpen 1 (.fields 0)) dock = some (.rowCount 512)) ∧
    (resultOf (.loadRow 1 (.fields { index := 511, bytes := List.replicate 22 0#8 })) (loading .credentials []) = some .done ∧
      resultOf (.loadRow 1 (.fields { index := 512, bytes := List.replicate 22 0#8 })) (loading .credentials []) = some .range ∧
      resultOf (.loadRow 1 (.fields { index := 0, bytes := List.replicate 21 0#8 })) (loading .credentials []) = some .range) ∧
    (resultOf (.loadRow 1 (.fields { index := 3, bytes := List.replicate 6 0#8 })) (loading .rates rateRows) = some .done ∧
      resultOf (.loadRow 1 (.fields { index := 3, bytes := List.replicate 8 0#8 })) (loading .rates rateRows) = some .range ∧
      resultOf (.loadRow 1 (.fields { index := 8, bytes := List.replicate 12 0#8 })) (loading .rates rateRows) = some .range) ∧
    resultOf (.loadRow 1 (.fields { index := 29, bytes := List.replicate 12 0#8 })) (loading (.stations 5) []) = some .done ∧
    resultOf (.loadRow 1 (.fields { index := 30, bytes := List.replicate 12 0#8 })) (loading (.stations 5) []) = some .range ∧
    resultOf (.loadRow 1 (.fields { index := 0, bytes := [] })) dock = some .state ∧
    resultOf (.loadDiscard 1 (.fields ())) dock = some .state := ⟨dock_room, by decide +kernel⟩

/-- The table of 11.10 whose row 7 has minimum sale 800 above autonomous cap 500. -/
def badRates : List (List Byte) :=
  rateRows.set 7 (triples [800, 20000, 500, 1000])

/-- The refusals and the commit of 11.10. -/
theorem test_load_commit_rates :
    bodyOf (.loadCommit 1 (.fields (crc badRates.flatten ^^^ 1#16))) (loading .rates badRates) =
      some (.found (crc badRates.flatten)) ∧
    bodyOf (.loadCommit 1 (.fields (crc badRates.flatten))) (loading .rates badRates) = some (.failedRow .rates 7 none) ∧
    (let t := after (.loadCommit 1 (.fields (crc rateRows.flatten))) (loading .rates rateRows)
     t.rates.checksum = some (crc rateRows.flatten) ∧ t.rates.rows.toList = rateRows ∧ t.staging = none ∧
     sentResult t = some .done) := by decide +kernel

/-- A station table with one gate row, defaults for its strike time and hold grace. -/
def gateRows : List (List Byte) :=
  (List.replicate 30 (List.replicate 12 0#8)).set 4 ([2#8, 6#8] ++ List.replicate 10 0#8)

/-- R176, R178: the gate stands at arm 0, address 5, with strike time 5 and hold grace 30, its station UNSEEN. -/
theorem test_load_commit_stations :
    let t := dock.commitStations 0 gateRows 0x1111#16
    (t.gate 6).station = some (0, 5) ∧ (t.gate 6).strikeTime = some 5 ∧ (t.gate 6).holdGrace = some 30 ∧
    (t.slot 0 5).station = some { link := .unseen, missed := 0 } ∧ (t.arm 0).pointer = 5 ∧
    (t.arm 0).checksum = some 0x1111#16 := by decide +kernel

/-- R64, R114, R147, R170: empty rows on an arm remove its posts and leave its gate and its pump without a station. -/
theorem test_load_commit_empties_an_arm :
    let empty := List.replicate 30 (List.replicate 12 0#8)
    let g := ((dockGate { gate3 with monitor := .held, mode := .free }).setPontoon 2 { limit := 2, tracking := .suspended }).commitStations 2
      empty 0x1111#16
    (g.gate 3).station = none ∧ (g.gate 3).monitor = .idle ∧ (g.gate 3).strikeTime = some 5 ∧ g.post? 2 9 = none ∧
    told g = [.tracking 2 .on 0] ∧
    (let p := dock.commitStations 5 empty 0x1111#16
     (p.pump 1).station = none ∧ (p.pump 1).state = .offline ∧ (p.pump 1).closedVolume = some 6120) := by decide +kernel

/-- A credential table's rows, all empty but one. -/
def credLoad (row : List Byte) : List (List Byte) :=
  row :: List.replicate 511 (List.replicate 22 0#8)

theorem witness_LoadCommitReplacesOneTable :
    dock.Room ∧ dock.staging = none ∧ (loading .rates rateRows).staging = some { table := .rates, rows := rateRows } ∧
    crc rateRows.flatten ≠ crc rateRows.flatten ^^^ 1#16 ∧
    ((loading .credentials []).staging = some { table := .credentials, rows := [] } ∧ crc ([] : List (List Byte)).flatten = 0xFFFF#16) ∧
    ((loading (.stations 0) gateRows).staging = some { table := .stations 0, rows := gateRows } ∧ 0 < 6 ∧ 5 < 6 ∧
      (dock.arm 0).state = .disabled ∧ dock.stationFailure 0 gateRows = none ∧ (dock.arm 5).state ≠ .disabled) ∧
    ((dock.commitStations 0 gateRows 0x1111#16).row 0 5 = .gate 6 5 30 ∧ (dock.gate 6).station = none ∧
      (dock.gate 3).station = some (2, 1) ∧ (dock.pump 1).station = some (5, 3) ∧
      dock.post? 2 9 = some (postWith (drawing .live) offPoint) ∧ dock.post? 0 5 = none) ∧
    dock.stationFailure 0 (gateRows.set 29 [4#8]) = some (29, none) ∧
    dock.stationFailure 0 (gateRows.set 4 ([2#8, 3#8] ++ List.replicate 10 0#8)) = some (4, some (2, 0)) := ⟨dock_room, by decide +kernel⟩

/-- R209: the scan folds a row; at the last rate row the found check differs from the stored one and the table goes to FAULT. -/
theorem test_scan_row :
    let s := { dock with scan := { inRates := true, row := 7, crc := 0#16 } }
    let t := after .scanRow s
    t.rates.state = .fault ∧ t.scan = { inRates := false, row := 0, crc := 0xFFFF#16 } ∧
    told t = [.tableFault true 0x4321#16 (crcFold 0#16 (triples [500, 20000, 5000, 1000]))] ∧
    (after .scanRow dock).scan.row = 1 := by decide +kernel

theorem witness_ScanRowFoldsAndJudges :
    (dock.scan.inRates = false ∧ dock.scan.row < 511) ∧
    (let s := { dock with scan := { inRates := true, row := 7, crc := 0#16 } }
     7 ≤ s.scan.row ∧ s.scan.inRates = true ∧ s.rates.state = .valid ∧ s.rates.checksum = some 0x4321#16 ∧
     crcFold 0#16 (tabGet s.rates.rows [] 7) ≠ 0x4321#16) ∧
    (let s := { dock with scan := { inRates := false, row := 511, crc := 0#16 } }
     511 ≤ s.scan.row ∧ s.scan.inRates = false ∧ s.creds.state = .valid ∧ s.creds.checksum = some 0x1234#16 ∧
     crcFold 0#16 (tabGet s.creds.rows [] 511) ≠ 0x1234#16) ∧
    (let s := { State.reset with scan := { inRates := true, row := 7, crc := 0#16 } }
     7 ≤ s.scan.row ∧ s.scan.inRates = true ∧ s.rates.state ≠ .valid) ∧
    (let s := { State.reset with scan := { inRates := false, row := 511, crc := 0#16 } }
     511 ≤ s.scan.row ∧ s.scan.inRates = false ∧ s.creds.state ≠ .valid) := by decide +kernel

/-! ### Time, restart and the trunk -/

/-- R212: a strike end that the new time passes is judged in the event. -/
theorem test_time_set :
    let t := after (.timeSet 1 (.fields 4294967295)) (dockGate (released false .strikePending 17434865))
    t.clock = 4294967295 ∧ (t.gate 3).monitor = .idle ∧ sentBody t = some (.times 17434860 4294967295) := by decide +kernel

/-- R215, R192, R172: stations UNSEEN, a FUELLING pump SUSPECT, the notices and the load gone. -/
theorem test_restart :
    let s := { (dockPump (pumpIn .fuelling (some sale203) [])).post (.autonomous 30) with
      staging := some { table := .rates, rows := rateRows } }
    let t := after (.restart 1 (.fields ())) s
    t.notices.queue = [] ∧ t.notices.next = 1 ∧ t.staging = none ∧ (t.pump 1).state = .suspect ∧
    (t.pump 1).suspendedFrom = some .fuelling ∧ (t.slot 2 9).station = some { link := .unseen, missed := 0 } ∧
    sentResult t = some .done := by decide +kernel

/-- The relay request of 10.5 in flight, with the wait flag or without. -/
def labelRequest (wait : Bool) : RelayRequest :=
  { tag := 9, wait := wait, addr := 7, sub := 256, group := 16, data := .write (List.replicate 40 0x41#8)
    transfers := [Transfer.placed 1 3, Transfer.placed 3 3] }

theorem witness_TimeSetAndRestart :
    dock.Room ∧ 7 < 8 ∧ 3 < 4 ∧ 5 < 6 ∧
    ((after (.restart 1 (.fields ())) (dock.setArm 0 { dock.arm 0 with pointer := 30 })).arm 0).pointer = 1 ∧ (dock.arm 0).state = .disabled ∧ (dock.arm 5).state ≠ .disabled ∧
    told (after (.restart 1 (.fields ())) { dock with relays := [labelRequest true] }) =
      [.relayDone 9 (labelRequest true).restarted.report] := ⟨dock_room, by decide +kernel⟩

/-- R25, R211: midnight adds a night at berth 47; the largest time is followed by 0. -/
theorem test_clock_advance :
    let t := after .clockAdvance { dock with clock := 17452799 }
    t.clock = 17452800 ∧ (t.berth 47).feesPending = 1 ∧ (t.berth 12).feesPending = 0 ∧ t.trunk.silenceCount = 1 ∧
    (after .clockAdvance { dock with clock := 4294967295 }).clock = 0 := by decide +kernel

theorem witness_ClockAdvanceCountsAndMakesMidnight :
    dock.clock ≤ 4294967295 ∧ { dock with clock := 4294967295 }.clock ≤ 4294967295 := by decide +kernel

/-- R203: thirty seconds without a frame. -/
theorem test_trunk_silence_expiry :
    let s := { dock with trunk := { dock.trunk with silenceCount := 30 } }
    told (after .trunkSilenceExpiry s) = [.autonomous 30] ∧ (after .trunkSilenceExpiry s).trunk.link = .autonomous ∧
    (after .trunkSilenceExpiry { dock with trunk := { dock.trunk with silenceCount := 29 } }).trunk.link = .connected := by
  decide +kernel

theorem test_unknown_and_non_request :
    resultOf (.unknownRequest 1 0x7F) dock = some .unknown ∧
    (after (.nonRequestFrame 0 0x10) State.reset).trunk.link = .connected := by decide +kernel

/-- R200: a bad check is discarded, and reception goes on from the next start marker in the bytes: an unfinished frame there is kept. -/
theorem test_discarded_frame_and_inter_byte_timeout :
    (after (.discardedFrame [0xC3#8, 0x02#8, 0xC3#8, 0x65#8, 0x00#8, 0x00#8]) dock).trunk.rx =
      [0xC3#8, 0x65#8, 0x00#8, 0x00#8] ∧
    (after (.interByteTimeout [0xC3#8, 0x09#8, 0x01#8]) dock).trunk.rx = [] := by decide +kernel

/-- R200: a STATUS frame inside a frame with a wrong check, and one inside a frame cut off, are answered. -/
theorem test_frames_inside_a_discarded_frame :
    resultOf (.discardedFrame ([0xC3#8, 0x06#8] ++ statusFrame ++ [0x00#8, 0x00#8])) dock = some .done ∧
    resultOf (.interByteTimeout ([0xC3#8, 0x20#8] ++ statusFrame ++ [0xC3#8, 0x05#8])) dock = some .done ∧
    (after (.interByteTimeout ([0xC3#8, 0x20#8] ++ statusFrame ++ [0xC3#8, 0x05#8])) dock).trunk.rx = [0xC3#8, 0x05#8] := by
  decide +kernel

theorem witness_FramesThatAreNoRequests :
    dock.Room ∧ ¬ (2 ≤ (1#8).toNat ∧ (1#8).toNat ≤ 242) ∧ ¬ (2 ≤ (243#8).toNat ∧ (243#8).toNat ≤ 242) ∧
    (2 ≤ (2#8).toNat ∧ (2#8).toNat ≤ 242) ∧ (2 ≤ (242#8).toNat ∧ (242#8).toNat ≤ 242) ∧
    [0x01#8, 0x65#8, 0x00#8, 0x00#8].length = (2#8).toNat + 2 ∧ [0x01#8, 0x65#8, 0x00#8].length < (2#8).toNat + 2 ∧
    badFrame statusFrame = false ∧ 0xC3#8 ∉ [0x00#8, 0xC2#8] ∧ [0x65#8, 0x00#8].length < (101#8).toNat + 2 ∧
    ((2#8).toNat + 2 ≤ (statusFrame.drop 2).length ∧ natAt (statusFrame.drop 2) (2#8).toNat 2 =
      (crc (2#8 :: (statusFrame.drop 2).take (2#8).toNat)).toNat) ∧
    natAt [0x01#8, 0x65#8, 0x00#8, 0x00#8] (2#8).toNat 2 ≠ (crc [0x02#8, 0x01#8, 0x65#8]).toNat := ⟨dock_room, by decide +kernel⟩

/-- R201: the seventeenth reply finds no room. -/
theorem witness_RequestsNotJudgedAreDiscardedOrRefused :
    (requestTag (.status 255 (.fields ())) = some 255 ∧ ¬ fullReplies.Room) ∧
    (unsuitedRequest (.status 1 .unsuited) = some (1, 0x65) ∧ dock.Room) ∧
    (after (.status 255 (.fields ())) fullReplies).trunk.discarded = 1 ∧ resultOf (.status 1 .unsuited) dock = some .range :=
  ⟨⟨rfl, fun h => absurd (show fullReplies.trunk.replies.length + fullReplies.withheld < 16 from h) (by decide +kernel)⟩,
    ⟨rfl, dock_room⟩, by decide +kernel⟩

/-- R202: the reply goes before the notice, and the next frame follows a sent one. -/
theorem test_trunk_frame_sent :
    let s := fullReplies.post (.autonomous 30)
    let t := after .trunkFrameSent s
    sentResult t = some .done ∧ t.trunk.replies.length = 15 ∧
    told (after .trunkFrameSent ({ s with trunk := { s.trunk with replies := [] } })) = [.autonomous 30] := by decide +kernel

theorem witness_SendSideChoosesTheNextFrame :
    fullReplies.trunk.sending.isSome = true ∧
    (let s := { fullReplies with trunk := { fullReplies.trunk with sending := none } }
     s.trunk.sending = none ∧ s.trunk.replies.isEmpty = false) ∧
    (let s := { dock with relays := [labelRequest true] }
     labelRequest true ∈ s.relays ∧ s.trunk.sending = none ∧ s.trunk.replies = [] ∧ (labelRequest true).wait = true) ∧
    (let s := dock.post (.autonomous 30)
     s.trunk.sending = none ∧ s.trunk.replies = [] ∧ (∀ q ∈ s.relays, q.wait = false) ∧ s.trunk.link = .connected ∧
     s.notices.queue = [{ number := 0, time := 17434860, body := .autonomous 30 }]) ∧
    State.reset.trunk.link ≠ .connected ∧ dock.notices.queue = [] := by decide +kernel

/-- A queue of one URGENT notice and `n` ROUTINE ones, as in 11.11. -/
def night (n : Nat) : NoticeQueue :=
  { queue := { number := 4100, time := 0, body := .autonomous 30 } ::
      (List.range n).map (fun i => { number := 4101 + i, time := 0, body := .armReachable 0 i })
    next := 4101 + n, dropped := 0 }

/-- The three postings of 11.11 on the full queue. -/
theorem test_notice_overflow :
    let a := (night 63).post 0 (.armReachable 0 63)
    let b := a.post 0 (.heldOpen 3 2 0)
    let c := b.post 0 (.armReachable 0 64)
    a.next = 4165 ∧ a.dropped = 1 ∧ a.queue = (night 63).queue ∧
    (b.dropped = 2 ∧ b.queue.length = 64 ∧ (b.queue.getD 1 { number := 0, time := 0, body := .autonomous 0 }).number = 4102 ∧
      b.queue.getLast?.map (·.number) = some 4165) ∧
    c.dropped = 3 ∧ c.next = 4167 ∧ c.queue = b.queue := by decide +kernel

theorem witness_NoticeQueueOverflow :
    ((night 62).queue.length = 63 ∧ (night 63).queue.length = 64 ∧ (night 63).next ≤ 65535 ∧
      ({ night 63 with next := 65535 }).next ≤ 65535) ∧
    (NoticeBody.armReachable 0 1).cls = .routine ∧ (NoticeBody.autonomous 30).cls = .urgent ∧
    ((night 63).queue = [{ number := 4100, time := 0, body := .autonomous 30 }] ++
      { number := 4101, time := 0, body := .armReachable 0 0 } :: (night 63).queue.drop 2) ∧
    ((List.replicate 64 ({ number := 0, time := 0, body := .autonomous 30 } : Notice)).length = 64 ∧
      (List.replicate 64 ({ number := 0, time := 0, body := .autonomous 30 } : Notice)) =
        { number := 0, time := 0, body := .autonomous 30 } ::
          List.replicate 63 ({ number := 0, time := 0, body := .autonomous 30 } : Notice)) := by decide +kernel

/-! ### The laws -/

/-- A step with one waiting clock advance answers a next state. -/
theorem step_clock (s : State) : step (s.withQueue [.clockAdvance]) = .next (after .clockAdvance (s.withQueue [])) := rfl

theorem witness_EveryStepKeepsSettingsAndQueues :
    step (dock.withQueue [.clockAdvance]) = .next (after .clockAdvance (dock.withQueue [])) ∧
    Law .settings (dock.withQueue [.clockAdvance]) ∧ Law .queues (dock.withQueue [.clockAdvance]) :=
  ⟨step_clock _, by
      refine ⟨?_, ?_, ?_, ?_, ?_, ?_, ?_, ?_, ?_, ?_, ?_,
        tabGet_all _ _ (by unfold ArmSettingsOk; decide +kernel) (by unfold ArmSettingsOk; decide +kernel),
        tabGet_all (P := fun p : Pontoon => p.limit ≤ 256) _ _ (by decide +kernel) (by decide +kernel)⟩ <;> decide +kernel,
    by unfold Law QueueLaw RepliesAtMost; decide +kernel⟩

/-- The hold of account 203's sale (R36). -/
def hold203 : Hold :=
  { id := 0, pump := 1, amount := 20000 }

/-- Account 203 at berth 131, with its sale at pump 1, FUELLING on arm 5. -/
def oneSale : State :=
  ((((State.reset.setBerth 131 { heldBerth .occupied with occupant := some 203 }).setAccount 203
    (accountOf .exhausted (some .exhausted) 14960 5000 [hold203])).setArm 5 activeArm).setSlot 5 3 (present (.pump 1 0 2) none)).setPump 1
      (pumpIn .fuelling (some sale203) [])

/-- The arms, slots, pumps and accounts of that state. -/
theorem oneSale_arm (a : Nat) :
    oneSale.arm a = if a = 5 then activeArm.setSlot 3 (present (.pump 1 0 2) none) else Arm.reset := by
  have e : oneSale.arm a = tabGet (tabSet (tabSet State.reset.arms 5 activeArm) 5
      ((tabGet (tabSet State.reset.arms 5 activeArm) Arm.reset 5).setSlot 3 (present (.pump 1 0 2) none))) Arm.reset a := by
    simp only [oneSale, State.arm, State.setSlot, State.setPump_arms, State.setArm_arms, State.setAccount_arms, State.setBerth_arms]
  rw [e, tabGet_tabSet, tabGet_tabSet, tabGet_tabSet]
  by_cases h : a = 5
  · subst h; rfl
  · rw [if_neg (fun k => h k.1.symm), if_neg (fun k => h k.1.symm), if_neg h]
    exact tabGet_replicate ..

theorem oneSale_slot (a d : Nat) : oneSale.slot a d = if a = 5 ∧ d = 3 then present (.pump 1 0 2) none else Slot.reset := by
  unfold State.slot
  rw [oneSale_arm]
  have r (k : Nat) : activeArm.slot k = Slot.reset := numGet_replicate ..
  split
  · rw [Arm.slot_setSlot, r]
    by_cases h : d = 3
    · subst h; simp_all
    · rw [if_neg (fun k => h k.1.symm), if_neg (fun k => h k.2)]
  · rw [if_neg (fun k => by simp_all)]
    exact numGet_replicate ..

theorem oneSale_pump (p : Nat) : oneSale.pump p = if p = 1 then pumpIn .fuelling (some sale203) [] else Pump.reset := by
  unfold oneSale
  rw [State.pump_setPump]
  by_cases h : p = 1
  · subst h; rfl
  · rw [if_neg h, if_neg (fun k => h k.1.symm)]
    exact tabGet_replicate ..

theorem oneSale_account (n : Nat) :
    oneSale.account n = if n = 203 then accountOf .exhausted (some .exhausted) 14960 5000 [hold203] else Account.reset := by
  have e : oneSale.account n =
      numGet (numSet State.reset.accounts 203 (accountOf .exhausted (some .exhausted) 14960 5000 [hold203])) Account.reset n := by
    simp only [oneSale, State.account, State.setSlot, State.setPump_accounts, State.setArm_accounts, State.setAccount_accounts,
      State.setBerth_accounts]
  rw [e, numGet_numSet]
  by_cases h : n = 203
  · subst h; rfl
  · rw [if_neg h, if_neg (fun k => h k.1.symm)]
    exact numGet_replicate ..

/-- The occupant's account is not CLOSED, and the one hold pairs with the one sale (R4, R36). -/
theorem oneSale_laws : Law .occupants oneSale ∧ Law .holds oneSale := by
  have holder (p : Nat) : oneSale.holder p = if p = 1 then some (203, hold203) else none := by
    unfold State.holder
    rw [oneSale_pump]
    split
    · rename_i h; subst h; rfl
    · rfl
  have row (a d : Nat) : oneSale.row a d = if a = 5 ∧ d = 3 then .pump 1 0 2 else .none := by
    unfold State.row
    rw [oneSale_slot]
    split <;> rfl
  have here (a d : Nat) (h : oneSale.isPresent a d = true) : a = 5 ∧ d = 3 := by
    unfold State.isPresent State.link at h
    rw [oneSale_slot] at h
    by_cases k : a = 5 ∧ d = 3
    · exact k
    · rw [if_neg k] at h; cases h
  refine ⟨fun b n h => ?_, ⟨⟨fun n e => ?_, fun n => ?_, fun n h => ?_⟩, fun p => ?_, fun p hp a d => ?_, fun p h => ?_, fun p h => ?_,
    fun a d h => ?_, fun a _ => ?_⟩⟩
  · have e : oneSale.berth b = numGet (numSet State.reset.berths 131 { heldBerth .occupied with occupant := some 203 }) Berth.reset b := by
      simp only [oneSale, State.berth, State.setSlot, State.setPump_berths, State.setArm_berths, State.setAccount_berths,
        State.setBerth_berths]
    rw [e, numGet_numSet] at h
    split at h
    · cases h
      rw [oneSale_account]; decide
    · rw [show numGet State.reset.berths Berth.reset b = Berth.reset from numGet_replicate ..] at h; cases h
  · rw [oneSale_account, holder]
    by_cases h : n = 203
    · subst h
      constructor
      · intro k
        cases List.mem_singleton.mp k
        rfl
      · intro k
        split at k <;> cases k
        exact List.mem_singleton.mpr rfl
    · rw [if_neg h]
      constructor
      · intro k; cases k
      · intro k
        split at k <;> cases k
        exact absurd rfl h
  · rw [oneSale_account]
    split <;> decide
  · rw [oneSale_account] at h ⊢
    split at h
    · cases h
    · rename_i k; rw [if_neg k]; rfl
  · rw [oneSale_pump]
    split
    · exact ⟨fun _ => ⟨sale203, rfl, fun _ => ⟨rfl, rfl⟩⟩, fun q k => (by cases k)⟩
    · exact ⟨fun k => (by cases k), fun q k => (by cases k)⟩
  · rw [oneSale_pump, row]
    by_cases h : p = 1
    · subst h
      by_cases k : a = 5 ∧ d = 3
      · obtain ⟨rfl, rfl⟩ := k; decide
      · rw [if_neg k]
        constructor
        · intro e; cases e; exact absurd ⟨rfl, rfl⟩ k
        · intro e; cases e
    · rw [if_neg h]
      constructor
      · intro e; cases e
      · intro e
        split at e
        · exact absurd (Claim.pump.inj (List.mem_singleton.mp e)) h
        · cases e
  · rw [oneSale_pump] at h ⊢
    split at h
    · rename_i k; subst k
      exact ⟨5, 3, rfl, by rw [oneSale_arm]; decide⟩
    · cases h
  · rw [oneSale_pump] at h
    split at h <;> cases h
  · obtain ⟨rfl, rfl⟩ := here a d h
    rw [oneSale_arm]; decide
  · rw [oneSale_arm]
    split <;> rfl

theorem witness_EveryStepKeepsBerthsAndAccounts :
    step (oneSale.withQueue [.clockAdvance]) = .next (after .clockAdvance (oneSale.withQueue [])) ∧
    Law .berths (oneSale.withQueue [.clockAdvance]) ∧ Law .accounts (oneSale.withQueue [.clockAdvance]) ∧
    Law .occupants (oneSale.withQueue [.clockAdvance]) ∧ Law .holds (oneSale.withQueue [.clockAdvance]) :=
  ⟨step_clock _, numGet_all _ _ (by unfold BerthOk; decide +kernel) (by unfold BerthOk; decide +kernel),
    numGet_all _ _ (by unfold AccountOk; decide +kernel) (by unfold AccountOk; decide +kernel), oneSale_laws.1, oneSale_laws.2⟩

/-- The crowd with both pontoons at their person limits. -/
def atLimits : State :=
  crowded.setPontoon 1 { limit := 1, tracking := .on }

/-- One post on arm 2, and pump 1 BLOCKED. -/
def onePost : State :=
  (State.reset.setSlot 2 9 (present postRow (some (postWith (drawing .live) offPoint)))).setPump 1
    { pumpIn .blocked (some sale203) [sale57, sale203] with protect := true }

/-- The slots of that state. -/
theorem onePost_slot (a d : Nat) :
    onePost.slot a d = if a = 2 ∧ d = 9 then present postRow (some (postWith (drawing .live) offPoint)) else Slot.reset := by
  have e : onePost.slot a d =
      (State.reset.setSlot 2 9 (present postRow (some (postWith (drawing .live) offPoint)))).slot a d := rfl
  rw [e, State.slot_setSlot]
  have r : State.reset.slot a d = Slot.reset := by
    simp [State.slot, State.arm, Arm.slot, State.reset, tabGet_replicate, Arm.reset, numGet_replicate]
  rw [r]
  by_cases h : a = 2 ∧ d = 9
  · obtain ⟨rfl, rfl⟩ := h
    simp
  · rw [if_neg h, if_neg (fun k => h ⟨k.1.1.symm, k.2.1.symm⟩)]

/-- The service points of that state are as R89 says. -/
theorem onePost_points : PointLaw onePost := by
  intro a d p h
  have e : (onePost.slot a d).post = some p := h
  rw [onePost_slot] at e
  split at e
  · cases e
    refine ⟨⟨rfl, by decide, by decide, fun q k => ?_⟩, ⟨rfl, by decide, by decide, fun q k => ?_⟩,
      ⟨rfl, by decide, by decide, fun q k => ?_⟩, ⟨rfl, by decide, by decide, fun q k => ?_⟩⟩ <;> cases k
    decide
  · cases e

/-- R105 and R92 on a berth with a LIVE POWER point and an OFF WATER point; the residues on both sides of the rounding (R128). -/
theorem witness_DepartureCloseTimeoutForcesTheDeparture :
    PointLaw onePost ∧
    ((power47 ∈ onePost.berthPoints 47 ∧ onePost.point? power47 = some (drawing .live)) ∧
      (water47 ∈ onePost.berthPoints 47 ∧ onePost.point? water47 = some offPoint)) ∧
    (drawing .live).session = some session ∧ power47.side ≤ 1 ∧ 500 ≤ session.residue ∧
    (dockWith { drawing .live with session := some { session with residue := 499 } } offPoint).point? power47 =
      some { drawing .live with session := some { session with residue := 499 } } :=
  ⟨onePost_points, by decide +kernel, by decide +kernel, by decide +kernel, by decide +kernel, by decide +kernel⟩

theorem witness_EveryStepKeepsPresenceAndRows :
    step (atLimits.withQueue [.clockAdvance]) = .next (after .clockAdvance (atLimits.withQueue [])) ∧
    Law .presence (atLimits.withQueue [.clockAdvance]) ∧
    step (onePost.withQueue [.clockAdvance]) = .next (after .clockAdvance (onePost.withQueue [])) ∧
    Law .rows (onePost.withQueue [.clockAdvance]) := by
  have row (a d : Nat) : ((onePost.withQueue [.clockAdvance]).row a d).claims = [] ∨
      (a = 2 ∧ d = 9) ∧ ((onePost.withQueue [.clockAdvance]).row a d).claims = [.berth 47, .berth 48] := by
    have e : (onePost.withQueue [.clockAdvance]).row a d = (onePost.slot a d).row := rfl
    rw [e, onePost_slot]
    by_cases h : a = 2 ∧ d = 9
    · exact .inr ⟨h, by rw [if_pos h]; rfl⟩
    · exact .inl (by rw [if_neg h]; rfl)
  refine ⟨step_clock _, by unfold Law PresenceLaw; decide +kernel, step_clock _, fun a d _ => ?_, fun a d a' d' c _ _ h k => ?_⟩
  · rcases row a d with e | ⟨-, e⟩ <;> rw [e] <;> decide
  · rcases row a d with e | ⟨⟨rfl, rfl⟩, -⟩
    · rw [e] at h; cases h
    · rcases row a' d' with e | ⟨⟨rfl, rfl⟩, -⟩
      · rw [e] at k; cases k
      · exact ⟨rfl, rfl⟩

theorem witness_EveryStepKeepsPointsArmsAndPumps :
    step (onePost.withQueue [.clockAdvance]) = .next (after .clockAdvance (onePost.withQueue [])) ∧
    Law .points (onePost.withQueue [.clockAdvance]) ∧ Law .arms (onePost.withQueue [.clockAdvance]) ∧
    Law .pumps (onePost.withQueue [.clockAdvance]) := by
  refine ⟨step_clock _, fun a d p h => ?_, fun a => ⟨?_, ?_, fun d st h => ?_, ?_, ?_⟩,
    tabGet_all _ _ (by unfold PumpOk SaleOk; decide +kernel) (by unfold PumpOk SaleOk; decide +kernel)⟩
  · exact onePost_points a d p h
  · exact tabGet_all (P := fun A : Arm => A.errors ≤ 255) _ _ (by decide +kernel) (by decide) a
  · exact tabGet_all (P := fun A : Arm => A.probes ≤ 16) _ _ (by decide +kernel) (by decide) a
  · have e : (onePost.slot a d).station = some st := h
    rw [onePost_slot] at e
    split at e <;> cases e
    decide
  · exact tabGet_all (P := fun A : Arm => A.state = .isolated → ∀ ex, A.inFlight = some ex → ex.req = .probe) _ _
      (fun A h => by
        have k : A.inFlight = none := (by decide +kernel : ∀ A ∈ onePost.arms.toList, A.inFlight = none) A h
        intro _ ex e; rw [k] at e; cases e) (fun _ ex e => by cases e) a
  · exact tabGet_all (P := fun A : Arm => A.state = .disabled → A.inFlight = none) _ _ (by decide +kernel) (by decide) a

end Sys2Proof.Tests
end

/-! PROOFS. The Berth Register's requests judged (R6, R8, R11, R16, R17): what the end of a request does with a judgement, each judgement
as a case split on the record's fields, and the statements O4 and O6. -/

namespace Sys2Proof.Machine

/-! ### The end of a request with room for its reply (R201, R202) -/

@[simp] theorem State.frameTaken_berth (s : State) (n : Nat) : s.frameTaken.berth n = s.berth n := rfl
@[simp] theorem State.frameTaken_account (s : State) (n : Nat) : s.frameTaken.account n = s.account n := rfl

/-- Room in the reply list is judged after the link has taken the frame, which leaves the list as it was. -/
theorem State.Room.replyRoom {s : State} (h : s.Room) : s.frameTaken.replyRoom = true :=
  decide_eq_true h

/-- The state a request ends in once it is judged: its reply is placed, if it has one now, and the send side chooses. -/
def Judged.ended (tag code : Nat) : Judged → State
  | (t, some r) => t.answered tag code r.result r.body
  | (t, none) => t.sendNext

@[simp] theorem Judged.ended_refuse (tag code : Nat) (s : State) (r : Result) :
    Judged.ended tag code (refuse s r) = s.answered tag code r .empty := rfl

@[simp] theorem Judged.ended_doneWith (tag code : Nat) (s : State) :
    Judged.ended tag code (doneWith s) = s.answered tag code .done .empty := rfl

@[simp] theorem Judged.ended_ite (tag code : Nat) (c : Prop) [Decidable c] (x y : Judged) :
    Judged.ended tag code (if c then x else y) = if c then x.ended tag code else y.ended tag code :=
  apply_ite ..

/-- With room for the reply, the outcome of a request is that of its judgement. -/
theorem finish_takeRequest {α : Type} {s : State} (h : s.Room) (code tag : Nat) (f : α) (judge : State → α → Judged) :
    finish (takeRequest code tag (.fields f) judge s) = .next ((judge s.frameTaken f).ended tag code) := by
  match hj : judge s.frameTaken f with
  | (t, some r) => rw [takeRequest_answered h.replyRoom hj]; rfl
  | (t, none) => rw [takeRequest_withheld h.replyRoom hj]; rfl

/-! ### Ranges and flags as facts about the fields -/

@[simp] theorem isBerth_iff (n : Nat) : isBerth n = true ↔ 1 ≤ n ∧ n ≤ 200 := decide_eq_true_iff

@[simp] theorem isBerth_false_iff (n : Nat) : isBerth n = false ↔ ¬ (1 ≤ n ∧ n ≤ 200) := decide_eq_false_iff_not

@[simp] theorem isAccount_iff (n : Nat) : isAccount n = true ↔ 1 ≤ n ∧ n ≤ 256 := decide_eq_true_iff

/-- A CLOSED or BARRED account may not take a berth (R6, R8). -/
theorem State.accountAdmits_false_iff (s : State) (n : Nat) :
    s.accountAdmits n = false ↔ (s.account n).standing = .closed ∨ (s.account n).standing = .barred := by
  simp only [State.accountAdmits, Bool.and_eq_false_iff, bne_eq_false_iff_eq]

theorem BerthState.takesPlan_false_iff (q : BerthState) :
    q.takesPlan = false ↔ ¬ (q = .reserved ∨ q = .overdue ∨ q = .occupied) := by
  cases q <;> decide

theorem BerthState.isHeld_iff (q : BerthState) :
    q.isHeld = true ↔ q = .reserved ∨ q = .overdue ∨ q = .occupied ∨ q = .departing := by
  cases q <;> decide

theorem CredKind.hasBerth_iff (k : CredKind) : k.hasBerth = true ↔ k = .crew ∨ k = .guest := by
  cases k <;> decide

/-- A matched row is within its window where it has none, or where the time lies in it (R54). -/
theorem CredRow.within_of_window {row : CredRow} {now : Nat} (h : ∀ w, row.window = some w → w.1 ≤ now ∧ now < w.2) :
    row.within now = true := by
  unfold CredRow.within
  split
  · rfl
  · exact decide_eq_true (h _ ‹_›)

/-! ### RESERVE (R6) -/

theorem judgeReserve_eq (s : State) (f : ReserveArgs) :
    judgeReserve s f =
      if ¬ ((1 ≤ f.berth ∧ f.berth ≤ 200) ∧ 1 ≤ f.account ∧ f.account ≤ 256) then refuse s .range
      else if (s.berth f.berth).state ≠ .free then refuse s .state
      else if (s.account f.account).standing = .closed ∨ (s.account f.account).standing = .barred then refuse s .denied
      else doneWith (s.setBerth f.berth ((s.berth f.berth).reserved f)) := by
  simp only [judgeReserve, isBerth_iff, isAccount_iff, State.accountAdmits_false_iff]

/-- Settles O4: with room for the reply the request ends as its judgement does (R6), and the taken frame leaves berths and accounts alone. -/
theorem reserveHoldsAFreeBerth : Obligations.ReserveHoldsAFreeBerth := by
  intro s tag f room
  refine (finish_takeRequest room 0x10 tag f judgeReserve).trans (congrArg _ ?_)
  rw [judgeReserve_eq, State.frameTaken_berth, State.frameTaken_account]
  simp only [Judged.ended_ite, Judged.ended_refuse, Judged.ended_doneWith, Berth.reserved]

/-! ### DEPARTURE-SET (R11) -/

theorem judgeDepartureSet_eq (s : State) (f : DepartureArgs) :
    judgeDepartureSet s f =
      if ¬ (1 ≤ f.berth ∧ f.berth ≤ 200) then refuse s .range
      else if ¬ ((s.berth f.berth).state = .reserved ∨ (s.berth f.berth).state = .overdue ∨ (s.berth f.berth).state = .occupied) then
        refuse s .state
      else doneWith (s.setBerth f.berth { (s.berth f.berth).plan f.planned with overstay := false }) := by
  simp only [judgeDepartureSet, isBerth_false_iff, BerthState.takesPlan_false_iff]

theorem exec_departureSet {s : State} (room : s.Room) (tag : Nat) (f : DepartureArgs) :
    let b := s.berth f.berth
    exec (.departureSet tag (.fields f)) s = .next (
      if ¬ (1 ≤ f.berth ∧ f.berth ≤ 200) then s.frameTaken.answered tag 0x12 .range .empty
      else if ¬ (b.state = .reserved ∨ b.state = .overdue ∨ b.state = .occupied) then s.frameTaken.answered tag 0x12 .state .empty
      else (s.frameTaken.setBerth f.berth { b.plan f.planned with overstay := false }).answered tag 0x12 .done .empty) := by
  refine (finish_takeRequest room 0x12 tag f judgeDepartureSet).trans (congrArg _ ?_)
  rw [judgeDepartureSet_eq, State.frameTaken_berth]
  simp only [Judged.ended_ite, Judged.ended_refuse, Judged.ended_doneWith]

/-! ### BERTH-SET (R16) -/

theorem judgeBerthSet_of_class {f : BerthSetArgs} {p : PowerClass} (h : powerClassOf f.powerClass = some p) (s : State) :
    judgeBerthSet s f =
      if ¬ ((1 ≤ f.berth ∧ f.berth ≤ 200) ∧ f.lengthClass ≤ 5) then refuse s .range
      else if ((s.berth f.berth).state = .reserved ∨ (s.berth f.berth).state = .overdue ∨ (s.berth f.berth).state = .occupied ∨
            (s.berth f.berth).state = .departing) ∧
          (p ≠ (s.berth f.berth).powerClass ∨ f.water ≠ (s.berth f.berth).water) then refuse s .denied
      else doneWith (s.setBerth f.berth ((s.berth f.berth).configured f p)) := by
  simp only [judgeBerthSet, h, isBerth_iff, BerthState.isHeld_iff]

theorem judgeBerthSet_of_no_class {f : BerthSetArgs} (h : powerClassOf f.powerClass = none) (s : State) :
    judgeBerthSet s f = refuse s .range := by
  simp only [judgeBerthSet, h]

theorem exec_berthSet_of_class {s : State} (room : s.Room) (tag : Nat) {f : BerthSetArgs} {p : PowerClass}
    (h : powerClassOf f.powerClass = some p) :
    let b := s.berth f.berth
    exec (.berthSet tag (.fields f)) s = .next (
      if ¬ ((1 ≤ f.berth ∧ f.berth ≤ 200) ∧ f.lengthClass ≤ 5) then s.frameTaken.answered tag 0x14 .range .empty
      else if (b.state = .reserved ∨ b.state = .overdue ∨ b.state = .occupied ∨ b.state = .departing) ∧
          (p ≠ b.powerClass ∨ f.water ≠ b.water) then
        s.frameTaken.answered tag 0x14 .denied .empty
      else (s.frameTaken.setBerth f.berth (b.configured f p)).answered tag 0x14 .done .empty) := by
  refine (finish_takeRequest room 0x14 tag f judgeBerthSet).trans (congrArg _ ?_)
  rw [judgeBerthSet_of_class h, State.frameTaken_berth]
  simp only [Judged.ended_ite, Judged.ended_refuse, Judged.ended_doneWith]

theorem exec_berthSet_of_no_class {s : State} (room : s.Room) (tag : Nat) {f : BerthSetArgs}
    (h : powerClassOf f.powerClass = none) :
    exec (.berthSet tag (.fields f)) s = .next (s.frameTaken.answered tag 0x14 .range .empty) := by
  refine (finish_takeRequest room 0x14 tag f judgeBerthSet).trans (congrArg _ ?_)
  rw [judgeBerthSet_of_no_class h, Judged.ended_refuse]

/-! ### CLOSE and OPEN (R17) -/

theorem moveBerth_eq (source target : BerthState) (s : State) (b : Nat) :
    moveBerth source target s b =
      if ¬ (1 ≤ b ∧ b ≤ 200) then refuse s .range
      else if (s.berth b).state ≠ source then refuse s .state
      else doneWith (s.setBerth b { s.berth b with state := target }) := by
  simp only [moveBerth, isBerth_false_iff]

/-- CLOSE and OPEN are one move of a berth between FREE and CLOSED; only the kind code and the two states differ. -/
theorem finish_moveBerth {s : State} (room : s.Room) (code tag b : Nat) (source target : BerthState) :
    finish (takeRequest code tag (.fields b) (moveBerth source target) s) = .next (
      if ¬ (1 ≤ b ∧ b ≤ 200) then s.frameTaken.answered tag code .range .empty
      else if (s.berth b).state ≠ source then s.frameTaken.answered tag code .state .empty
      else (s.frameTaken.setBerth b { s.berth b with state := target }).answered tag code .done .empty) := by
  rw [finish_takeRequest room, moveBerth_eq, State.frameTaken_berth]
  simp only [Judged.ended_ite, Judged.ended_refuse, Judged.ended_doneWith]

/-! ### A CLOSED berth (R17) -/

theorem judgeReserve_of_closed {s : State} {f : ReserveArgs} (hb : 1 ≤ f.berth ∧ f.berth ≤ 200)
    (ha : 1 ≤ f.account ∧ f.account ≤ 256) (hc : (s.berth f.berth).state = .closed) : judgeReserve s f = refuse s .state := by
  have notFree : (s.berth f.berth).state ≠ .free := by rw [hc]; decide
  rw [judgeReserve_eq, if_neg (not_not_intro ⟨hb, ha⟩), if_pos notFree]

theorem judgeCheckIn_of_closed {s : State} {f : CheckInArgs} (hb : 1 ≤ f.berth ∧ f.berth ≤ 200) (ha : f.account ≤ 256)
    (hc : (s.berth f.berth).state = .closed) : judgeCheckIn s f = refuse s .state := by
  have inRange : isBerth f.berth = true ∧ f.account ≤ 256 := ⟨(isBerth_iff _).mpr hb, ha⟩
  have notFree : (s.berth f.berth).state ≠ .free := by rw [hc]; decide
  have notAwaited : ¬ (s.berth f.berth).state.isAwaited = true := by rw [hc]; decide
  unfold judgeCheckIn
  rw [if_neg (not_not_intro inRange), if_neg notFree, if_neg notAwaited]

/-- No pontoon admits to a CLOSED berth: it is not held, bound there or not (R69, check 5). -/
theorem State.berthAdmits_of_closed {s : State} {b : Nat} (h : (s.berth b).state = .closed) (p : Nat) :
    s.berthAdmits p (some b) = false := by
  have notHeld : (s.berth b).state.isHeld = false := by rw [h]; rfl
  simp only [State.berthAdmits, notHeld, Bool.and_false]

/-- A row that passes the window and pontoon checks of R69 and whose kind has a berth is denied for that berth where it is not admitted. -/
theorem State.entryDenial_berth {s : State} {p : Nat} {row : CredRow} (hw : row.within s.clock = true)
    (hp : row.admits p = true) (hk : row.kind.hasBerth = true) (hb : s.berthAdmits p row.berth = false) (c : Card) (r : Nat) :
    s.entryDenial p c (.hit r row) = some .berth := by
  simp only [State.entryDenial, hw, hp, hk, hb, Bool.true_eq_false, if_false, and_self, if_true]

/-- Settles O6: the equation of each of the four requests, then what a CLOSED berth does to RESERVE, to CHECK-IN and to a card bound to it
(R17). -/
theorem berthFieldsAreReplacedByRequest : Obligations.BerthFieldsAreReplacedByRequest := by
  refine ⟨fun s tag f room => exec_departureSet room tag f, fun s tag f p room h => exec_berthSet_of_class room tag h,
    fun s tag f room h => exec_berthSet_of_no_class room tag h, fun s tag b room => finish_moveBerth room 0x15 tag b .free .closed,
    fun s tag b room => finish_moveBerth room 0x16 tag b .closed .free, ?closedBerth, ?boundCard⟩
  case closedBerth =>
    intro s tag f g room low high hc accLow accHigh same ha
    constructor
    · refine (finish_takeRequest room 0x10 tag f judgeReserve).trans (congrArg _ ?_)
      rw [judgeReserve_of_closed (s := s.frameTaken) ⟨low, high⟩ ⟨accLow, accHigh⟩ hc, Judged.ended_refuse]
    · refine (finish_takeRequest room 0x11 tag g judgeCheckIn).trans (congrArg _ ?_)
      rw [judgeCheckIn_of_closed (s := s.frameTaken) (same ▸ ⟨low, high⟩) ha (same ▸ hc), Judged.ended_refuse]
  case boundCard =>
    intro s p b r c row kind bound closed window pontoon
    have notAdmitted : s.berthAdmits p row.berth = false := bound ▸ s.berthAdmits_of_closed closed p
    exact State.entryDenial_berth (CredRow.within_of_window window) pontoon ((CredKind.hasBerth_iff _).mpr kind) notAdmitted c r

end Sys2Proof.Machine

/-! PROOFS. The staging area (R204, R205, R207): what zero rows hold, the judgement of LOAD-OPEN, LOAD-ROW and LOAD-DISCARD each as an
equation, and the statement O47. -/

namespace Sys2Proof.Machine

/-! ### Zero rows (R204) -/

theorem natOfBytes_zeros (w : Nat) : natOfBytes (List.replicate w 0#8) = 0 := by
  induction w with
  | zero => rfl
  | succ w ih => exact ih

@[simp] theorem natAt_zeros (w i n : Nat) : natAt (List.replicate w 0#8) i n = 0 := by
  rw [natAt, slice, List.drop_replicate, List.take_replicate, natOfBytes_zeros]

@[simp] theorem bitAt_zeros (w i k : Nat) : bitAt (List.replicate w 0#8) i k = false := by
  rw [bitAt, natAt_zeros, Nat.zero_testBit]

theorem stagedRow_zeros (w : Nat) : stagedRow (List.replicate w 0#8) = some .none := by
  simp only [stagedRow, natAt_zeros]

/-- A zero credential row reads as a disabled CREW row with code and mask 0. -/
theorem credRowOf_zeros (w : Nat) :
    let zero := credRowOf (List.replicate w 0#8)
    zero.enabled = false ∧ zero.code = 0#40 ∧ zero.mask = 0#40 ∧ zero.kind = .crew := by
  simp only [credRowOf, bitAt_zeros, natAt_zeros, Nat.zero_div, Nat.zero_mod, credKindOf, and_self]

/-! ### The layouts (11.5) -/

theorem getElem?_replicate_eq_some_iff {α : Type} {n i : Nat} {a b : α} :
    (List.replicate n a)[i]? = some b ↔ i < n ∧ b = a := by
  simp only [List.getElem?_replicate, Option.ite_none_right_eq_some, Option.some.injEq, eq_comm]

theorem Load.opened_credentials : (Load.opened .credentials).rows = List.replicate 512 (List.replicate 22 0#8) :=
  List.map_replicate ..

theorem Load.opened_stations (a : Nat) : (Load.opened (.stations a)).rows = List.replicate 30 (List.replicate 12 0#8) :=
  List.map_replicate ..

theorem tableOf_eq_none {n : Nat} (h : ¬ n < 8) : tableOf n = none := by
  rw [tableOf, if_neg (by omega), if_neg (by omega), if_neg h]

theorem tableOf_stations {n : Nat} (h : n < 8) (h0 : n ≠ 0) (h1 : n ≠ 1) : tableOf n = some (.stations (n - 2)) := by
  rw [tableOf, if_neg h0, if_neg h1, if_pos h]

/-! ### LOAD-OPEN (R204) -/

@[simp] theorem Judged.ended_answer (tag code : Nat) (s : State) (r : Result) (b : ReplyBody) :
    Judged.ended tag code (answer s r b) = s.answered tag code r b := rfl

theorem exec_loadOpen_of_no_table {s : State} (room : s.Room) (tag : Nat) {n : Nat} (h : tableOf n = none) :
    exec (.loadOpen tag (.fields n)) s = .next (s.frameTaken.answered tag 0x60 .range .empty) := by
  refine (finish_takeRequest room 0x60 tag n judgeLoadOpen).trans (congrArg _ ?_)
  rw [judgeLoadOpen, h, Judged.ended_refuse]

/-- A load opened for a table holds a zero row for each row of the layout; `rows` are these rows as a list. -/
theorem exec_loadOpen_of_table {s : State} (room : s.Room) (tag : Nat) {n : Nat} {t : TableId} {rows : List (List Byte)}
    (h : tableOf n = some t) (zeros : (Load.opened t).rows = rows) :
    exec (.loadOpen tag (.fields n)) s = .next (
      if s.staging.isSome then s.frameTaken.answered tag 0x60 .busy .empty
      else ({ s.frameTaken with staging := some { table := t, rows := rows } }).answered tag 0x60 .done (.rowCount rows.length)) := by
  refine (finish_takeRequest room 0x60 tag n judgeLoadOpen).trans (congrArg _ ?_)
  have opened : Load.opened t = { table := t, rows := rows } := by rw [← zeros]; rfl
  have count : (rowLengths t).length = rows.length := by rw [← zeros, Load.opened, List.length_map]
  simp only [judgeLoadOpen, h, opened, count, State.frameTaken_staging, Judged.ended_ite, Judged.ended_refuse, Judged.ended_answer]

/-! ### LOAD-ROW (R205) -/

theorem exec_loadRow_of_no_load {s : State} (room : s.Room) (tag : Nat) (f : LoadRowArgs) (h : s.staging = none) :
    exec (.loadRow tag (.fields f)) s = .next (s.frameTaken.answered tag 0x61 .state .empty) := by
  refine (finish_takeRequest room 0x61 tag f judgeLoadRow).trans (congrArg _ ?_)
  rw [judgeLoadRow, State.frameTaken_staging, h, Judged.ended_refuse]

theorem exec_loadRow_of_load {s : State} (room : s.Room) (tag : Nat) (f : LoadRowArgs) {l : Load} (h : s.staging = some l) :
    exec (.loadRow tag (.fields f)) s = .next (
      if (rowLengths l.table)[f.index]? = some f.bytes.length then
        ({ s.frameTaken with staging := some { l with rows := l.rows.set f.index f.bytes } }).answered tag 0x61 .done .empty
      else s.frameTaken.answered tag 0x61 .range .empty) := by
  refine (finish_takeRequest room 0x61 tag f judgeLoadRow).trans (congrArg _ ?_)
  simp only [judgeLoadRow, State.frameTaken_staging, h, Judged.ended_ite, Judged.ended_refuse, Judged.ended_doneWith]

/-- The two ends of LOAD-ROW on an open load, for any reading `suits` of "the row is in the layout and has its length". -/
theorem exec_loadRow_of_suits {s : State} (room : s.Room) (tag : Nat) (f : LoadRowArgs) {l : Load} (h : s.staging = some l)
    {suits : Prop} (layout : (rowLengths l.table)[f.index]? = some f.bytes.length ↔ suits) :
    (suits → exec (.loadRow tag (.fields f)) s = .next (
      ({ s.frameTaken with staging := some { l with rows := l.rows.set f.index f.bytes } }).answered tag 0x61 .done .empty)) ∧
    (¬ suits → exec (.loadRow tag (.fields f)) s = .next (s.frameTaken.answered tag 0x61 .range .empty)) := by
  rw [exec_loadRow_of_load room tag f h]
  exact ⟨fun hs => by rw [if_pos (layout.mpr hs)], fun hn => by rw [if_neg (mt layout.mp hn)]⟩

/-! ### LOAD-DISCARD (R207) -/

theorem exec_loadDiscard {s : State} (room : s.Room) (tag : Nat) :
    exec (.loadDiscard tag (.fields ())) s = .next (
      if s.staging = none then s.frameTaken.answered tag 0x63 .state .empty
      else ({ s.frameTaken with staging := none }).answered tag 0x63 .done .empty) := by
  refine (finish_takeRequest room 0x63 tag () judgeLoadDiscard).trans (congrArg _ ?_)
  simp only [judgeLoadDiscard, State.frameTaken_staging, Option.isNone_iff_eq_none, Judged.ended_ite, Judged.ended_refuse,
    Judged.ended_doneWith]

/-- Settles O47: LOAD-OPEN by the table its number names, the reading of zero rows, LOAD-ROW by the layout of the open table, and
LOAD-DISCARD. -/
theorem loadsAreOpenedWrittenAndDiscarded : Obligations.LoadsAreOpenedWrittenAndDiscarded := by
  refine ⟨?opening, ?reading, ?writing, fun s tag room => exec_loadDiscard room tag⟩
  case reading =>
    obtain ⟨enabled, code, mask, kind⟩ := credRowOf_zeros 22
    exact ⟨enabled, code, mask, kind, natAt_zeros, stagedRow_zeros 12⟩
  case opening =>
    intro s tag n room opened
    by_cases inRange : n < 8
    case neg =>
      rw [if_pos inRange]
      exact exec_loadOpen_of_no_table room tag (tableOf_eq_none inRange)
    rw [if_neg (not_not_intro inRange)]
    by_cases h0 : n = 0
    · rw [if_pos h0]
      subst h0
      exact exec_loadOpen_of_table room tag rfl Load.opened_credentials
    rw [if_neg h0]
    by_cases h1 : n = 1
    · rw [if_pos h1]
      subst h1
      exact exec_loadOpen_of_table room tag rfl rfl
    rw [if_neg h1]
    exact exec_loadOpen_of_table room tag (tableOf_stations inRange h0 h1) (Load.opened_stations _)
  case writing =>
    intro s tag f room
    refine ⟨exec_loadRow_of_no_load room tag f, fun l h => ?_⟩
    apply exec_loadRow_of_suits room tag f h
    obtain ⟨table, rows⟩ := l
    cases table with
    | credentials => exact getElem?_replicate_eq_some_iff
    | rates => exact Iff.rfl
    | stations a => exact getElem?_replicate_eq_some_iff

end Sys2Proof.Machine

/-! PROOFS. Every command has a next state and keeps every law: a request through its judgement (R201), an event through its operation, a
discarded frame through the frames found inside it (R200). From this the statements O2, O57, O58, O59 and O60. -/

namespace Sys2Proof.Machine

section
variable {k : LawName} {s : State}

/-! ### The ends of a command -/

/-- An outcome is a next state that meets a law. -/
def NextKeeps (k : LawName) (o : Host.Outcome State Fault Refusal) : Prop :=
  ∃ t, o = .next t ∧ Law k t

theorem Law.next (h : Law k s) : NextKeeps k (.next s) := ⟨s, rfl, h⟩

theorem Law.finish (h : Law k s) : NextKeeps k (finish s) := ⟨_, rfl, h.sendNext⟩

theorem Law.finishBus (h : Law k s) : NextKeeps k (finishBus s) := ⟨_, rfl, h.afterBus⟩

/-! ### Judgements that only answer -/

theorem judgeBerthQuery_state (s : State) (n : Nat) : (judgeBerthQuery s n).1 = s := by
  unfold judgeBerthQuery; split <;> rfl

theorem judgeAccountQuery_state (s : State) (n : Nat) : (judgeAccountQuery s n).1 = s := by
  simp only [judgeAccountQuery]; split <;> rfl

theorem judgeCredentialRead_state (s : State) (n : Nat) : (judgeCredentialRead s n).1 = s := by
  unfold judgeCredentialRead
  split
  · rfl
  · split <;> rfl

theorem judgeMatchTest_state (s : State) (c : Card) : (judgeMatchTest s c).1 = s := rfl

theorem judgeGateQuery_state (s : State) (n : Nat) : (judgeGateQuery s n).1 = s := by
  unfold judgeGateQuery; split <;> rfl

theorem judgePresenceQuery_state (s : State) (f : PresenceArgs) : (judgePresenceQuery s f).1 = s := by
  simp only [judgePresenceQuery]; split <;> rfl

theorem judgeRateQuery_state (s : State) (u : Unit) : (judgeRateQuery s u).1 = s := by
  unfold judgeRateQuery; split <;> rfl

theorem judgeChargeQuote_state (s : State) (f : QuoteArgs) : (judgeChargeQuote s f).1 = s := by
  unfold judgeChargeQuote
  split
  · rfl
  · split <;> rfl

theorem judgeProtectionQuery_state (s : State) (f : ProtectionArgs) : (judgeProtectionQuery s f).1 = s := by
  unfold judgeProtectionQuery
  split
  · rfl
  · split <;> rfl

theorem judgePumpQuery_state (s : State) (n : Nat) : (judgePumpQuery s n).1 = s := by
  unfold judgePumpQuery; split <;> rfl

theorem judgeArmQuery_state (s : State) (n : Nat) : (judgeArmQuery s n).1 = s := by
  simp only [judgeArmQuery]; split <;> rfl

theorem judgeRelayQuery_state (s : State) (u : Unit) : (judgeRelayQuery s u).1 = s := rfl

theorem judgeStatus_state (s : State) (u : Unit) : (judgeStatus s u).1 = s := rfl

theorem Law.queryOutlets {d : SideRef} {rs : List PointRef} (h : Law k s) : Law k (queryOutlets s d rs).1 := h

/-! ### RELAY (R193) -/

/-- A RELAY keeps the law: its withheld reply takes the place that the room in the list left for it. -/
theorem Law.takeRelay {tag : Nat} {b : Body RelayArgs} (h : Law k s) (room : ∀ n, k = .repliesAtMost n → 16 ≤ n) :
    Law k (Machine.takeRequest relayCode tag b (Machine.judgeRelay tag) s) := by
  have free : s.frameTaken.replyRoom = true → RepliesAtMost 15 s.frameTaken := fun e => Nat.le_of_lt_succ (of_decide_eq_true e)
  rcases takeRequest_cases relayCode tag b (Machine.judgeRelay tag) s with
    ⟨-, e⟩ | ⟨hr, -, e⟩ | ⟨f, t, r, hr, -, ht, e⟩ | ⟨f, t, hr, -, ht, e⟩ <;> rw [e]
  · exact h.frameTaken.discardRequest
  · exact h.frameTaken.pushReply (free hr) room
  · have judged : Law k t := by
      simpa only [ht] using h.frameTaken.judgeRelay (tag := tag) (f := f) (free hr) fun n hk => .inl (room n hk)
    have answered : (Machine.judgeRelay tag s.frameTaken f).2 ≠ none := by rw [ht]; exact Option.some_ne_none r
    have fifteen : Law (.repliesAtMost 15) s.frameTaken := free hr
    have left : Law (.repliesAtMost 15) t := by
      simpa only [ht] using fifteen.judgeRelay (tag := tag) (f := f) (free hr) fun _ _ => .inr answered
    exact judged.pushReply left room
  · simpa only [ht] using h.frameTaken.judgeRelay (tag := tag) (f := f) (free hr) fun n hk => .inl (room n hk)

/-- A TIME-SET keeps the law where the time it carries is one the clock can hold (R211, R212). -/
theorem Law.takeTimeSet {tag : Nat} {b : Body Nat} (h : Law k s) (room : ∀ n, k = .repliesAtMost n → 16 ≤ n)
    (time : k = .settings → ∀ n, b = .fields n → n ≤ timeMax) : Law k (Machine.takeRequest 0x64 tag b Machine.judgeTimeSet s) := by
  refine h.takeRequest room fun n hb j t hj ht => ht.judgeTimeSet fun hk => ?_
  rcases hj with rfl | rfl
  · exact time hk n hb
  · cases hk

/-! ### Frames and events -/

/-- A frame keeps the law. A TIME-SET must carry a time the clock can hold. -/
theorem Law.takeFrame {i : Instr} (h : Law k s) (room : ∀ n, k = .repliesAtMost n → 16 ≤ n)
    (time : k = .settings → ∀ {tag n}, i = .timeSet tag (.fields n) → n ≤ timeMax) : NextKeeps k (Machine.takeFrame i s) := by
  cases i with
  | reserve _ _ => exact (h.takeRequest room fun _ _ _ _ _ ht => ht.judgeReserve).finish
  | checkIn _ _ => exact (h.takeRequest room fun _ _ _ _ _ ht => ht.judgeCheckIn).finish
  | departureSet _ _ => exact (h.takeRequest room fun _ _ _ _ _ ht => ht.judgeDepartureSet).finish
  | checkOut _ _ => exact (h.takeRequest room fun _ _ _ _ _ ht => ht.judgeCheckOut).finishBus
  | berthSet _ _ => exact (h.takeRequest room fun _ _ _ _ _ ht => ht.judgeBerthSet).finish
  | close _ _ => exact (h.takeRequest room fun _ _ _ _ _ ht => ht.moveBerth rfl rfl).finish
  | open_ _ _ => exact (h.takeRequest room fun _ _ _ _ _ ht => ht.moveBerth rfl rfl).finish
  | berthQuery _ _ => exact (h.takeRequest room fun _ _ _ t _ ht => (judgeBerthQuery_state t _).symm ▸ ht).finish
  | graceSet _ _ => exact (h.takeRequest room fun _ _ _ _ _ ht => ht.judgeGraceSet).finish
  | accountDebit _ _ => exact (h.takeRequest room fun _ _ _ _ _ ht => ht.judgeAccountDebit).finishBus
  | credit _ _ => exact (h.takeRequest room fun _ _ _ _ _ ht => ht.judgeCredit).finishBus
  | accountOpen _ _ => exact (h.takeRequest room fun _ _ _ _ _ ht => ht.judgeAccountOpen).finish
  | accountSet _ _ => exact (h.takeRequest room fun _ _ _ _ _ ht => ht.judgeAccountSet).finishBus
  | accountClose _ _ => exact (h.takeRequest room fun _ _ _ _ _ ht => ht.judgeAccountClose).finish
  | accountQuery _ _ => exact (h.takeRequest room fun _ _ _ t _ ht => (judgeAccountQuery_state t _).symm ▸ ht).finish
  | bar _ _ => exact (h.takeRequest room fun _ _ _ _ _ ht => ht.judgeBar).finishBus
  | unbar _ _ => exact (h.takeRequest room fun _ _ _ _ _ ht => ht.judgeUnbar).finishBus
  | credentialRead _ _ => exact (h.takeRequest room fun _ _ _ t _ ht => (judgeCredentialRead_state t _).symm ▸ ht).finish
  | matchTest _ _ => exact (h.takeRequest room fun _ _ _ t _ ht => (judgeMatchTest_state t _).symm ▸ ht).finish
  | gateMode _ _ => exact (h.takeRequest room fun _ _ _ _ _ ht => ht.judgeGateMode).finishBus
  | gateOpen _ _ => exact (h.takeRequest room fun _ _ _ _ _ ht => ht.judgeGateOpen).finishBus
  | gateQuery _ _ => exact (h.takeRequest room fun _ _ _ t _ ht => (judgeGateQuery_state t _).symm ▸ ht).finish
  | pontoonSet _ _ => exact (h.takeRequest room fun _ _ _ _ _ ht => ht.judgePontoonSet).finish
  | presenceQuery _ _ => exact (h.takeRequest room fun _ _ _ t _ ht => (judgePresenceQuery_state t _).symm ▸ ht).finish
  | presenceRemove _ _ => exact (h.takeRequest room fun _ _ _ _ _ ht => ht.judgePresenceRemove).finish
  | outletStart _ _ => exact (h.takeRequest room fun _ _ _ _ _ ht => ht.onPoints fun _ _ => ht.startOutlets).finishBus
  | outletStop _ _ => exact (h.takeRequest room fun _ _ _ _ _ ht => ht.onPoints fun _ _ => ht.stopOutlets).finishBus
  | outletSuspend _ _ => exact (h.takeRequest room fun _ _ _ _ _ ht => ht.onPoints fun _ _ => ht.suspendOutlets).finishBus
  | outletRelease _ _ => exact (h.takeRequest room fun _ _ _ _ _ ht => ht.onPoints fun _ _ => ht.releaseOutlets).finishBus
  | outletClear _ _ => exact (h.takeRequest room fun _ _ _ _ _ ht => ht.onPoints fun _ _ => ht.clearOutlets).finishBus
  | outletEnables _ _ => exact (h.takeRequest room fun _ _ _ _ _ ht => ht.judgeOutletEnables).finish
  | outletQuery _ _ => exact (h.takeRequest room fun _ _ _ _ _ ht => ht.onPoints fun _ _ => ht.queryOutlets).finish
  | rateQuery _ _ => exact (h.takeRequest room fun _ _ _ t _ ht => (judgeRateQuery_state t _).symm ▸ ht).finish
  | chargeQuote _ _ => exact (h.takeRequest room fun _ _ _ t _ ht => (judgeChargeQuote_state t _).symm ▸ ht).finish
  | tripDelaySet _ _ => exact (h.takeRequest room fun _ _ _ _ _ ht => ht.judgeTripDelaySet).finish
  | protectionQuery _ _ => exact (h.takeRequest room fun _ _ _ t _ ht => (judgeProtectionQuery_state t _).symm ▸ ht).finish
  | fuelAuthorize _ _ => exact (h.takeRequest room fun _ _ _ _ _ ht => ht.judgeFuelAuthorize).finishBus
  | fuelAbort _ _ => exact (h.takeRequest room fun _ _ _ _ _ ht => ht.judgeFuelAbort).finishBus
  | saleCollect _ _ => exact (h.takeRequest room fun _ _ _ _ _ ht => ht.judgeSaleCollect).finish
  | pumpProtect _ _ => exact (h.takeRequest room fun _ _ _ _ _ ht => ht.judgePumpProtect).finish
  | fuelTimersSet _ _ => exact (h.takeRequest room fun _ _ _ _ _ ht => ht.judgeFuelTimersSet).finishBus
  | pumpQuery _ _ => exact (h.takeRequest room fun _ _ _ t _ ht => (judgePumpQuery_state t _).symm ▸ ht).finish
  | armModeEnable _ _ => exact (h.takeRequest room fun _ _ _ _ _ ht => ht.judgeEnable).finishBus
  | armModeDisable _ _ => exact (h.takeRequest room fun _ _ _ _ _ ht => ht.judgeDisable).finishBus
  | armModeRestore _ _ => exact (h.takeRequest room fun _ _ _ _ _ ht => ht.judgeRestore).finishBus
  | armConfig _ _ => exact (h.takeRequest room fun _ _ _ _ _ ht => ht.judgeArmConfig).finish
  | armQuery _ _ => exact (h.takeRequest room fun _ _ _ t _ ht => (judgeArmQuery_state t _).symm ▸ ht).finish
  | relay _ _ => exact (h.takeRelay room).finishBus
  | relayRefuseSet _ _ => exact (h.takeRequest room fun _ _ _ _ _ ht => ht.judgeRefuseSet).finish
  | relayQuery _ _ => exact (h.takeRequest room fun _ _ _ t _ ht => (judgeRelayQuery_state t _).symm ▸ ht).finish
  | loadOpen _ _ => exact (h.takeRequest room fun _ _ _ _ _ ht => ht.judgeLoadOpen).finish
  | loadRow _ _ => exact (h.takeRequest room fun _ _ _ _ _ ht => ht.judgeLoadRow).finish
  | loadCommit _ _ => exact (h.takeRequest room fun _ _ _ _ _ ht => ht.judgeLoadCommit).finish
  | loadDiscard _ _ => exact (h.takeRequest room fun _ _ _ _ _ ht => ht.judgeLoadDiscard).finish
  | timeSet _ _ => exact (h.takeTimeSet room fun hk n e => time hk (congrArg _ e)).finishBus
  | status _ _ => exact (h.takeRequest room fun _ _ _ t _ ht => (judgeStatus_state t _).symm ▸ ht).finish
  | restart _ _ => exact (h.takeRequest room fun _ _ _ _ _ ht => ht.judgeRestart).finishBus
  | trunkConfig _ _ => exact (h.takeRequest room fun _ _ _ _ _ ht => ht.judgeTrunkConfig).finish
  | unknownRequest _ _ => exact (h.takeRequest room fun _ _ _ _ _ ht => ht).finish
  | nonRequestFrame _ _ => exact h.frameTaken.finish
  | _ => exact h.next

/-- Reception keeps the law: each frame found is read from bytes, so a time it sets fits the clock (R200). -/
theorem Law.receive {bs : List Byte} (h : Law k s) (room : ∀ n, k = .repliesAtMost n → 16 ≤ n) : NextKeeps k (Machine.receive bs s) := by
  refine receive_keeps (P := Law k) (fun _ _ ht => ht.keepBytes) (fun fr i t valid read ht => ?_) bs h
  rw [← isFrame_decodeFrame valid read t]
  exact ht.takeFrame room fun _ _ _ e => decodeFrame_time valid (e ▸ read)

theorem Law.execDiscardedFrame {bs : List Byte} (h : Law k s) (room : ∀ n, k = .repliesAtMost n → 16 ≤ n) :
    NextKeeps k (Machine.execDiscardedFrame bs s) := by
  unfold Machine.execDiscardedFrame
  split
  · exact h.receive room
  · exact h.next

theorem Law.execInterByteTimeout {bs : List Byte} (h : Law k s) (room : ∀ n, k = .repliesAtMost n → 16 ≤ n) :
    NextKeeps k (Machine.execInterByteTimeout bs s) := by
  unfold Machine.execInterByteTimeout
  split
  · exact h.receive room
  · exact h.next

theorem Law.execScannerVisit (h : Law k s) : NextKeeps k (Machine.execScannerVisit s) := by
  refine (h.visit.pointer fun hk => ?_).finishBus
  subst hk
  obtain ⟨-, -, -, pointer, -⟩ := h
  exact nextBerth_range pointer

/-! ### The laws at reset (O56) -/

theorem State.reset_berth (n : Nat) : State.reset.berth n = Berth.reset := numGet_replicate ..

theorem State.reset_account (n : Nat) : State.reset.account n = Account.reset := numGet_replicate ..

theorem State.reset_gate (n : Nat) : State.reset.gate n = Gate.reset := tabGet_replicate ..

theorem State.reset_pontoon (n : Nat) : State.reset.pontoon n = Pontoon.reset := tabGet_replicate ..

theorem State.reset_pump (n : Nat) : State.reset.pump n = Pump.reset := tabGet_replicate ..

theorem State.reset_arm (n : Nat) : State.reset.arm n = Arm.reset := tabGet_replicate ..

theorem Arm.reset_slot (d : Nat) : Arm.reset.slot d = Slot.reset := numGet_replicate ..

theorem State.reset_slot (a d : Nat) : State.reset.slot a d = Slot.reset := by
  rw [State.slot, State.reset_arm, Arm.reset_slot]

theorem State.reset_row (a d : Nat) : State.reset.row a d = .none := by
  rw [State.row, State.reset_slot]; rfl

theorem State.reset_post (a d : Nat) : State.reset.post? a d = none := by
  rw [State.post?, State.reset_slot]; rfl

theorem State.reset_isPresent (a d : Nat) : State.reset.isPresent a d = false := by
  rw [State.isPresent_eq, State.reset_slot]; rfl

theorem State.reset_count (p : Nat) : State.reset.count p = 0 := rfl

theorem State.reset_holder (p : Nat) : State.reset.holder p = none := by
  rw [State.holder, State.reset_pump]; rfl

theorem settingsLaw_reset : SettingsLaw State.reset := by
  refine ⟨?pending, ?clock, ?grace, ?scanner, ?delay, ?ready, ?window, ?silence, ?refusals, ?pairs, ?scan, ?arms, ?pontoons⟩
  case pending => intro c hc; cases hc
  case pairs => intro p hp; cases hp
  case arms => intro a; rw [State.reset_arm]; unfold ArmSettingsOk; decide
  case pontoons => intro p; rw [State.reset_pontoon]; decide
  all_goals decide

theorem armOk_reset : ArmOk Arm.reset := by
  refine ⟨by decide, by decide, fun d st e => ?_, nofun, fun _ => rfl⟩
  rw [Arm.reset_slot] at e
  cases e

theorem pumpOk_reset : PumpOk Pump.reset :=
  ⟨Nat.zero_le _, nofun, nofun, nofun, nofun⟩

theorem holdLaw_reset : HoldLaw State.reset := by
  refine ⟨⟨fun n e => ?_, fun n => ?_, fun n _ => ?_⟩, fun p => ?_, fun p _ a d => ?_, fun p h => ?_, fun p h => ?_, fun a d h => ?_,
    fun a _ => ?_⟩
  · rw [State.reset_account, State.reset_holder]
    exact ⟨nofun, nofun⟩
  · rw [State.reset_account]; exact List.nodup_nil
  · rw [State.reset_account]; rfl
  · rw [State.reset_pump]; exact ⟨nofun, nofun⟩
  · rw [State.reset_pump, State.reset_row]
    exact ⟨nofun, nofun⟩
  · rw [State.reset_pump] at h; cases h
  · rw [State.reset_pump] at h; cases h
  · rw [State.reset_isPresent] at h; cases h
  · rw [State.reset_arm]; rfl

/-- Settles O56: every table of the part holds one record at reset, so each law is one fact about that record. -/
theorem everyLawHoldsAtReset : Obligations.EveryLawHoldsAtReset := by
  refine ⟨settingsLaw_reset, ?berths, ?accounts, ?presence, ?points, ?arms, ?pumps, ?queues, ?rows, ?occupants, holdLaw_reset⟩
  case berths => intro n; rw [State.reset_berth]; exact ⟨rfl, rfl, Nat.zero_le _⟩
  case accounts => intro n; rw [State.reset_account]; exact AccountOk.reset
  case presence => exact ⟨Nat.zero_le _, List.nodup_nil, fun p _ => by rw [State.reset_count]; exact Nat.zero_le _⟩
  case points => intro a d p h; rw [State.reset_post] at h; cases h
  case arms => intro a; rw [State.reset_arm]; exact armOk_reset
  case pumps => intro n; rw [State.reset_pump]; exact pumpOk_reset
  case queues => unfold Law QueueLaw RepliesAtMost; decide
  case rows =>
    refine ⟨fun a d _ => ?_, fun a d a' d' c _ _ h => ?_⟩
    · rw [State.reset_row]; exact List.nodup_nil
    · rw [State.reset_row] at h; cases h
  case occupants => intro b n h; rw [State.reset_berth] at h; cases h

/-! ### Every command -/

/-- POWER_ON keeps the law: the records are those of reset, and the commands that wait stay. -/
theorem Law.execPowerOn (h : Law k s) : NextKeeps k (Machine.execPowerOn s) := by
  refine ⟨_, rfl, ?_⟩
  obtain ⟨settings, berths, accounts, presence, points, arms, pumps, queues, rows, occupants, holds⟩ := everyLawHoldsAtReset
  cases k with
  | settings =>
    obtain ⟨-, others⟩ := settings
    exact ⟨h.1, others⟩
  | berths => exact berths
  | accounts => exact accounts
  | presence => exact presence
  | points => exact points
  | arms => exact arms
  | pumps => exact pumps
  | queues => exact queues
  | rows => exact rows
  | occupants => exact occupants
  | holds => exact holds
  | queueIs q => exact h
  | repliesAtMost n => exact Nat.zero_le n

/-- Every command has a next state that keeps the law. A TIME-SET must carry a time the clock can hold. -/
theorem Law.exec {c : Instr} (h : Law k s) (room : ∀ n, k = .repliesAtMost n → 16 ≤ n)
    (time : k = .settings → ∀ {tag n}, c = .timeSet tag (.fields n) → n ≤ timeMax) : NextKeeps k (Machine.exec c s) := by
  cases c with
  | powerOn => exact h.execPowerOn
  | discardedFrame _ => exact h.execDiscardedFrame room
  | interByteTimeout _ => exact h.execInterByteTimeout room
  | trunkFrameSent => exact h.sendFree.finish
  | trunkSilenceExpiry => exact h.silence.finish
  | clockAdvance => exact h.advance.finish
  | scannerVisit => exact h.execScannerVisit
  | departureCloseTimeout _ => exact h.departureTimeout.finishBus
  | scanRow => exact h.scanStep.finish
  | armRequestSent _ => exact h.requestSent.finish
  | exchangeReply _ _ => exact h.replyReceived.finishBus
  | replyWindowExpiry _ => exact h.windowExpired.finishBus
  | lateReply _ _ => exact h.next
  | probeDue _ => exact h.probeFalls.finishBus
  | prioritySweepDue _ => exact h.periodEnds.finishBus
  | regularSlot _ => exact h.slotEnds.finishBus
  | strikeEndExpiry _ => exact h.strikeExpiry.finishBus
  | holdExpiry _ => exact h.holdExpiry.finish
  | readyTimeout _ => exact h.readyExpiry.finishBus
  | linkLossWindow _ => exact h.linkLossExpiry.finishBus
  | _ => exact h.takeFrame room time

/-- A well-formed TIME-SET carries four bytes of time (R211, R212). -/
theorem wellFormed_time {tag n : Nat} (h : (Instr.timeSet tag (.fields n)).wellFormed = true) : n ≤ timeMax := by
  have four : fits 4 n = true := (Bool.and_eq_true_iff.mp h).2
  have bound : n < 256 ^ 4 := of_decide_eq_true four
  unfold timeMax
  omega

/-- The queue does not count for any law but that of the settings, which holds of every part of a queue it holds of. -/
theorem Law.withQueue {c : Instr} {rest : List Instr} (h : Law k s) (hq : s.pending = c :: rest) (other : ∀ q, k ≠ .queueIs q) :
    Law k (s.withQueue rest) := by
  cases k with
  | settings => exact ⟨fun c hc => h.1 c (hq ▸ List.mem_cons_of_mem _ hc), h.2⟩
  | queueIs q => exact absurd rfl (other q)
  | _ => exact h

/-- Every step keeps every law of the part. -/
theorem Law.step {t : State} (h : Law k s) (e : Machine.step s = .next t) (other : ∀ q, k ≠ .queueIs q)
    (room : ∀ n, k ≠ .repliesAtMost n) : Law k t := by
  unfold Machine.step at e
  split at e
  · cases e; exact h
  · rename_i c rest hq
    have wellFormed : k = .settings → c.wellFormed = true := by
      rintro rfl
      exact h.1 c (hq ▸ List.mem_cons_self)
    have kept : NextKeeps k (Machine.exec c (s.withQueue rest)) := by
      refine (h.withQueue hq other).exec (fun n hn => absurd hn (room n)) fun hk tag n hc => ?_
      subst hc
      exact wellFormed_time (wellFormed hk)
    obtain ⟨u, eu, hu⟩ := kept
    rw [eu] at e
    cases e
    exact hu

end

/-- Settles O2: that the queue is `s.pending` is itself one of the laws every command keeps. -/
theorem everyCommandCompletesAndKeepsTheQueue : Obligations.EveryCommandCompletesAndKeepsTheQueue :=
  fun _ s => Law.exec (k := .queueIs s.pending) (s := s) rfl (nofun) (nofun)

/-- Settles O57, by the law every step keeps. -/
theorem everyStepKeepsSettingsAndQueues : Obligations.EveryStepKeepsSettingsAndQueues :=
  fun _ _ e => ⟨fun h => h.step e nofun nofun, fun h => h.step e nofun nofun⟩

/-- Settles O58, by the law every step keeps. -/
theorem everyStepKeepsBerthsAndAccounts : Obligations.EveryStepKeepsBerthsAndAccounts :=
  fun _ _ e => ⟨fun h => h.step e nofun nofun, fun h => h.step e nofun nofun, fun h => h.step e nofun nofun,
    fun h => h.step e nofun nofun⟩

/-- Settles O59, by the law every step keeps. -/
theorem everyStepKeepsPresenceAndRows : Obligations.EveryStepKeepsPresenceAndRows :=
  fun _ _ e => ⟨fun h => h.step e nofun nofun, fun h => h.step e nofun nofun⟩

/-- Settles O60, by the law every step keeps. -/
theorem everyStepKeepsPointsArmsAndPumps : Obligations.EveryStepKeepsPointsArmsAndPumps :=
  fun _ _ e => ⟨fun h => h.step e nofun nofun, fun h => h.step e nofun nofun, fun h => h.step e nofun nofun⟩

/-- Settles O1: a step is `exec` of the front command by definition, on each shape of the queue. -/
theorem stepTakesTheFrontCommand : Obligations.StepTakesTheFrontCommand :=
  ⟨fun c rest s h => by rw [step, h], fun s h => by rw [step, h]⟩

end Sys2Proof.Machine

/-! PROOFS. The Trunk Port (chapter 11): requests that are not judged (R201), the send side (R202), the notice queue (R213), frames that are
no requests and reception after a discard (R200, R203), the clock (R211) and the integrity scan (R209). The statements O53, O54, O55, O52,
O51 and O49. -/

namespace Sys2Proof.Machine

/-! ### Every request is taken the same way (R201) -/

/-- A command that ends, with or without the arbiters' choice, in what `f` makes of the state. -/
def EndsIn (c : Instr) (f : State → State) : Prop :=
  (∀ s, exec c s = finish (f s)) ∨ ∀ s, exec c s = finishBus (f s)

/-- A command that carries a request takes it by `takeRequest`, under its tag; where its body is unsuited, under its kind code too. -/
theorem exec_request {c : Instr} {tag : Nat} (h : requestTag c = some tag) :
    ∃ (α : Type) (code : Nat) (b : Body α) (judge : State → α → Judged), EndsIn c (takeRequest code tag b judge) ∧
      ∀ p, unsuitedRequest c = some p → p = (tag, code) ∧ b = .unsuited := by
  cases c <;> cases h
  case unknownRequest => exact ⟨_, _, _, _, .inl fun _ => rfl, nofun⟩
  case checkOut b | accountDebit b | credit b | accountSet b | bar b | unbar b | gateMode b | gateOpen b | outletStart b |
      outletStop b | outletSuspend b | outletRelease b | outletClear b | fuelAuthorize b | fuelAbort b | fuelTimersSet b |
      armModeEnable b | armModeDisable b | armModeRestore b | relay b | timeSet b | restart b =>
    refine ⟨_, _, b, _, .inr fun _ => rfl, ?_⟩
    cases b with
    | unsuited => intro p e; cases e; exact ⟨rfl, rfl⟩
    | fields f => nofun
  all_goals
    rename_i b
    refine ⟨_, _, b, _, .inl fun _ => rfl, ?_⟩
    cases b with
    | unsuited => intro p e; cases e; exact ⟨rfl, rfl⟩
    | fields f => nofun

theorem requestTag_of_unsuited {c : Instr} {tag code : Nat} (h : unsuitedRequest c = some (tag, code)) : requestTag c = some tag := by
  cases c
  all_goals first
    | cases h
    | (rename_i b; cases b <;> cases h; rfl)

theorem EndsIn.exec_eq {c : Instr} {f : State → State} {s t : State} (h : EndsIn c f) (e : f s = t) :
    exec c s = .next t.sendNext ∨ exec c s = .next t.arbitrateAll.sendNext := by
  subst e
  exact h.imp (fun k => k s) (fun k => k s)

/-- Settles O53: a request is taken by `takeRequest`, whose two branches without a judgement are the full list and the unsuited body. -/
theorem requestsNotJudgedAreDiscardedOrRefused : Obligations.RequestsNotJudgedAreDiscardedOrRefused := by
  intro c s
  constructor
  · intro tag h full
    obtain ⟨α, code, b, judge, ends, -⟩ := exec_request h
    exact ends.exec_eq (takeRequest_full (decide_eq_false full))
  · intro tag code h room
    obtain ⟨α, code', b, judge, ends, unsuited⟩ := exec_request (requestTag_of_unsuited h)
    obtain ⟨same, rfl⟩ := unsuited _ h
    cases same
    exact ends.exec_eq (takeRequest_unsuited room.replyRoom)

/-! ### The send side (R202) -/

theorem State.sendNext_of_sending {s : State} {f : SentFrame} (h : s.trunk.sending = some f) : s.sendNext = s := by
  rw [State.sendNext, h]

theorem State.sendNext_of_reply {s : State} {r : Reply} {rs : List Reply} (free : s.trunk.sending = none)
    (h : s.trunk.replies = r :: rs) :
    s.sendNext = s.setTrunk { s.trunk with sending := some (.reply r), replies := rs } := by
  rw [State.sendNext, free, h]

/-- With a free send side and no made reply, the choice is that of the withheld replies, the link and the queue. -/
theorem State.sendNext_of_no_reply {s : State} (free : s.trunk.sending = none) (h : s.trunk.replies = []) :
    s.sendNext =
      if 0 < s.withheld then s
      else if s.trunk.link = .connected then
        match s.notices.queue with
        | [] => s
        | n :: ns => (s.setTrunk { s.trunk with sending := some (.notice n) }).setNotices { s.notices with queue := ns }
      else s := by
  rw [State.sendNext, free, h] <;> rfl

theorem State.withheld_pos {s : State} {q : RelayRequest} (h : q ∈ s.relays) (w : q.wait = true) : 0 < s.withheld :=
  List.countP_pos_iff.mpr ⟨q, h, w⟩

theorem State.withheld_zero {s : State} (h : ∀ q ∈ s.relays, q.wait = false) : ¬ 0 < s.withheld := by
  rw [State.withheld, List.countP_pos_iff]
  rintro ⟨q, hq, w⟩
  exact absurd (h q hq) (by rw [w]; decide)

/-- Settles O54: one case for each row of the send side's table. -/
theorem sendSideChoosesTheNextFrame : Obligations.SendSideChoosesTheNextFrame := by
  intro s
  refine ⟨rfl, fun f h => s.sendNext_of_sending h, fun r rs free h => s.sendNext_of_reply free h, ?waits, ?sends⟩
  case waits =>
    intro q hq free none wait
    rw [State.sendNext_of_no_reply free none, if_pos (State.withheld_pos hq wait)]
  case sends =>
    intro free none unheld
    rw [State.sendNext_of_no_reply free none, if_neg (State.withheld_zero unheld)]
    refine ⟨fun away => if_neg away, fun empty => ?_, fun n ns connected queued => ?_⟩
    · rw [empty]; split <;> rfl
    · rw [if_pos connected, queued]; rfl

/-! ### The notice queue (R213) -/

theorem routine_iff (c : NoticeClass) : (c == .routine) = true ↔ c = .routine := by cases c <;> decide

/-- The oldest ROUTINE notice leaves the queue, what stands before and behind it stays. -/
theorem dropForUrgent_routine {l r : List Notice} {x : Notice} (before : ∀ y ∈ l, y.body.cls = .urgent) (hx : x.body.cls = .routine) :
    dropForUrgent (l ++ x :: r) = l ++ r := by
  have skip : ∀ y ∈ l, ¬ (y.body.cls == .routine) = true := fun y hy => by rw [before y hy]; decide
  have found : (l ++ x :: r).any (fun n => n.body.cls == .routine) = true :=
    List.any_eq_true.mpr ⟨x, by simp, (routine_iff _).mpr hx⟩
  rw [dropForUrgent, if_pos found, List.eraseP_append_right _ skip,
    List.eraseP_cons_of_pos (p := fun n : Notice => n.body.cls == .routine) ((routine_iff _).mpr hx)]

/-- Where every notice is URGENT the oldest leaves the queue. -/
theorem dropForUrgent_urgent {q : List Notice} (h : ∀ y ∈ q, y.body.cls = .urgent) : dropForUrgent q = q.tail := by
  rw [dropForUrgent, if_neg]
  rw [List.any_eq_true]
  rintro ⟨y, hy, routine⟩
  exact absurd ((routine_iff _).mp routine) (by rw [h y hy]; decide)

theorem NoticeQueue.post_of_room {q : NoticeQueue} (h : q.queue.length < 64) (now : Nat) (b : NoticeBody) :
    q.post now b = { q with queue := q.queue ++ [{ number := q.next, time := now, body := b }], next := (q.next + 1) % 65536 } :=
  if_pos h

theorem NoticeQueue.post_routine {q : NoticeQueue} {b : NoticeBody} (h : q.queue.length = 64) (hb : b.cls = .routine) (now : Nat) :
    q.post now b = { q with next := (q.next + 1) % 65536, dropped := min (q.dropped + 1) 65535 } := by
  rw [NoticeQueue.post, if_neg (by omega), hb]; rfl

theorem NoticeQueue.post_urgent {q : NoticeQueue} {b : NoticeBody} (h : q.queue.length = 64) (hb : b.cls = .urgent) (now : Nat) :
    q.post now b = {
      queue := dropForUrgent q.queue ++ [{ number := q.next, time := now, body := b }]
      next := (q.next + 1) % 65536, dropped := min (q.dropped + 1) 65535 } := by
  rw [NoticeQueue.post, if_neg (by omega), hb]; rfl

theorem NoticeQueue.post_queue_length {q : NoticeQueue} (h : q.queue.length ≤ 64) (now : Nat) (b : NoticeBody) :
    (q.post now b).queue.length ≤ 64 := by
  rcases Nat.lt_or_eq_of_le h with room | full
  · rw [q.post_of_room room, List.length_append]; exact room
  · cases hb : b.cls with
    | routine => rw [q.post_routine full hb]; exact h
    | urgent =>
      rw [q.post_urgent full hb, List.length_append, dropForUrgent_length, full]; exact Nat.le_refl 64

theorem NoticeQueue.post_next (q : NoticeQueue) (now : Nat) (b : NoticeBody) : (q.post now b).next = (q.next + 1) % 65536 := by
  unfold NoticeQueue.post
  split
  · rfl
  · split <;> rfl

theorem nextNumber_eq {n : Nat} (h : n ≤ 65535) : (n + 1) % 65536 = if n = 65535 then 0 else n + 1 := by
  split <;> omega

/-- Settles O55: the equation of a posting for room, for a ROUTINE and for an URGENT notice on a full queue. -/
theorem noticeQueueOverflow : Obligations.NoticeQueueOverflow := by
  intro q now b bound number
  rw [← nextNumber_eq number]
  refine ⟨q.post_queue_length bound now b, q.post_next now b, fun room => q.post_of_room room now b,
    fun full routine => q.post_routine full routine now, fun l x r full urgent parts before oldest => ?_,
    fun x r full urgent parts all => ?_⟩
  · rw [q.post_urgent full urgent, parts, dropForUrgent_routine before oldest]
  · rw [q.post_urgent full urgent, dropForUrgent_urgent all, parts, List.tail_cons]

/-! ### The clock (R211) -/

theorem nextTime_eq {t : Nat} (h : t ≤ 4294967295) : nextTime t = (t + 1) % 4294967296 := by
  unfold nextTime timeMax
  split <;> omega

theorem Trunk.second_eq (t : Trunk) :
    t.second = { t with silenceCount := if t.link = .connected then t.silenceCount + 1 else t.silenceCount } := by
  unfold Trunk.second
  split <;> rfl

theorem Berth.midnight_eq (b : Berth) :
    b.midnight = if b.state = .occupied ∧ b.nightlyFee = true then
      { b with feesPending := if 255 ≤ b.feesPending then 255 else b.feesPending + 1 } else b := by
  have night : satAdd 255 b.feesPending 1 = if 255 ≤ b.feesPending then 255 else b.feesPending + 1 := by
    unfold satAdd
    split <;> omega
  rw [Berth.midnight, night]

theorem State.berth_default {s : State} {n : Nat} (h : ¬ (1 ≤ n ∧ n ≤ 200)) : s.berth n = Berth.reset := by
  cases n with
  | zero => rfl
  | succ n =>
    have out : ¬ n < 200 := by omega
    simp only [State.berth, numGet, tabGet, Vector.getElem?_eq_none (Nat.le_of_not_lt out), Option.getD_none]

/-- Midnight counts a night at every berth, one outside the table included: its record is that of reset, which counts none. -/
theorem State.berth_midnight_eq (s : State) (n : Nat) : s.midnight.berth n = (s.berth n).midnight := by
  rw [State.berth_midnight]
  split
  · rfl
  · rw [State.berth_default ‹_›]; rfl

/-- The time and the silence count of an advance, before the midnight event. -/
def State.ticked (s : State) : State :=
  { s with clock := nextTime s.clock }.setTrunk s.trunk.second

theorem State.advance_eq (s : State) : s.advance = if nextTime s.clock % 86400 = 0 then s.ticked.midnight else s.ticked := rfl

theorem State.advance_berth (s : State) (n : Nat) :
    s.advance.berth n = if nextTime s.clock % 86400 = 0 then (s.berth n).midnight else s.berth n := by
  rw [State.advance_eq]
  split
  · exact s.ticked.berth_midnight_eq n
  · rfl

/-- An advance changes the clock, the trunk and the berths. -/
theorem State.advance_others (s : State) :
    s.advance = { s with clock := nextTime s.clock, trunk := s.trunk.second, berths := s.advance.berths } := by
  rw [State.advance_eq]
  split <;> rfl

/-- Settles O51: the advanced state field by field, the berths by the midnight event. -/
theorem clockAdvanceCountsAndMakesMidnight : Obligations.ClockAdvanceCountsAndMakesMidnight := by
  intro s bound
  refine ⟨s.advance, rfl, ?_, ?_, fun n => ?_, ?_, ?_, ?_, ?_, ?_, ?_⟩
  case refine_3 =>
    rw [State.advance_berth, nextTime_eq bound, Berth.midnight_eq]
    by_cases midnight : (s.clock + 1) % 4294967296 % 86400 = 0
    · simp only [midnight, if_true, true_and]
    · simp only [midnight, if_false, false_and]
  all_goals rw [s.advance_others]
  · exact nextTime_eq bound
  · exact s.trunk.second_eq

/-! ### The integrity scan (R209) -/

/-- The scan goes on at the first row of a table. -/
def State.scanFrom (s : State) (rates : Bool) : State :=
  { s with scan := { inRates := rates, row := 0, crc := 0xFFFF#16 } }

theorem State.scanStep_of_more {s : State} (h : s.scan.row < s.scan.lastRow) :
    s.scanStep = { s with scan := { s.scan with row := s.scan.row + 1, crc := s.scanCrc } } := if_pos h

theorem State.scanStep_of_last {s : State} (h : s.scan.lastRow ≤ s.scan.row) :
    s.scanStep = (s.scanEnd s.scanCrc).scanFrom (!s.scan.inRates) :=
  if_neg (Nat.not_lt.mpr h)

/-- The end of the rate table, and of the credential table below: a VALID table whose checksum differs is at FAULT, any other stays. -/
theorem State.scanEnd_rates_differs {s : State} {c found : Check} (rates : s.scan.inRates = true) (valid : s.rates.state = .valid)
    (stored : s.rates.checksum = some c) (differs : found ≠ c) :
    s.scanEnd found = (s.setRates { s.rates with state := .fault }).post (.tableFault true c found) := by
  simp only [State.scanEnd, rates, valid, stored, if_true, if_neg differs]

theorem State.scanEnd_creds_differs {s : State} {c found : Check} (creds : s.scan.inRates = false) (valid : s.creds.state = .valid)
    (stored : s.creds.checksum = some c) (differs : found ≠ c) :
    s.scanEnd found = (s.setCreds { s.creds with state := .fault }).post (.tableFault false c found) := by
  simp only [State.scanEnd, creds, valid, stored, Bool.false_eq_true, if_false, if_neg differs]

theorem State.scanEnd_rates_stays {s : State} {found : Check} (rates : s.scan.inRates = true)
    (agrees : s.rates.state ≠ .valid ∨ s.rates.checksum = some found) : s.scanEnd found = s := by
  unfold State.scanEnd
  rw [if_pos rates]
  split
  · rename_i c valid stored
    have same : found = c := Option.some.inj ((agrees.resolve_left (not_not_intro valid)).symm.trans stored)
    exact if_pos same
  · rfl

theorem State.scanEnd_creds_stays {s : State} {found : Check} (creds : s.scan.inRates = false)
    (agrees : s.creds.state ≠ .valid ∨ s.creds.checksum = some found) : s.scanEnd found = s := by
  unfold State.scanEnd
  rw [if_neg (by rw [creds]; decide)]
  split
  · rename_i c valid stored
    have same : found = c := Option.some.inj ((agrees.resolve_left (not_not_intro valid)).symm.trans stored)
    exact if_pos same
  · rfl

/-- Settles O49: a step before the last row folds it in; a step on the last row is the table's end. -/
theorem scanRowFoldsAndJudges : Obligations.ScanRowFoldsAndJudges := by
  intro s
  have ended {t : State} (last : s.scan.lastRow ≤ s.scan.row) (e : s.scanEnd s.scanCrc = t) :
      exec .scanRow s = .next (t.scanFrom (!s.scan.inRates)).sendNext := by
    subst e
    exact congrArg (fun t : State => Host.Outcome.next t.sendNext) (s.scanStep_of_last last)
  exact ⟨fun more => congrArg (fun t : State => Host.Outcome.next t.sendNext) (s.scanStep_of_more more),
    fun last rates c valid stored differs => ended last (s.scanEnd_rates_differs rates valid stored differs),
    fun last creds c valid stored differs => ended last (s.scanEnd_creds_differs creds valid stored differs),
    fun last rates agrees => ended last (s.scanEnd_rates_stays rates agrees),
    fun last creds agrees => ended last (s.scanEnd_creds_stays creds agrees)⟩

/-! ### Reception (R200) -/

/-- The length byte lies in its range (11.5). -/
def Sized (len : Byte) : Prop := 2 ≤ len.toNat ∧ len.toNat ≤ 242

theorem badFrame_iff (len : Byte) (rest : List Byte) :
    badFrame (0xC3#8 :: len :: rest) = true ↔
      ¬ Sized len ∨ (rest.length = len.toNat + 2 ∧ natAt rest len.toNat 2 ≠ (crc (len :: rest.take len.toNat)).toNat) := by
  simp only [badFrame, startMarker, beq_self_eq_true, Bool.true_and, Bool.or_eq_true, Bool.not_eq_true', decide_eq_false_iff_not,
    Bool.and_eq_true, beq_iff_eq, bne_iff_ne, Sized]

theorem partFrame_iff (len : Byte) (rest : List Byte) :
    partFrame (0xC3#8 :: len :: rest) = true ↔ Sized len ∧ rest.length < len.toNat + 2 := by
  simp [partFrame, startMarker, Sized]

theorem firstFrame_cons (m len : Byte) (rest : List Byte) :
    firstFrame (m :: len :: rest) = m :: len :: rest.take (len.toNat + 2) := by
  have length : natAt (m :: len :: rest) 1 1 = len.toNat := by simp [natAt, slice, natOfBytes]
  rw [firstFrame, length]
  rfl

theorem fromMarker_append {before : List Byte} (h : 0xC3#8 ∉ before) (rest : List Byte) :
    fromMarker (before ++ 0xC3#8 :: rest) = 0xC3#8 :: rest := by
  induction before with
  | nil => rfl
  | cons b before ih =>
    have other : b ≠ 0xC3#8 := fun e => h (e ▸ List.mem_cons_self)
    have skip : (b != startMarker) = true := bne_iff_ne.mpr other
    rw [List.cons_append, fromMarker, List.dropWhile_cons_of_pos (p := fun b => b != startMarker) skip]
    exact ih fun k => h (List.mem_cons_of_mem _ k)

theorem fromMarker_none {before : List Byte} (h : 0xC3#8 ∉ before) : fromMarker before = [] := by
  induction before with
  | nil => rfl
  | cons b before ih =>
    have other : b ≠ 0xC3#8 := fun e => h (e ▸ List.mem_cons_self)
    have skip : (b != startMarker) = true := bne_iff_ne.mpr other
    rw [fromMarker, List.dropWhile_cons_of_pos (p := fun b => b != startMarker) skip]
    exact ih fun k => h (List.mem_cons_of_mem _ k)

theorem natAt_take (rest : List Byte) (n : Nat) : natAt (rest.take (n + 2)) n 2 = natAt rest n 2 := by
  rw [natAt, natAt, slice, slice, List.drop_take, List.take_take, Nat.add_sub_cancel_left, Nat.min_self]

/-- A whole frame cut from the bytes behind it is bad where its check is wrong. -/
theorem badFrame_first {len : Byte} {rest : List Byte} (sized : Sized len) (whole : len.toNat + 2 ≤ rest.length) :
    badFrame (0xC3#8 :: len :: rest.take (len.toNat + 2)) = true ↔
      natAt rest len.toNat 2 ≠ (crc (len :: rest.take len.toNat)).toNat := by
  rw [badFrame_iff, natAt_take, List.take_take, Nat.min_eq_left (Nat.le_add_right _ 2), List.length_take_of_le whole]
  simp only [sized, not_true_eq_false, true_and, false_or]

/-- A whole frame that is not bad is read as a command. -/
theorem decodeFrame_whole {len : Byte} {rest : List Byte} (valid : badFrame (0xC3#8 :: len :: rest) = false)
    (whole : rest.length = len.toNat + 2) : ∃ c, decodeFrame (0xC3#8 :: len :: rest) = some c := by
  obtain ⟨tag, kind, rest, rfl⟩ : ∃ tag kind more, rest = tag :: kind :: more := by
    match rest, whole with
    | tag :: kind :: more, _ => exact ⟨tag, kind, more, rfl⟩
  have behind : (0xC3#8 = startMarker ∧ rest.length = len.toNat) := ⟨rfl, by simpa using whole⟩
  unfold decodeFrame
  rw [if_neg (by rw [valid]; decide)]
  dsimp only
  rw [if_pos behind]
  split <;> exact ⟨_, rfl⟩

/-- What reception does from a start marker on, with a length byte behind it. -/
theorem receive_marker {before : List Byte} (h : 0xC3#8 ∉ before) (len : Byte) (rest : List Byte) (s : State) :
    receive (before ++ 0xC3#8 :: len :: rest) s =
      if partFrame (0xC3#8 :: len :: rest) then .next (s.keepBytes (0xC3#8 :: len :: rest))
      else if badFrame (0xC3#8 :: len :: rest.take (len.toNat + 2)) then receive (len :: rest) s
      else
        match decodeFrame (0xC3#8 :: len :: rest.take (len.toNat + 2)) with
        | some i =>
          match exec i s with
          | .next t => receive (rest.drop (len.toNat + 2)) t
          | .fault r => .fault r
          | .refused r => .refused r
        | none => receive (len :: rest) s := by
  have behind : (0xC3#8 :: len :: rest).drop (firstFrame (0xC3#8 :: len :: rest)).length = rest.drop (len.toNat + 2) := by
    rw [firstFrame_cons, List.length_cons, List.length_cons, List.drop_succ_cons, List.drop_succ_cons, List.length_take]
    rcases Nat.le_total (len.toNat + 2) rest.length with k | k
    · rw [Nat.min_eq_left k]
    · rw [Nat.min_eq_right k, List.drop_length, List.drop_eq_nil_of_le k]
  rw [receive_eq, fromMarker_append h]
  simp only [reduceCtorEq, if_false, behind]
  simp only [firstFrame_cons, List.tail_cons] <;> rfl

theorem execDiscardedFrame_eq (bs : List Byte) (s : State) :
    exec (.discardedFrame bs) s = if badFrame bs then receive bs.tail s else .next s := rfl

theorem execInterByteTimeout_eq (bs : List Byte) (s : State) :
    exec (.interByteTimeout bs) s = if partFrame bs then receive bs.tail s else .next s := rfl

/-- Bytes with a bad length are a bad frame and never an unfinished one. -/
theorem discard_unsized {len : Byte} (bad : ¬ Sized len) (rest : List Byte) (s : State) :
    exec (.discardedFrame (0xC3#8 :: len :: rest)) s = receive (len :: rest) s ∧
    exec (.interByteTimeout (0xC3#8 :: len :: rest)) s = .next s := by
  rw [execDiscardedFrame_eq, execInterByteTimeout_eq, if_pos ((badFrame_iff len rest).mpr (.inl bad)),
    if_neg (fun k => bad ((partFrame_iff len rest).mp k).1)]
  exact ⟨rfl, rfl⟩

/-- Bytes of the length their length byte says are a bad frame where their check is wrong, and never an unfinished one. -/
theorem discard_whole {len : Byte} {rest : List Byte} (sized : Sized len) (whole : rest.length = len.toNat + 2) (s : State) :
    exec (.interByteTimeout (0xC3#8 :: len :: rest)) s = .next s ∧
    exec (.discardedFrame (0xC3#8 :: len :: rest)) s =
      if natAt rest len.toNat 2 = (crc (len :: rest.take len.toNat)).toNat then .next s else receive (len :: rest) s := by
  rw [execDiscardedFrame_eq, execInterByteTimeout_eq, if_neg (fun k => absurd whole (Nat.ne_of_lt ((partFrame_iff len rest).mp k).2))]
  refine ⟨rfl, ?_⟩
  simp only [badFrame_iff, sized, not_true_eq_false, whole, true_and, false_or, ne_eq, ite_not, List.tail_cons]

/-- Bytes short of the length their length byte says are an unfinished frame and no bad one. -/
theorem discard_part {len : Byte} {rest : List Byte} (sized : Sized len) (short : rest.length < len.toNat + 2) (s : State) :
    exec (.discardedFrame (0xC3#8 :: len :: rest)) s = .next s ∧
    exec (.interByteTimeout (0xC3#8 :: len :: rest)) s = receive (len :: rest) s := by
  have notBad : ¬ badFrame (0xC3#8 :: len :: rest) = true := by
    rw [badFrame_iff]
    rintro (bad | ⟨whole, -⟩)
    · exact bad sized
    · omega
  rw [execDiscardedFrame_eq, execInterByteTimeout_eq, if_neg notBad, if_pos ((partFrame_iff len rest).mpr ⟨sized, short⟩)]
  exact ⟨rfl, rfl⟩

theorem receive_unsized {before : List Byte} (h : 0xC3#8 ∉ before) {len : Byte} (bad : ¬ Sized len) (rest : List Byte) (s : State) :
    receive (before ++ 0xC3#8 :: len :: rest) s = receive (len :: rest) s := by
  rw [receive_marker h, if_neg (fun k => bad ((partFrame_iff len rest).mp k).1), if_pos ((badFrame_iff len _).mpr (.inl bad))]

theorem receive_part {before : List Byte} (h : 0xC3#8 ∉ before) {len : Byte} {rest : List Byte} (sized : Sized len)
    (short : rest.length < len.toNat + 2) (s : State) :
    receive (before ++ 0xC3#8 :: len :: rest) s = .next (s.keepBytes (0xC3#8 :: len :: rest)) := by
  rw [receive_marker h, if_pos ((partFrame_iff len rest).mpr ⟨sized, short⟩)]

theorem not_partFrame_of_whole {len : Byte} {rest : List Byte} (whole : len.toNat + 2 ≤ rest.length) :
    ¬ partFrame (0xC3#8 :: len :: rest) = true :=
  fun k => absurd ((partFrame_iff len rest).mp k).2 (Nat.not_lt.mpr whole)

theorem receive_wrong {before : List Byte} (h : 0xC3#8 ∉ before) {len : Byte} {rest : List Byte} (sized : Sized len)
    (whole : len.toNat + 2 ≤ rest.length) (wrong : natAt rest len.toNat 2 ≠ (crc (len :: rest.take len.toNat)).toNat) (s : State) :
    receive (before ++ 0xC3#8 :: len :: rest) s = receive (len :: rest) s := by
  rw [receive_marker h, if_neg (not_partFrame_of_whole whole), if_pos ((badFrame_first sized whole).mpr wrong)]

/-- A whole frame with a right check is taken as its own command, which completes, and reception goes on behind it. -/
theorem receive_taken {before : List Byte} (h : 0xC3#8 ∉ before) {len : Byte} {rest : List Byte} (sized : Sized len)
    (whole : len.toNat + 2 ≤ rest.length) (right : natAt rest len.toNat 2 = (crc (len :: rest.take len.toNat)).toNat) (s : State) :
    ∃ (c : Instr) (t : State), decodeFrame (0xC3#8 :: len :: rest.take (len.toNat + 2)) = some c ∧ exec c s = .next t ∧
      receive (before ++ 0xC3#8 :: len :: rest) s = receive (rest.drop (len.toNat + 2)) t := by
  have good : badFrame (0xC3#8 :: len :: rest.take (len.toNat + 2)) = false := by
    rw [Bool.eq_false_iff]
    exact fun k => (badFrame_first sized whole).mp k right
  obtain ⟨c, read⟩ := decodeFrame_whole good (List.length_take_of_le whole)
  obtain ⟨t, ends, -⟩ := everyCommandCompletesAndKeepsTheQueue c s
  refine ⟨c, t, read, ends, ?_⟩
  rw [receive_marker h, if_neg (not_partFrame_of_whole whole), if_neg (by rw [good]; decide), read]
  simp only [ends]

/-- Settles O52: the frames without a request, the two discards, reception by what stands behind the first marker, and the silence. -/
theorem framesThatAreNoRequests : Obligations.FramesThatAreNoRequests := by
  refine ⟨fun _ _ _ => rfl, fun s tag kind room => ?unknown, fun _ => rfl, fun s marker len rest => ?discards,
    fun s before unmarked => ⟨?nothing, ?marker, fun len rest => ?found⟩, fun _ => rfl⟩
  case unknown => exact finish_takeRequest room kind tag () fun t _ => refuse t .unknown
  case discards =>
    refine ⟨fun m bad => ?_, fun m sized whole => ?_, fun m sized short => ?_⟩ <;> subst m
    · exact discard_unsized bad rest s
    · exact discard_whole sized whole s
    · exact discard_part sized short s
  case nothing => rw [receive_eq, fromMarker_none unmarked]; rfl
  case marker => rw [receive_eq, fromMarker_append unmarked]; rfl
  case found =>
    exact ⟨fun bad => receive_unsized unmarked bad rest s, fun sized short => receive_part unmarked sized short s,
      fun sized whole => ⟨fun wrong => receive_wrong unmarked sized whole wrong s,
        fun right => receive_taken unmarked sized whole right s⟩⟩

end Sys2Proof.Machine

/-! PROOFS. The arithmetic of the part: the covering row of the lowest number (R52), the accrual and the final rounding (R126 to R128),
counter readings (R94, R122 to R127), and the fuel arithmetic (R129 to R131). The statements O19, O34, O32 and O35. -/

namespace Sys2Proof.Machine

/-! ### The match for a card (R52) -/

/-- The first number below `n` that passes, with what it gives. -/
theorem findSome?_range_eq_some_iff {α : Type} (p : Nat → Bool) (f : Nat → α) (n r : Nat) (x : α) :
    (List.range n).findSome? (fun i => if p i then some (i, f i) else none) = some (r, x) ↔
      r < n ∧ x = f r ∧ p r = true ∧ ∀ q, q < r → ¬ p q = true := by
  induction n with
  | zero => simp
  | succ n ih =>
    have none_iff : (List.range n).findSome? (fun i => if p i then some (i, f i) else none) = none ↔ ∀ q, q < n → ¬ p q = true := by
      simp [List.findSome?_eq_none_iff]
    rw [List.range_succ, List.findSome?_append, Option.or_eq_some_iff, ih, none_iff]
    constructor
    · rintro (⟨low, rest⟩ | ⟨before, last⟩)
      · exact ⟨Nat.lt_succ_of_lt low, rest⟩
      · by_cases pn : p n = true
        · simp only [List.findSome?_cons, pn, if_true, Option.some.injEq, Prod.mk.injEq] at last
          obtain ⟨rfl, rfl⟩ := last
          exact ⟨Nat.lt_succ_self _, rfl, pn, before⟩
        · simp [pn] at last
    · rintro ⟨low, rfl, pr, before⟩
      rcases Nat.lt_succ_iff_lt_or_eq.mp low with low | rfl
      · exact .inl ⟨low, rfl, pr, before⟩
      · exact .inr ⟨before, by simp [pr]⟩

theorem CredRow.covers_iff (row : CredRow) (c : Card) :
    row.covers c = true ↔ row.enabled = true ∧ (c ^^^ row.code) &&& row.mask = 0 := by
  simp only [CredRow.covers, Bool.and_eq_true, decide_eq_true_eq, BitVec.ofNat_eq_ofNat]

/-- Settles O19: the matcher takes the first row that covers. -/
theorem matchIsTheLowestCoveringRow : Obligations.MatchIsTheLowestCoveringRow := by
  intro s c
  constructor
  · intro r row
    simp only [← CredRow.covers_iff]
    exact findSome?_range_eq_some_iff (fun q => (s.credRow q).covers c) s.credRow 512 r row
  · simp only [← CredRow.covers_iff, State.matchRow, List.findSome?_eq_none_iff, List.mem_range, ite_eq_right_iff, reduceCtorEq,
      imp_false]

/-! ### Accrual and rounding (R126 to R128) -/

/-- One delta moves its price in millicents between the cents and the residue, and nothing of it is lost. -/
theorem Session.accrued_total (a : Session) (d rate : Nat) :
    1000 * (a.accrued d rate).cents + (a.accrued d rate).residue = 1000 * a.cents + a.residue + d * rate := by
  simp only [Session.accrued]
  omega

/-- What a session has billed after a run of deltas at their rates. -/
def Session.billedRun (a : Session) (l : List (Nat × Nat)) : Session :=
  l.foldl (fun (a : Session) k => a.accrued k.1 k.2) a

theorem Session.billedRun_total (l : List (Nat × Nat)) (a : Session) :
    1000 * (a.billedRun l).cents + (a.billedRun l).residue = 1000 * a.cents + a.residue + (l.map (fun k => k.1 * k.2)).sum := by
  induction l generalizing a with
  | nil => rfl
  | cons k l ih =>
    calc 1000 * ((a.accrued k.1 k.2).billedRun l).cents + ((a.accrued k.1 k.2).billedRun l).residue
      _ = 1000 * (a.accrued k.1 k.2).cents + (a.accrued k.1 k.2).residue + (l.map (fun k => k.1 * k.2)).sum := ih _
      _ = 1000 * a.cents + a.residue + k.1 * k.2 + (l.map (fun k => k.1 * k.2)).sum := by rw [Session.accrued_total]
      _ = _ := by rw [List.map_cons, List.sum_cons, Nat.add_assoc _ (k.1 * k.2)]

theorem Session.billedRun_residue (l : List (Nat × Nat)) (a : Session) (h : a.residue ≤ 999) : (a.billedRun l).residue ≤ 999 := by
  induction l generalizing a with
  | nil => exact h
  | cons k l ih => exact ih _ (a.accrued_residue k.1 k.2)

theorem Session.billedRun_billed (l : List (Nat × Nat)) (a : Session) (h : a.billed ≤ 4294967295) :
    (a.billedRun l).billed = min (a.billed + (l.map Prod.fst).sum) 4294967295 := by
  induction l generalizing a with
  | nil => exact (Nat.min_eq_left h).symm
  | cons k l ih =>
    have billed : (a.accrued k.1 k.2).billed = min (a.billed + k.1) 4294967295 := rfl
    refine (ih (a.accrued k.1 k.2) (billed ▸ Nat.min_le_right ..)).trans ?_
    rw [billed, List.map_cons, List.sum_cons]
    omega

/-- The rounding leaves the total rounded to the nearest cent. -/
theorem Session.rounded_cents (a : Session) (h : a.residue ≤ 999) : a.rounded.cents = (1000 * a.cents + a.residue + 500) / 1000 := by
  unfold Session.rounded
  split <;> dsimp only <;> omega

/-- Settles O34: the total is conserved delta by delta, and the close rounds it. -/
theorem accrualLosesNoMillicent : Obligations.AccrualLosesNoMillicent := by
  intro account card now l opened ses total
  have conserved : 1000 * ses.cents + ses.residue = total :=
    (Session.billedRun_total l opened).trans (Nat.zero_add total)
  have residue : ses.residue ≤ 999 := Session.billedRun_residue l opened (Nat.zero_le _)
  have billed : ses.billed = min (l.map Prod.fst).sum 4294967295 := by
    rw [← Nat.zero_add (l.map Prod.fst).sum]
    exact Session.billedRun_billed l opened (Nat.zero_le _)
  exact ⟨conserved, residue, billed, by rw [ses.rounded_cents residue, conserved], ses.rounded_residue⟩

/-! ### Counter readings (R94, R122 to R127) -/

theorem meterElapsed_eq (now t : Nat) : meterElapsed now t = (max 1 (min 3600 ((now : Int) - t))).toNat := by
  unfold meterElapsed
  omega

theorem State.ratesValid_iff (s : State) : s.ratesValid = true ↔ s.rates.state = .valid := by
  unfold State.ratesValid
  cases s.rates.state <;> decide

section
variable {s : State} {r : PointRef} {x : Point} {b : Baseline} {n : Nat}

theorem State.takeReading_first (h : s.point? r = some x) (none : x.baseline = none) :
    s.takeReading r n = s.storePoint r { x with baseline := some { reading := n, time := s.clock } } := by
  simp only [State.takeReading, h, none]

/-! A reading with a baseline is held against the limit for the elapsed time (R122, R123). -/

theorem State.takeReading_above (h : s.point? r = some x) (stored : x.baseline = some b)
    (above : s.pulseLimit r * meterElapsed s.clock b.time < meterDelta n b.reading) :
    s.takeReading r n =
      s.meterFault r b n (meterDelta n b.reading) (meterElapsed s.clock b.time) (s.pulseLimit r * meterElapsed s.clock b.time) := by
  simp only [State.takeReading, h, stored, if_pos above]

theorem State.takeReading_idle (h : s.point? r = some x) (stored : x.baseline = some b)
    (within : meterDelta n b.reading ≤ s.pulseLimit r * meterElapsed s.clock b.time) (none : x.session = none) :
    s.takeReading r n = s.addUnattributed r x n (meterDelta n b.reading) := by
  simp only [State.takeReading, h, stored, if_neg (Nat.not_lt.mpr within), none]

theorem State.takeReading_session {ses : Session} (h : s.point? r = some x) (stored : x.baseline = some b)
    (within : meterDelta n b.reading ≤ s.pulseLimit r * meterElapsed s.clock b.time) (session : x.session = some ses) :
    s.takeReading r n = s.accrue r x ses b n (meterDelta n b.reading) := by
  simp only [State.takeReading, h, stored, if_neg (Nat.not_lt.mpr within), session]

theorem State.addUnattributed_eq (d : Nat) :
    s.addUnattributed r x n d =
      let moved : Point := { x with baseline := some { reading := n, time := s.clock } }
      let u := min (x.unattributed + d) 65535
      if d = 0 then s.storePoint r moved
      else if s.rates.state = .valid ∧ leakThreshold s.rateRows r.svc < u then
        (s.storePoint r { moved with unattributed := 0 }).post (.leak r (s.pointBerth r) u)
      else s.storePoint r { moved with unattributed := u } := by
  simp only [State.addUnattributed, s.ratesValid_iff, satAdd]

theorem State.accrue_unpriced {ses : Session} (d : Nat) (h : s.rates.state ≠ .valid) :
    s.accrue r x ses b n d = s.storePoint r { x with
      baseline := some { reading := n, time := s.clock }
      session := some { ses with unbilled := min (ses.unbilled + d) 4294967295 } } := by
  simp only [State.accrue, s.ratesValid_iff, h, if_false, satAdd]

/-- A billed delta: the accrued session, or a meter fault where its cents pass their bound (R127). -/
theorem State.accrue_priced {ses : Session} (d : Nat) (h : s.rates.state = .valid) :
    s.accrue r x ses b n d =
      let after := ses.accrued d (bandRate s.rateRows r.svc (bandAt s.rateRows s.clock))
      let stored := s.storePoint r { x with baseline := some { reading := n, time := s.clock }, session := some after }
      if centsMax < after.cents then
        s.meterFault r b n d (meterElapsed s.clock b.time) (s.pulseLimit r * meterElapsed s.clock b.time)
      else if after.cents = ses.cents then stored else stored.debit ses.account (after.cents - ses.cents) .meter := by
  simp only [State.accrue, s.ratesValid_iff, h, if_true]

/-- The cents an accrual adds are the whole thousands of its millicents. -/
theorem Session.accrued_cents_eq_iff (ses : Session) (d rate : Nat) :
    (ses.accrued d rate).cents = ses.cents ↔ (ses.residue + d * rate) / 1000 = 0 := by
  simp only [Session.accrued]
  omega

theorem Session.accrued_cents_sub (ses : Session) (d rate : Nat) :
    (ses.accrued d rate).cents - ses.cents = (ses.residue + d * rate) / 1000 := by
  simp only [Session.accrued]
  omega

end

/-- Settles O32: the reading without a baseline, above its limit, and at or below it for a point without and with a session. -/
theorem counterReadingsAreJudged : Obligations.CounterReadingsAreJudged := by
  intro s r n x h
  refine ⟨fun none => s.takeReading_first h none, fun b stored => ?_⟩
  rw [← meterElapsed_eq]
  refine ⟨fun above => s.takeReading_above h stored above,
    fun within none => (s.takeReading_idle h stored within none).trans (s.addUnattributed_eq _),
    fun ses within session unpriced => (s.takeReading_session h stored within session).trans (s.accrue_unpriced _ unpriced),
    fun ses within session priced => ?_⟩
  have judged := (s.takeReading_session h stored within session).trans (s.accrue_priced _ priced)
  refine ⟨fun past => judged.trans (if_pos past), fun kept => judged.trans ((if_neg (Nat.not_lt.mpr kept)).trans ?_)⟩
  simp only [ses.accrued_cents_eq_iff, ses.accrued_cents_sub]
  rfl

/-! ### Fuel arithmetic and display digits (R129 to R131) -/

theorem fuelAmount_bound {v p : Nat} (hv : v ≤ 999999) (hp : p ≤ 65535) : v * p ≤ 65534934465 :=
  Nat.mul_le_mul hv hp

theorem fuelAmount_le_iff (v p h : Nat) : fuelAmount v p ≤ h ↔ v * p ≤ 1000 * h + 499 := by
  unfold fuelAmount
  omega

/-- One centilitre more than a stop volume below the bound costs more than the limit (R130). -/
theorem lt_fuelAmount_stopVolume_succ {h p : Nat} (hp : 1 ≤ p) (below : stopVolume h p < 999999) :
    h < fuelAmount (stopVolume h p + 1) p := by
  have quotient : stopVolume h p = (1000 * h + 499) / p := by unfold stopVolume at below ⊢; omega
  have beyond : 1000 * h + 499 < ((1000 * h + 499) / p + 1) * p := Nat.lt_mul_of_div_lt (Nat.lt_succ_self _) hp
  rw [← Nat.not_le, fuelAmount_le_iff, quotient]
  exact Nat.not_le.mpr beyond

theorem stopVolume_eq_zero_iff {h p : Nat} (hp : 1 ≤ p) : stopVolume h p = 0 ↔ 1000 * h + 499 < p := by
  have quotient : (1000 * h + 499) / p = 0 ↔ 1000 * h + 499 < p := Nat.div_eq_zero_iff_lt hp
  rw [← quotient]
  unfold stopVolume
  omega

theorem displayDigits_value (v : Nat) : (displayDigits v).foldl (fun n d => 10 * n + d) 0 = min v 999999 := by
  simp only [displayDigits, List.foldl_cons, List.foldl_nil]
  omega

theorem displayDigits_le {v d : Nat} (h : d ∈ displayDigits v) : d ≤ 9 := by
  simp only [displayDigits, List.mem_cons, List.not_mem_nil, or_false] at h
  omega

/-- Two digits share a byte (R131). -/
theorem packed_digits {a b : Nat} (ha : a ≤ 9) (hb : b ≤ 9) :
    ((BitVec.ofNat 8 (16 * a + b)).toNat / 16, (BitVec.ofNat 8 (16 * a + b)).toNat % 16) = (a, b) := by
  rw [BitVec.toNat_ofNat]
  exact Prod.ext (by dsimp only; omega) (by dsimp only; omega)

theorem packDigits_six {a b c d e f : Nat} (h : ∀ k ∈ [a, b, c, d, e, f], k ≤ 9) :
    (packDigits [a, b, c, d, e, f]).map (fun x => (x.toNat / 16, x.toNat % 16)) = [(a, b), (c, d), (e, f)] := by
  simp only [List.forall_mem_cons] at h
  obtain ⟨ha, hb, hc, hd, he, hf, -⟩ := h
  simp only [packDigits, List.map_cons, List.map_nil, packed_digits ha hb, packed_digits hc hd, packed_digits he hf]

/-- Settles O35: the amounts by bounds of products and quotients, the digits one by one. -/
theorem fuelAmountStopVolumeAndDigits : Obligations.FuelAmountStopVolumeAndDigits := by
  refine ⟨fun v p hv _ hp => ?_, fun h p _ _ hp _ => ?_, fun v => ?_⟩
  · have bound := fuelAmount_bound hv hp
    refine ⟨rfl, ?_, ?_⟩
    · omega
    · unfold fuelAmount; omega
  · exact ⟨rfl, fuelAmount_stopVolume_le h p, lt_fuelAmount_stopVolume_succ hp, stopVolume_eq_zero_iff hp⟩
  · exact ⟨displayDigits_value v, rfl, fun _ => displayDigits_le, packDigits_six fun _ => displayDigits_le (v := v)⟩

end Sys2Proof.Machine

/-! PROOFS. Posts and service points: what each change of a post leaves at each of its points (R91, R106), what each change of the state at
one point leaves at that point and elsewhere, and what an order to every post does at each point (R97, R99). The statements O25 and O18. -/

namespace Sys2Proof.Machine

/-! ### The points of a post -/

@[simp] theorem Post.point_setPoint (p : Post) (side : Nat) (svc : Service) (x : Point) : (p.setPoint side svc x).point side svc = x := by
  rcases side with _ | _ <;> cases svc <;> rfl

theorem Post.point_setPoint_other (p : Post) {i j : Nat} {v w : Service} (x : Point) (hi : i ≤ 1) (hj : j ≤ 1) (h : j ≠ i ∨ w ≠ v) :
    (p.setPoint i v x).point j w = p.point j w := by
  obtain rfl | rfl := Nat.le_one_iff_eq_zero_or_eq_one.mp hi <;> obtain rfl | rfl := Nat.le_one_iff_eq_zero_or_eq_one.mp hj <;>
    cases v <;> cases w <;> first | rfl | exact absurd h (by decide)

@[simp] theorem Post.point_setMark (p : Post) (b : Bool) (side : Nat) (svc : Service) : (p.setMark b).point side svc = p.point side svc := by
  rcases side with _ | _ <;> cases svc <;> rfl

@[simp] theorem Post.point_setDet (p : Post) (k : Nat) (d : Detector) (side : Nat) (svc : Service) :
    (p.setDet k d).point side svc = p.point side svc := by
  rcases k with _ | _ <;> rcases side with _ | _ <;> cases svc <;> rfl

@[simp] theorem Post.det_setDet (p : Post) (side : Nat) (d : Detector) : (p.setDet side d).det side = d := by
  rcases side with _ | _ <;> rfl

theorem Post.det_setDet_other (p : Post) {i j : Nat} (d : Detector) (hi : i ≤ 1) (hj : j ≤ 1) (h : j ≠ i) :
    (p.setDet i d).det j = p.det j := by
  obtain rfl | rfl := Nat.le_one_iff_eq_zero_or_eq_one.mp hi <;> obtain rfl | rfl := Nat.le_one_iff_eq_zero_or_eq_one.mp hj <;>
    first | rfl | exact absurd rfl h

@[simp] theorem Post.mark_setPoint (p : Post) (side : Nat) (svc : Service) (x : Point) : (p.setPoint side svc x).mark = p.mark := by
  rcases side with _ | _ <;> cases svc <;> rfl

@[simp] theorem Post.mark_setDet (p : Post) (side : Nat) (d : Detector) : (p.setDet side d).mark = p.mark := by
  rcases side with _ | _ <;> rfl

@[simp] theorem Post.det0_setPoint (p : Post) (side : Nat) (svc : Service) (x : Point) : (p.setPoint side svc x).det0 = p.det0 := by
  rcases side with _ | _ <;> cases svc <;> rfl

@[simp] theorem Post.det1_setPoint (p : Post) (side : Nat) (svc : Service) (x : Point) : (p.setPoint side svc x).det1 = p.det1 := by
  rcases side with _ | _ <;> cases svc <;> rfl

/-- The record a point ends with when it takes `x` where `old` stood: a change of its desired state sets its unconfirmed count to 0 (R91). -/
def Point.over (x old : Point) : Point :=
  if old.state.desiredOn = x.state.desiredOn then x else { x with unconfirmed := 0 }

@[simp] theorem Point.over_state (x old : Point) : (x.over old).state = x.state := by unfold Point.over; split <;> rfl
@[simp] theorem Point.over_session (x old : Point) : (x.over old).session = x.session := by unfold Point.over; split <;> rfl
@[simp] theorem Point.over_enables (x old : Point) : (x.over old).enables = x.enables := by unfold Point.over; split <;> rfl
@[simp] theorem Point.over_baseline (x old : Point) : (x.over old).baseline = x.baseline := by unfold Point.over; split <;> rfl
@[simp] theorem Point.over_unattributed (x old : Point) : (x.over old).unattributed = x.unattributed := by
  unfold Point.over; split <;> rfl

theorem Point.over_of_same {x old : Point} (h : old.state.desiredOn = x.state.desiredOn) : x.over old = x := if_pos h

theorem Point.over_of_moved {x old : Point} (h : old.state.desiredOn ≠ x.state.desiredOn) : x.over old = { x with unconfirmed := 0 } :=
  if_neg h

theorem Post.change_of_same {p : Post} {side : Nat} {svc : Service} {x : Point}
    (h : (p.point side svc).state.desiredOn = x.state.desiredOn) : p.change side svc x = p.setPoint side svc x := if_pos h

theorem Post.change_of_moved {p : Post} {side : Nat} {svc : Service} {x : Point}
    (h : (p.point side svc).state.desiredOn ≠ x.state.desiredOn) :
    p.change side svc x = (p.setPoint side svc { x with unconfirmed := 0 }).setMark false := if_neg h

@[simp] theorem Post.point_change (p : Post) (side : Nat) (svc : Service) (x : Point) :
    (p.change side svc x).point side svc = x.over (p.point side svc) := by
  by_cases h : (p.point side svc).state.desiredOn = x.state.desiredOn
  · rw [Post.change_of_same h, Post.point_setPoint, Point.over_of_same h]
  · rw [Post.change_of_moved h, Post.point_setMark, Post.point_setPoint, Point.over_of_moved h]

theorem Post.point_change_other (p : Post) {i j : Nat} {v w : Service} (x : Point) (hi : i ≤ 1) (hj : j ≤ 1) (h : j ≠ i ∨ w ≠ v) :
    (p.change i v x).point j w = p.point j w := by
  unfold Post.change
  split
  · exact p.point_setPoint_other x hi hj h
  · rw [Post.point_setMark]; exact p.point_setPoint_other _ hi hj h

@[simp] theorem Post.det0_change (p : Post) (side : Nat) (svc : Service) (x : Point) : (p.change side svc x).det0 = p.det0 := by
  unfold Post.change; split <;> simp [Post.setMark]

@[simp] theorem Post.det1_change (p : Post) (side : Nat) (svc : Service) (x : Point) : (p.change side svc x).det1 = p.det1 := by
  unfold Post.change; split <;> simp [Post.setMark]

theorem Post.det_eq (p : Post) (k : Nat) : p.det k = if k = 0 then p.det0 else p.det1 := by
  rcases k with _ | _ <;> rfl

@[simp] theorem Post.det_change (p : Post) (side : Nat) (svc : Service) (x : Point) (k : Nat) : (p.change side svc x).det k = p.det k := by
  rw [Post.det_eq, Post.det_eq, Post.det0_change, Post.det1_change]

theorem PointState.desiredOn_eq (q : PointState) : q.desiredOn = (q == .starting || q == .live) := by
  cases q <;> decide

theorem PointState.desiredOn_iff (q : PointState) : q.desiredOn = true ↔ q = .starting ∨ q = .live := by
  cases q <;> decide

theorem PointState.atRest_iff (q : PointState) : q.atRest = true ↔ q = .off ∨ q = .fault := by
  cases q <;> decide

/-- Settles O25: a change of record that moves the desired state is a stored record and a set mark, any other is a stored record. -/
theorem pointChangeSetsTheMark : Obligations.PointChangeSetsTheMark := by
  intro p side svc x hs q on moved
  have on_eq (st : PointState) : on st = st.desiredOn := st.desiredOn_eq.symm
  refine ⟨?own, fun k v hk other => p.point_change_other x hs hk other, p.det0_change side svc x, p.det1_change side svc x, ?mark⟩
  all_goals
    simp only [moved, on_eq, q]
    by_cases same : (p.point side svc).state.desiredOn = x.state.desiredOn
  · rw [Post.point_change, Point.over_of_same same, same, bne_self_eq_false, if_neg Bool.false_ne_true]
  · rw [Post.point_change, Point.over_of_moved same, if_pos (bne_iff_ne.mpr same)]
  · rw [Post.change_of_same same, same, bne_self_eq_false, if_neg Bool.false_ne_true, Post.mark_setPoint]
  · rw [Post.change_of_moved same, if_pos (bne_iff_ne.mpr same)]
    cases m : p.mark <;> simp [Post.setMark, m]

/-! ### An order to every point of a post -/

/-- An order that acts at each point by a function of the point's record and leaves the others alone acts at each point by that function. -/
theorem Post.point_eachPoint {f : Post → Nat → Service → Post} {g : Nat → Service → Point → Point}
    (own : ∀ p i v, (f p i v).point i v = g i v (p.point i v))
    (other : ∀ p i v j w, i ≤ 1 → j ≤ 1 → (j ≠ i ∨ w ≠ v) → (f p i v).point j w = p.point j w)
    (p : Post) {j : Nat} (hj : j ≤ 1) (w : Service) : (p.eachPoint f).point j w = g j w (p.point j w) := by
  have stays (q : Post) (i k : Nat) (v u : Service) (hi : i ≤ 1) (hk : k ≤ 1) (h : k ≠ i ∨ u ≠ v) := other q i v k u hi hk h
  simp only [Post.eachPoint, postPoints, List.foldl_cons, List.foldl_nil]
  obtain rfl | rfl := Nat.le_one_iff_eq_zero_or_eq_one.mp hj <;> cases w
  · rw [stays _ 1 0 .water .power, stays _ 1 0 .power .power, stays _ 0 0 .water .power, own] <;> decide
  · rw [stays _ 1 0 .water .water, stays _ 1 0 .power .water, own, stays _ 0 0 .power .water] <;> decide
  · rw [stays _ 1 1 .water .power, own, stays _ 0 1 .water .power, stays _ 0 1 .power .power] <;> decide
  · rw [own, stays _ 1 1 .power .water, stays _ 0 1 .water .water, stays _ 0 1 .power .water] <;> decide

/-- A suspension order on a point's record (R97). -/
def Point.suspendedFor (x : Point) (account : Nat) (reason : SuspReason) : Point :=
  match x.session with
  | some ses =>
    if x.state.desiredOn = true ∧ ses.account = account then
      { x with state := .suspended, session := some (ses.suspend reason), unconfirmed := 0 }
    else x
  | none => x

theorem Post.suspendPoint_own (account : Nat) (reason : SuspReason) (p : Post) (i : Nat) (v : Service) :
    (p.suspendPoint account reason i v).point i v = (p.point i v).suspendedFor account reason := by
  cases hs : (p.point i v).session with
  | none => simp only [Post.suspendPoint, Point.suspendedFor, hs]
  | some ses =>
    simp only [Post.suspendPoint, Point.suspendedFor, hs, Bool.and_eq_true, beq_iff_eq]
    split
    · rename_i h
      have moved : (p.point i v).state.desiredOn ≠ PointState.desiredOn .suspended := by rw [h.1]; decide
      rw [Post.point_change, Point.over_of_moved moved]
    · rfl

theorem Post.suspendPoint_other (account : Nat) (reason : SuspReason) (p : Post) (i : Nat) (v : Service) (j : Nat) (w : Service)
    (hi : i ≤ 1) (hj : j ≤ 1) (h : j ≠ i ∨ w ≠ v) : (p.suspendPoint account reason i v).point j w = p.point j w := by
  unfold Post.suspendPoint
  dsimp only
  split
  · split
    · exact p.point_change_other _ hi hj h
    · rfl
  · rfl

/-! ### The points of the state -/

theorem State.point?_of_post {s : State} {r : PointRef} {p : Post} (h : s.post? r.arm r.addr = some p) :
    s.point? r = some (p.point r.side r.svc) := by
  rw [State.point?, h]; rfl

/-- A point stands in a post. -/
theorem State.post_of_point {s : State} {r : PointRef} {x : Point} (h : s.point? r = some x) :
    ∃ p, s.post? r.arm r.addr = some p ∧ p.point r.side r.svc = x := by
  simpa [State.point?] using h

theorem State.arm_default {s : State} {a : Nat} (h : ¬ a < 6) : s.arm a = Arm.reset := by
  simp only [State.arm, tabGet, Vector.getElem?_eq_none (Nat.le_of_not_lt h), Option.getD_none]

/-- A post stands at an address of an arm. -/
theorem State.post_place {s : State} {a d : Nat} {p : Post} (h : s.post? a d = some p) : a < 6 ∧ 1 ≤ d ∧ d ≤ 30 := by
  refine Decidable.byContradiction fun out => ?_
  have default : s.slot a d = Slot.reset := by
    rcases Classical.not_and_iff_not_or_not.mp out with ha | hd
    · rw [State.slot, State.arm_default ha, Arm.reset_slot]
    · exact s.slot_outside a d hd
  rw [State.post?, default] at h
  cases h

theorem State.slot_setPost {s : State} {a d : Nat} {q : Post} (p : Post) (h : s.post? a d = some q) (b e : Nat) :
    (s.setPost a d p).slot b e = if a = b ∧ d = e then { s.slot a d with post := some p } else s.slot b e := by
  obtain ⟨ha, hd⟩ := State.post_place h
  rw [State.setPost, State.slot_setSlot]
  by_cases place : a = b ∧ d = e
  · obtain ⟨rfl, rfl⟩ := place
    rw [if_pos ⟨⟨rfl, ha⟩, rfl, hd⟩, if_pos ⟨rfl, rfl⟩]
  · rw [if_neg place, if_neg fun k => place ⟨k.1.1, k.2.1⟩]

theorem State.post?_setPost {s : State} {a d : Nat} {q : Post} (p : Post) (h : s.post? a d = some q) (b e : Nat) :
    (s.setPost a d p).post? b e = if a = b ∧ d = e then some p else s.post? b e := by
  rw [State.post?, State.slot_setPost p h]
  split <;> rfl

theorem State.post?_setPost_self {s : State} {a d : Nat} {q : Post} (p : Post) (h : s.post? a d = some q) :
    (s.setPost a d p).post? a d = some p := by
  rw [State.post?_setPost p h, if_pos ⟨rfl, rfl⟩]

/-- The points of a state after a change of one post: those of the new post, and the others as before. -/
theorem State.point?_setPost {s : State} {a d : Nat} {q : Post} (p : Post) (h : s.post? a d = some q) (r : PointRef) :
    (s.setPost a d p).point? r = if a = r.arm ∧ d = r.addr then some (p.point r.side r.svc) else s.point? r := by
  rw [State.point?, State.post?_setPost p h]
  split <;> rfl

/-- Two points at the same place of an arm, of sides 0 or 1, that are not the same point. -/
theorem PointRef.ne_iff {r q : PointRef} (place : q.arm = r.arm ∧ q.addr = r.addr) : r ≠ q ↔ r.side ≠ q.side ∨ r.svc ≠ q.svc := by
  obtain ⟨a, d, i, v⟩ := r
  obtain ⟨b, e, j, w⟩ := q
  obtain ⟨rfl, rfl⟩ := place
  simp only [ne_eq, PointRef.mk.injEq, true_and, Classical.not_and_iff_not_or_not]

/-! ### What a change of posts leaves (frame) -/

/-- From `s` to `t` nothing but post records has changed. -/
structure OnlyPosts (s t : State) : Prop where
  rest : { t with arms := s.arms } = s
  arm : ∀ a, { t.arm a with slots := (s.arm a).slots } = s.arm a
  slot : ∀ a d, { t.slot a d with post := (s.slot a d).post } = s.slot a d

theorem OnlyPosts.refl (s : State) : OnlyPosts s s := ⟨rfl, fun _ => rfl, fun _ _ => rfl⟩

theorem OnlyPosts.trans {s t u : State} (h : OnlyPosts s t) (k : OnlyPosts t u) : OnlyPosts s u := by
  refine ⟨?_, fun a => ?_, fun a d => ?_⟩
  · calc ({ u with arms := s.arms } : State) = { ({ u with arms := t.arms } : State) with arms := s.arms } := rfl
      _ = s := by rw [k.rest, h.rest]
  · calc ({ u.arm a with slots := (s.arm a).slots } : Arm)
        = { ({ u.arm a with slots := (t.arm a).slots } : Arm) with slots := (s.arm a).slots } := rfl
      _ = s.arm a := by rw [k.arm, h.arm]
  · calc ({ u.slot a d with post := (s.slot a d).post } : Slot)
        = { ({ u.slot a d with post := (t.slot a d).post } : Slot) with post := (s.slot a d).post } := rfl
      _ = s.slot a d := by rw [k.slot, h.slot]

theorem OnlyPosts.eq {s t : State} (h : OnlyPosts s t) : t = { s with arms := t.arms } := by
  conv => rhs; rw [← h.rest]

section
variable {s t : State} (h : OnlyPosts s t)
include h

theorem OnlyPosts.row (a d : Nat) : t.row a d = s.row a d := (congrArg Slot.row (h.slot a d) :)
theorem OnlyPosts.station (a d : Nat) : (t.slot a d).station = (s.slot a d).station := (congrArg Slot.station (h.slot a d) :)
theorem OnlyPosts.pointBerth (r : PointRef) : t.pointBerth r = s.pointBerth r := congrArg (Row.berthOf · r.side) (h.row r.arm r.addr)
theorem OnlyPosts.clock : t.clock = s.clock := by rw [h.eq]
theorem OnlyPosts.tripDelay : t.tripDelay = s.tripDelay := by rw [h.eq]
theorem OnlyPosts.berths : t.berths = s.berths := by rw [h.eq]
theorem OnlyPosts.berth (n : Nat) : t.berth n = s.berth n := by rw [h.eq]; rfl
theorem OnlyPosts.account (n : Nat) : t.account n = s.account n := by rw [h.eq]; rfl
theorem OnlyPosts.notices : t.notices = s.notices := by rw [h.eq]
theorem OnlyPosts.rates : t.rates = s.rates := by rw [h.eq]
theorem OnlyPosts.armState (a : Nat) : (t.arm a).state = (s.arm a).state := (congrArg Arm.state (h.arm a) :)

end

theorem OnlyPosts.setPost (s : State) (a d : Nat) (p : Post) : OnlyPosts s (s.setPost a d p) := by
  refine ⟨rfl, fun b => ?_, fun b e => ?_⟩
  · rw [State.setPost, State.setSlot, State.arm_setArm]
    split
    · rename_i place
      obtain ⟨rfl, -⟩ := place
      rfl
    · rfl
  · rw [State.setPost, State.slot_setSlot]
    split
    · rename_i place
      obtain ⟨⟨rfl, -⟩, rfl, -⟩ := place
      rfl
    · rfl

theorem OnlyPosts.mapPosts (s : State) (f : Row → Post → Post) : OnlyPosts s (s.mapPosts f) := by
  refine ⟨rfl, fun a => ?_, fun a d => ?_⟩
  · rw [State.arm_mapPosts]
  · rw [State.slot_mapPosts]

theorem State.point?_mapPosts (s : State) (f : Row → Post → Post) (r : PointRef) :
    (s.mapPosts f).point? r =
      (s.post? r.arm r.addr).map (fun p => (f (s.row r.arm r.addr) p).point r.side r.svc) := by
  rw [State.point?, State.post?, State.slot_mapPosts, Option.map_map]
  rfl

/-! ### Changes at one point -/

section
variable {s : State} {r : PointRef} {x : Point}

theorem State.changeQuiet_of_post {p : Post} (h : s.post? r.arm r.addr = some p) (y : Point) :
    s.changeQuiet r y = s.setPost r.arm r.addr (p.change r.side r.svc y) := by
  rw [State.changeQuiet, h]

theorem State.storePoint_of_post {p : Post} (h : s.post? r.arm r.addr = some p) (y : Point) :
    s.storePoint r y = s.setPost r.arm r.addr (p.setPoint r.side r.svc y) := by
  rw [State.storePoint, h]

/-- A point that takes a record with the effects of R91 holds it. -/
theorem State.point?_changeQuiet (h : s.point? r = some x) (y : Point) : (s.changeQuiet r y).point? r = some (y.over x) := by
  obtain ⟨p, hp, rfl⟩ := State.post_of_point h
  rw [State.changeQuiet_of_post hp, State.point?_setPost _ hp, if_pos ⟨rfl, rfl⟩, Post.point_change]

theorem State.point?_storePoint (h : s.point? r = some x) (y : Point) : (s.storePoint r y).point? r = some y := by
  obtain ⟨p, hp, rfl⟩ := State.post_of_point h
  rw [State.storePoint_of_post hp, State.point?_setPost _ hp, if_pos ⟨rfl, rfl⟩, Post.point_setPoint]

theorem State.point?_changeQuiet_other {q : PointRef} (y : Point) (hr : r.side ≤ 1) (hq : q.side ≤ 1) (ne : q ≠ r) :
    (s.changeQuiet r y).point? q = s.point? q := by
  unfold State.changeQuiet
  split
  · rename_i p hp
    rw [State.point?_setPost _ hp]
    split
    · rename_i place
      rw [Post.point_change_other _ _ hr hq ((PointRef.ne_iff place).mp ne), State.point?, ← place.1, ← place.2, hp]
      rfl
    · rfl
  · rfl

theorem State.point?_storePoint_other {q : PointRef} (y : Point) (hr : r.side ≤ 1) (hq : q.side ≤ 1) (ne : q ≠ r) :
    (s.storePoint r y).point? q = s.point? q := by
  unfold State.storePoint
  split
  · rename_i p hp
    rw [State.point?_setPost _ hp]
    split
    · rename_i place
      rw [Post.point_setPoint_other _ _ hr hq ((PointRef.ne_iff place).mp ne), State.point?, ← place.1, ← place.2, hp]
      rfl
    · rfl
  · rfl

theorem OnlyPosts.changeQuiet (s : State) (r : PointRef) (y : Point) : OnlyPosts s (s.changeQuiet r y) := by
  unfold State.changeQuiet
  split
  · exact .setPost ..
  · exact .refl s

theorem OnlyPosts.storePoint (s : State) (r : PointRef) (y : Point) : OnlyPosts s (s.storePoint r y) := by
  unfold State.storePoint
  split
  · exact .setPost ..
  · exact .refl s

theorem OnlyPosts.markPost (s : State) (a d : Nat) (b : Bool) : OnlyPosts s (s.markPost a d b) := by
  unfold State.markPost
  split
  · exact .setPost ..
  · exact .refl s

theorem OnlyPosts.setDetector (s : State) (a d side : Nat) (x : Detector) : OnlyPosts s (s.setDetector a d side x) := by
  unfold State.setDetector
  split
  · exact .setPost ..
  · exact .refl s

/-- A change of record that does not take the point into OFF or FAULT has no report (R91). -/
theorem State.changePoint_of_running {y : Point} (h : s.point? r = some x) (hy : y.state.atRest = false) :
    s.changePoint r y = s.changeQuiet r y := by
  simp only [State.changePoint, h, hy, Bool.false_and, Bool.false_eq_true, if_false]

/-- A report of R91 ends at most a departure: it changes no post, and no berth but the point's own. -/
theorem State.reportAtRest_arms (s : State) (r : PointRef) : (s.reportAtRest r).arms = s.arms := by
  unfold State.reportAtRest
  split
  · split
    · unfold State.pointsAtRest
      split <;> rfl
    · rfl
  · rfl

theorem State.post?_of_arms {s t : State} (h : t.arms = s.arms) (a d : Nat) : t.post? a d = s.post? a d := by
  rw [State.post?, State.slot, State.arm_of_arms h]; rfl

theorem State.point?_of_arms {s t : State} (h : t.arms = s.arms) (r : PointRef) : t.point? r = s.point? r := by
  rw [State.point?, State.post?_of_arms h]; rfl

/-- The posts after a change of record are those after the change without its report. -/
theorem State.changePoint_arms (h : s.point? r = some x) (y : Point) : (s.changePoint r y).arms = (s.changeQuiet r y).arms := by
  unfold State.changePoint
  rw [h]
  dsimp only
  split
  · exact State.reportAtRest_arms ..
  · rfl

theorem State.point?_changePoint (h : s.point? r = some x) (y : Point) : (s.changePoint r y).point? r = some (y.over x) := by
  rw [State.point?_of_arms (State.changePoint_arms h y), State.point?_changeQuiet h]

end

/-! ### Orders to every point (R97, R99) -/

theorem State.point?_suspendAccount (s : State) (n : Nat) (reason : SuspReason) {r : PointRef} (hr : r.side ≤ 1) :
    (s.suspendAccount n reason).point? r = (s.point? r).map (·.suspendedFor n reason) := by
  rw [State.suspendAccount, State.point?_mapPosts, State.point?, Option.map_map]
  congr 1
  funext p
  exact Post.point_eachPoint (g := fun _ _ x => x.suspendedFor n reason) (Post.suspendPoint_own n reason)
    (Post.suspendPoint_other n reason) p hr r.svc

/-- A suspension order leaves a point alone that does not run on the account. -/
theorem Point.suspendedFor_of_not {x : Point} {n : Nat} {reason : SuspReason}
    (h : ∀ ses, x.session = some ses → x.state.desiredOn = true → ses.account ≠ n) : x.suspendedFor n reason = x := by
  unfold Point.suspendedFor
  split
  · rename_i ses hs
    exact if_neg fun k => h ses hs k.1 k.2
  · rfl

theorem Point.suspendedFor_of_runs {x : Point} {n : Nat} {reason : SuspReason} {ses : Session} (hs : x.session = some ses)
    (hx : x.state.desiredOn = true) (hn : ses.account = n) :
    x.suspendedFor n reason = { x with state := .suspended, session := some { ses with suspension := some reason }, unconfirmed := 0 } := by
  simp only [Point.suspendedFor, hs, hx, hn, and_self, if_true, Session.suspend]

/-- Settles O18: the order at a point is that on its record, which acts exactly where a STARTING or LIVE session names the account. -/
theorem suspensionOrderTakesEveryPointOut : Obligations.SuspensionOrderTakesEveryPointOut := by
  intro s n reason r x h hr
  refine ⟨x.suspendedFor n reason, by rw [s.point?_suspendAccount n reason hr, h]; rfl, ?none, ?idle, ?foreign, ?taken⟩
  case none =>
    intro ses session names
    by_cases runs : ∃ old, x.session = some old ∧ x.state.desiredOn = true ∧ old.account = n
    · obtain ⟨old, hs, hx, hn⟩ := runs
      rw [Point.suspendedFor_of_runs hs hx hn]
      exact ⟨nofun, nofun⟩
    · have stays : x.suspendedFor n reason = x := Point.suspendedFor_of_not fun old hs hx hn => runs ⟨old, hs, hx, hn⟩
      rw [stays] at session ⊢
      have idle : ¬ x.state.desiredOn = true := fun on => runs ⟨ses, session, on, names⟩
      rw [PointState.desiredOn_iff, not_or] at idle
      exact idle
  case idle =>
    intro idle
    refine Point.suspendedFor_of_not fun _ _ on => absurd ((PointState.desiredOn_iff _).mp on) (not_or.mpr idle)
  case foreign =>
    intro ses session other
    exact Point.suspendedFor_of_not fun old hs _ => Option.some.inj (session.symm.trans hs) ▸ other
  case taken =>
    intro ses session names runs
    exact Point.suspendedFor_of_runs session ((PointState.desiredOn_iff _).mpr runs) names

end Sys2Proof.Machine

/-! PROOFS. The Account Unit (chapter 2): the end of a request that the arbiters follow, the table of funds standings (R31) with the action on
a change (R32, R97, R99), debits, holds, settlements and releases (R33 to R39), and the office's requests (R34, R41 to R47). The statements
O16, O17, O13, O14 and O15. -/

namespace Sys2Proof.Machine

/-! ### The end of a request that can make work ready on an arm (R189, R201) -/

/-- The state such a request ends in once it is judged: its reply is placed, if it has one now, then the arbiters and the send side choose. -/
def Judged.endedBus (tag code : Nat) : Judged → State
  | (t, some r) => t.answeredBus tag code r.result r.body
  | (t, none) => t.arbitrateAll.sendNext

@[simp] theorem Judged.endedBus_refuse (tag code : Nat) (s : State) (r : Result) :
    Judged.endedBus tag code (refuse s r) = s.answeredBus tag code r .empty := rfl

@[simp] theorem Judged.endedBus_doneWith (tag code : Nat) (s : State) :
    Judged.endedBus tag code (doneWith s) = s.answeredBus tag code .done .empty := rfl

@[simp] theorem Judged.endedBus_answer (tag code : Nat) (s : State) (r : Result) (b : ReplyBody) :
    Judged.endedBus tag code (answer s r b) = s.answeredBus tag code r b := rfl

@[simp] theorem Judged.endedBus_ite (tag code : Nat) (c : Prop) {_ : Decidable c} (x y : Judged) :
    Judged.endedBus tag code (if c then x else y) = if c then x.endedBus tag code else y.endedBus tag code :=
  apply_ite ..

/-- As `Judged.ended_ite`, whatever decides the condition. -/
theorem Judged.ended_if (tag code : Nat) (c : Prop) {_ : Decidable c} (x y : Judged) :
    Judged.ended tag code (if c then x else y) = if c then x.ended tag code else y.ended tag code :=
  apply_ite ..

theorem finishBus_takeRequest {α : Type} {s : State} (h : s.Room) (code tag : Nat) (f : α) (judge : State → α → Judged) :
    finishBus (takeRequest code tag (.fields f) judge s) = .next ((judge s.frameTaken f).endedBus tag code) := by
  match hj : judge s.frameTaken f with
  | (t, some r) => rw [takeRequest_answered h.replyRoom hj]; rfl
  | (t, none) => rw [takeRequest_withheld h.replyRoom hj]; rfl

/-! ### Flags and ranges of accounts -/

theorem Account.isOpen_iff (a : Account) : a.isOpen = true ↔ a.standing ≠ .closed := bne_iff_ne

theorem Account.isOpen_false_iff (a : Account) : a.isOpen = false ↔ a.standing = .closed := bne_eq_false_iff_eq

theorem Account.hasHold_iff (a : Account) (id : Nat) : a.hasHold id = true ↔ id ∈ a.holds.map (·.id) := by
  simp only [Account.hasHold, List.any_eq_true, beq_iff_eq, List.mem_map]

@[simp] theorem inRange_iff (lo hi n : Nat) : inRange lo hi n = true ↔ lo ≤ n ∧ n ≤ hi := decide_eq_true_iff

@[simp] theorem inRange_false_iff (lo hi n : Nat) : inRange lo hi n = false ↔ ¬ (lo ≤ n ∧ n ≤ hi) := decide_eq_false_iff_not

theorem isAccount_false_iff (n : Nat) : isAccount n = false ↔ ¬ (1 ≤ n ∧ n ≤ 256) := decide_eq_false_iff_not

theorem State.account_setAccount_self {s : State} {n : Nat} (h : 1 ≤ n ∧ n ≤ 256) (a : Account) : (s.setAccount n a).account n = a := by
  rw [State.account_setAccount, if_pos ⟨rfl, h⟩]

/-! ### The table of funds standings (R31) -/

theorem fundsAfter_eq (f : Funds) (avail : Int) (low restart : Nat) :
    fundsAfter f avail low restart =
      if f = .exhausted ∧ avail < restart then .exhausted
      else if f ≠ .exhausted ∧ avail ≤ 0 then .exhausted
      else if avail < low then .low
      else .good := by
  cases f <;> simp only [fundsAfter, reduceCtorEq, ne_eq, not_true_eq_false, not_false_eq_true, true_and, false_and, if_false]

theorem Account.recomputed_eq {a : Account} {f : Funds} (h : a.funds = some f) :
    a.recomputed =
      let g := fundsAfter f a.available a.lowThreshold a.restartMin
      { a with funds := some g, standing := if a.standing = .barred then .barred else g.standing } := by
  simp only [Account.recomputed, h]

/-! ### The action on a change of standing (R32) -/

section
variable (s : State) (n : Nat)

theorem State.onStanding_same (x : Standing) : s.onStanding n x x = s := if_pos rfl

theorem State.onStanding_good_low :
    s.onStanding n .good .low = s.post (.low n (s.account n).available (s.account n).lowThreshold) := rfl

theorem State.onStanding_low_good : s.onStanding n .low .good = s := rfl

theorem State.onStanding_exhausted {x : Standing} (h : x ≠ .exhausted) :
    s.onStanding n x .exhausted = (s.suspendAccount n .credit).post
      (.exhausted n (s.account n).available (s.account n).balance (s.account n).holds.length) := if_neg h

theorem State.onStanding_barred {x : Standing} (h : x ≠ .barred) :
    s.onStanding n x .barred = (s.suspendAccount n .barred).post (.barred n (s.account n).balance) := if_neg h

/-- A return to GOOD or LOW from EXHAUSTED or BARRED: the credit-release event, then RESTORED. -/
theorem State.onStanding_restored {x y : Standing} (hx : x = .exhausted ∨ x = .barred) (hy : y = .good ∨ y = .low) :
    s.onStanding n x y = (s.creditRelease n).post (.restored n y (s.account n).available) := by
  obtain rfl | rfl := hx <;> obtain rfl | rfl := hy <;> rfl

/-- The credit-release event changes no account and no berth. -/
theorem OnlyPosts.creditRelease : OnlyPosts s (s.creditRelease n) := .mapPosts s _

theorem OnlyPosts.suspendAccount (r : SuspReason) : OnlyPosts s (s.suspendAccount n r) := .mapPosts s _

end

/-! ### The credit-release event at a point (R99) -/

/-- The credit-release event on a point's record. `occupied` and `inFunds` are the point's berth's and the account's part. -/
def Point.creditReleased (x : Point) (account : Nat) (occupied inFunds : Bool) : Point :=
  match x.session with
  | some ses =>
    if x.state = .suspended ∧ ses.account = account ∧ (ses.suspension = some .credit ∨ ses.suspension = some .barred) ∧
        x.enables.credit = true ∧ occupied = true ∧ inFunds = true then
      { x with state := .starting, unconfirmed := 0, session := some (ses.release .credit) }
    else x
  | none => x

/-- A release of a point with a session (R98). -/
theorem Post.point_releasePoint {p : Post} {i : Nat} {v : Service} {ses : Session} (h : (p.point i v).session = some ses) (c : Cause) :
    (p.releasePoint i v c).point i v =
      ({ p.point i v with state := .starting, session := some (ses.release c) } : Point).over (p.point i v) := by
  simp only [Post.releasePoint, h]
  split <;> simp only [Post.point_change, Post.point_setDet]

theorem Post.point_releasePoint_other (p : Post) {i j : Nat} {v w : Service} (c : Cause) (hi : i ≤ 1) (hj : j ≤ 1)
    (h : j ≠ i ∨ w ≠ v) : (p.releasePoint i v c).point j w = p.point j w := by
  unfold Post.releasePoint
  dsimp only
  split
  · rw [Post.point_change_other _ _ hi hj h]
    split
    · rw [Post.point_setDet]
    · rfl
  · rfl

/-- Where the suspension is the account's own, a SUSPENDED point is released with cause CREDIT on three conditions (R98). -/
theorem Point.creditFailure_none_iff {x : Point} {ses : Session} (hs : x.session = some ses) (hx : x.state = .suspended)
    (hr : ses.suspension = some .credit ∨ ses.suspension = some .barred) (occupied inFunds : Bool) (now delay : Nat) :
    x.releaseFailure .credit occupied inFunds now delay = none ↔ x.enables.credit = true ∧ occupied = true ∧ inFunds = true := by
  have notOffice : ses.suspension ≠ some .office := by rcases hr with e | e <;> rw [e] <;> decide
  simp only [Point.releaseFailure, hs, hx, notOffice, Enables.allows]
  cases x.enables.credit <;> cases occupied <;> cases inFunds <;> simp

theorem Post.creditReleasePoint_own (account : Nat) (occupied : Nat → Bool) (inFunds : Bool) (now delay : Nat) (p : Post) (i : Nat)
    (v : Service) : (p.creditReleasePoint account occupied inFunds now delay i v).point i v =
      (p.point i v).creditReleased account (occupied i) inFunds := by
  cases hs : (p.point i v).session with
  | none => simp only [Post.creditReleasePoint, Point.creditReleased, hs]
  | some ses =>
    have same : ((p.point i v).state = .suspended ∧ ses.account = account ∧
          (ses.suspension = some .credit ∨ ses.suspension = some .barred) ∧
          (p.point i v).releaseFailure .credit (occupied i) inFunds now delay = none) ↔
        ((p.point i v).state = .suspended ∧ ses.account = account ∧ (ses.suspension = some .credit ∨ ses.suspension = some .barred) ∧
          (p.point i v).enables.credit = true ∧ occupied i = true ∧ inFunds = true) :=
      and_congr_right fun hx => and_congr_right fun _ => and_congr_right fun hr => Point.creditFailure_none_iff hs hx hr ..
    simp only [Post.creditReleasePoint, Point.creditReleased, hs, same]
    split
    · rename_i h
      have moved : (p.point i v).state.desiredOn ≠ PointState.desiredOn .starting := by rw [h.1]; decide
      rw [Post.point_releasePoint hs, Point.over_of_moved moved]
    · rfl

theorem Post.creditReleasePoint_other (account : Nat) (occupied : Nat → Bool) (inFunds : Bool) (now delay : Nat) (p : Post) (i : Nat)
    (v : Service) (j : Nat) (w : Service) (hi : i ≤ 1) (hj : j ≤ 1) (h : j ≠ i ∨ w ≠ v) :
    (p.creditReleasePoint account occupied inFunds now delay i v).point j w = p.point j w := by
  unfold Post.creditReleasePoint
  dsimp only
  split
  · split
    · exact p.point_releasePoint_other _ hi hj h
    · rfl
  · rfl

theorem State.point?_creditRelease (s : State) (n : Nat) {r : PointRef} (hr : r.side ≤ 1) :
    (s.creditRelease n).point? r =
      (s.point? r).map (·.creditReleased n (s.occupied (s.pointBerth r)) (s.inFunds n)) := by
  rw [State.creditRelease, State.point?_mapPosts, State.point?, Option.map_map]
  congr 1
  funext p
  exact Post.point_eachPoint
    (g := fun i _ x => x.creditReleased n (s.occupied ((s.row r.arm r.addr).berthOf i)) (s.inFunds n))
    (fun p i v => Post.creditReleasePoint_own n (fun i => s.occupied ((s.row r.arm r.addr).berthOf i)) (s.inFunds n) s.clock s.tripDelay
      p i v)
    (Post.creditReleasePoint_other n _ (s.inFunds n) s.clock s.tripDelay) p hr r.svc

theorem State.occupied_iff (s : State) (b : Option Nat) : s.occupied b = true ↔ ∃ n, b = some n ∧ (s.berth n).state = .occupied := by
  cases b with
  | none => simp [State.occupied]
  | some n =>
    have state : ((s.berth n).state == .occupied) = true ↔ (s.berth n).state = .occupied := by
      cases (s.berth n).state <;> decide
    simp only [State.occupied, state, Option.some.injEq, exists_eq_left']

theorem State.inFunds_iff (s : State) (n : Nat) :
    s.inFunds n = true ↔ (s.account n).standing = .good ∨ (s.account n).standing = .low := by
  unfold State.inFunds
  cases (s.account n).standing <;> decide

/-- Settles O16: the table by the funds standing before, the action by the two standings, and the credit-release event by the record. -/
theorem fundsStandingFollowsTheTable : Obligations.FundsStandingFollowsTheTable := by
  refine ⟨fun a f h => ?table, fun s n low high => ?action, fun s n r x h hr => ?event⟩
  case table =>
    rw [Account.recomputed_eq h, fundsAfter_eq]
    rfl
  case action =>
    intro a b t A
    have stands : t.account n = b := State.account_setAccount_self ⟨low, high⟩ b
    have acts : s.recompute n = t.onStanding n a.standing b.standing := rfl
    rw [acts]
    refine ⟨fun same => ?_, fun old new => ?_, fun old new => ?_, fun old new => ?_, fun old new => ?_⟩
    · rw [same, State.onStanding_same]
    · rw [old, new, State.onStanding_good_low, stands]; rfl
    · have other : a.standing ≠ .exhausted := by rcases old with h | h <;> rw [h] <;> decide
      rw [new, State.onStanding_exhausted _ _ other, stands]; rfl
    · rw [old, new, State.onStanding_low_good]
    · rw [State.onStanding_restored _ _ (.inl old) new, stands]; rfl
  case event =>
    rw [s.point?_creditRelease n hr, h, Option.map_some]
    simp only [← s.occupied_iff, ← s.inFunds_iff]
    refine ⟨fun ses session releases => ?_, fun not => ?_, (OnlyPosts.creditRelease s n).rest⟩
    · simp only [Point.creditReleased, session]
      rw [if_pos releases]
      rfl
    · unfold Point.creditReleased
      split
      · rw [if_neg (not _ ‹_›)]
      · rfl

/-! ### Holds, settlements and releases (R37 to R39) -/

theorem heldSum_append (hs : List Hold) (h : Hold) : heldSum (hs ++ [h]) = heldSum hs + h.amount := by
  simp [heldSum]

theorem heldSum_filter_of_not_mem {hs : List Hold} {id : Nat} (h : id ∉ hs.map (·.id)) :
    hs.filter (fun e => e.id != id) = hs :=
  List.filter_eq_self.mpr fun _ he => bne_iff_ne.mpr fun k => h (k ▸ List.mem_map_of_mem he)

/-- Without one of the entries the sum is less by its amount: no other entry has its id. -/
theorem heldSum_withoutHold {hs : List Hold} (nodup : (hs.map (·.id)).Nodup) {h : Hold} (mem : h ∈ hs) :
    heldSum (hs.filter (fun e => e.id != h.id)) + h.amount = heldSum hs := by
  induction hs with
  | nil => cases mem
  | cons x hs ih =>
    rw [List.map_cons, List.nodup_cons] at nodup
    obtain ⟨fresh, nodup⟩ := nodup
    have total : heldSum (x :: hs) = x.amount + heldSum hs := by simp [heldSum]
    rcases List.mem_cons.mp mem with rfl | mem
    · rw [List.filter_cons_of_neg (by simp), heldSum_filter_of_not_mem fresh, total, Nat.add_comm]
    · have other : x.id ≠ h.id := fun e => fresh (e ▸ List.mem_map_of_mem mem)
      rw [List.filter_cons_of_pos (p := fun e : Hold => e.id != h.id) (bne_iff_ne.mpr other), total, ← ih nodup mem]
      simp only [heldSum, List.map_cons, List.sum_cons]
      omega

theorem Account.charged_eq_ite (a : Account) (d : Nat) :
    a.charged d =
      if -9999999 ≤ a.balance - d then { a with balance := a.balance - d }
      else { a with
        balance := -9999999
        uncollected := min (a.uncollected + (d - (a.balance + 9999999)).toNat) 999999999 } := by
  have floor : a.balance - balanceFloor = a.balance + 9999999 := by unfold balanceFloor; omega
  simp only [Account.charged, floor]
  rfl

theorem Account.available_charged {a : Account} {d : Nat} (above : -9999999 ≤ a.balance - d) :
    (a.charged d).available = a.available - d := by
  rw [Account.charged_eq_ite, if_pos above]
  simp only [Account.available]
  omega

/-- What a grant of R37 has passed. -/
theorem Account.holdRefusal_eq_none {a : Account} {w m : Nat} (h : a.holdRefusal w m = none) :
    (m : Int) ≤ min (w : Int) a.available := by
  unfold Account.holdRefusal at h
  split at h <;> try cases h
  split at h
  · cases h
  · split at h
    · cases h
    · omega

/-- The checks of a HOLD in their order (R37). -/
theorem State.hold_eq (s : State) (n pump d least : Nat) :
    let a := s.account n
    s.hold n pump d least =
      if a.standing = .closed then (s, .error .closed)
      else if a.standing = .barred then (s, .error .barred)
      else if a.standing = .exhausted then (s, .error .exhausted)
      else if 4 ≤ a.holds.length then (s, .error .holdsFull)
      else if min (d : Int) a.available < least then (s, .error .insufficient)
      else
        let amount := (min (d : Int) a.available).toNat
        let entry : Hold := { id := freeHoldId a.holds, pump := pump, amount := amount }
        ((s.setAccount n { a with holds := a.holds ++ [entry] }).recompute n, .ok (entry.id, amount)) := by
  dsimp only
  unfold State.hold Account.holdRefusal
  dsimp only
  cases hs : (s.account n).standing <;> simp only [reduceCtorEq, if_false, if_true]
  all_goals
    by_cases full : 4 ≤ (s.account n).holds.length
    · simp only [if_pos full]
    · by_cases little : min (d : Int) (s.account n).available < least
      · simp only [if_neg full, if_pos little]
      · simp only [if_neg full, if_neg little]

theorem State.debit_eq (s : State) (n d : Nat) (src : DebitSource) :
    s.debit n d src =
      if (s.account n).standing = .closed then s.post (.accountMismatch n .debit (some d) none (some src))
      else (s.setAccount n ((s.account n).charged d)).recompute n := by
  simp only [State.debit, Account.isOpen_iff, ne_eq, ite_not]

theorem State.settle_eq (s : State) (n id d : Nat) :
    s.settle n id d =
      let t := (s.setAccount n (((s.account n).withoutHold id).charged d)).recompute n
      if (s.account n).standing = .closed then s.post (.accountMismatch n .settle (some d) (some id) none)
      else if id ∈ (s.account n).holds.map (·.id) then t
      else t.post (.accountMismatch n .settle (some d) (some id) none) := by
  simp only [State.settle, State.postIf, Account.isOpen_iff, Bool.not_eq_true', ← Bool.not_eq_true, Account.hasHold_iff, ne_eq, ite_not]

theorem State.release_eq (s : State) (n id : Nat) :
    s.release n id =
      if (s.account n).standing ≠ .closed ∧ id ∈ (s.account n).holds.map (·.id) then
        (s.setAccount n ((s.account n).withoutHold id)).recompute n
      else s.post (.accountMismatch n .release none (some id) none) := by
  simp only [State.release, Bool.and_eq_true, Account.isOpen_iff, Account.hasHold_iff]

/-- Settles O17: the sums of a hold list with an entry more or less, then the four operations on the state. -/
theorem holdsMoveTheAvailableAmount : Obligations.HoldsMoveTheAvailableAmount := by
  refine ⟨fun a p w m granted => ?grant, fun a h ok mem => ?removal, fun s n id d => ?operations⟩
  case grant =>
    have room : a.holds.length < 4 := Account.holdRefusal_none granted
    refine ⟨?_, Account.holdRefusal_eq_none granted, freeHoldId_lt _, freeHoldId_free room⟩
    simp only [Account.available, heldSum_append]
    omega
  case removal =>
    obtain ⟨-, -, -, -, -, -, -, nodup, -⟩ := ok
    have sum := heldSum_withoutHold nodup mem
    have freed : (a.withoutHold h.id).available = a.available + h.amount := by
      simp only [Account.available, Account.withoutHold]
      omega
    refine ⟨freed, fun k => ?_, fun e he ne => ?_, fun d above => ?_⟩
    · simp [Account.withoutHold] at k
    · exact List.mem_filter.mpr ⟨he, bne_iff_ne.mpr fun same => ne (holds_inj nodup he mem same)⟩
    · rw [Account.available_charged (a := a.withoutHold h.id) above, freed]
  case operations =>
    refine ⟨fun pump least => s.hold_eq n pump d least, fun src => ?_, ?_, s.release_eq n id⟩
    · rw [State.debit_eq, Account.charged_eq_ite]
    · rw [State.settle_eq, Account.charged_eq_ite]
      rfl

/-! ### The office's requests (R34, R41 to R47) -/

/-- Settles O13: the request ends as its judgement does, and an open account is debited. -/
theorem accountDebitIsForcedDownToTheFloor : Obligations.AccountDebitIsForcedDownToTheFloor := by
  intro s tag f room a charged t
  refine (finishBus_takeRequest room 0x20 tag f judgeAccountDebit).trans (congrArg _ ?_)
  have debited : ¬ a.standing = .closed → s.frameTaken.debit f.account f.amount .office = t := fun isOpen => by
    rw [State.debit_eq, State.frameTaken_account, if_neg isOpen, Account.charged_eq_ite]
  simp only [judgeAccountDebit, isAccount_iff, inRange_iff, Account.isOpen_false_iff, Judged.endedBus_ite, Judged.endedBus_refuse,
    Judged.endedBus_answer, State.frameTaken_account]
  refine ite_congr rfl (fun _ => rfl) fun _ => ite_congr rfl (fun _ => rfl) fun isOpen => ?_
  rw [debited isOpen]

theorem limitsInRange_false_iff (f : LimitsArgs) :
    limitsInRange f = false ↔ ¬ ((1 ≤ f.account ∧ f.account ≤ 256) ∧ f.overdraft ≤ 999999 ∧ f.lowThreshold ≤ 999999 ∧ 1 ≤ f.restartMin ∧
      f.restartMin ≤ 999999) := by
  rw [← Bool.not_eq_true]
  simp only [limitsInRange, Bool.and_eq_true, isAccount_iff, decide_eq_true_eq, inRange_iff, and_assoc]

theorem openedAccount_eq (f : LimitsArgs) :
    let funds : Funds := if f.overdraft = 0 then .exhausted else if f.overdraft < f.lowThreshold then .low else .good
    openedAccount f = {
      standing := funds.standing, funds := some funds, balance := 0, overdraft := f.overdraft, lowThreshold := f.lowThreshold
      restartMin := f.restartMin, holds := [], uncollected := 0 } := by
  have zero : (f.overdraft : Int) ≤ 0 ↔ f.overdraft = 0 := by omega
  simp only [openedAccount, fundsAfter, zero, Int.ofNat_lt]

theorem exec_credit {s : State} (room : s.Room) (tag : Nat) (f : AmountArgs) :
    let a := s.account f.account
    let t := (s.frameTaken.setAccount f.account { a with balance := a.balance + f.amount }).recompute f.account
    exec (.credit tag (.fields f)) s = .next (
      if ¬ ((1 ≤ f.account ∧ f.account ≤ 256) ∧ 1 ≤ f.amount ∧ f.amount ≤ 999999) then
        s.frameTaken.answeredBus tag 0x21 .range .empty
      else if a.standing = .closed then s.frameTaken.answeredBus tag 0x21 .state .empty
      else if 9999999 < a.balance + f.amount then s.frameTaken.answeredBus tag 0x21 .range .empty
      else
        t.answeredBus tag 0x21 .done (.credited (t.account f.account).balance (t.account f.account).available
          (t.account f.account).standing)) := by
  refine (finishBus_takeRequest room 0x21 tag f judgeCredit).trans (congrArg _ ?_)
  simp only [judgeCredit, isAccount_iff, inRange_iff, Account.isOpen_false_iff, Judged.endedBus_ite, Judged.endedBus_refuse,
    Judged.endedBus_answer]
  rfl

theorem exec_accountOpen {s : State} (room : s.Room) (tag : Nat) (f : LimitsArgs) :
    exec (.accountOpen tag (.fields f)) s = .next (
      if ¬ ((1 ≤ f.account ∧ f.account ≤ 256) ∧ f.overdraft ≤ 999999 ∧ f.lowThreshold ≤ 999999 ∧ 1 ≤ f.restartMin ∧
          f.restartMin ≤ 999999) then s.frameTaken.answered tag 0x22 .range .empty
      else if (s.account f.account).standing ≠ .closed then s.frameTaken.answered tag 0x22 .state .empty
      else
        (s.frameTaken.setAccount f.account (openedAccount f)).answered tag 0x22 .done (.standing (openedAccount f).standing)) := by
  refine (finish_takeRequest room 0x22 tag f judgeAccountOpen).trans (congrArg _ ?_)
  simp only [judgeAccountOpen, limitsInRange_false_iff, Account.isOpen_iff, Judged.ended_if, Judged.ended_refuse, Judged.ended_answer,
    State.frameTaken_account]

theorem exec_accountSet {s : State} (room : s.Room) (tag : Nat) (f : LimitsArgs) :
    let t := (s.frameTaken.setAccount f.account ((s.account f.account).limited f)).recompute f.account
    exec (.accountSet tag (.fields f)) s = .next (
      if ¬ ((1 ≤ f.account ∧ f.account ≤ 256) ∧ f.overdraft ≤ 999999 ∧ f.lowThreshold ≤ 999999 ∧ 1 ≤ f.restartMin ∧
          f.restartMin ≤ 999999) then s.frameTaken.answeredBus tag 0x23 .range .empty
      else if (s.account f.account).standing = .closed then s.frameTaken.answeredBus tag 0x23 .state .empty
      else t.answeredBus tag 0x23 .done (.standing (t.account f.account).standing)) := by
  refine (finishBus_takeRequest room 0x23 tag f judgeAccountSet).trans (congrArg _ ?_)
  simp only [judgeAccountSet, limitsInRange_false_iff, Account.isOpen_false_iff, Judged.endedBus_ite, Judged.endedBus_refuse,
    Judged.endedBus_answer, State.frameTaken_account]

/-- Four checks with one refusal are one check. -/
theorem ite_or {α : Type} (c d : Prop) [Decidable c] [Decidable d] (x y : α) :
    (if c ∨ d then x else y) = if c then x else if d then x else y := by
  by_cases h : c <;> simp [h]

theorem exec_accountClose {s : State} (room : s.Room) (tag n : Nat) :
    let a := s.account n
    exec (.accountClose tag (.fields n)) s = .next (
      if ¬ (1 ≤ n ∧ n ≤ 256) then s.frameTaken.answered tag 0x24 .range .empty
      else if a.standing = .closed ∨ a.holds ≠ [] ∨ s.berthNames n = true ∨ s.sessionNames n = true then
        s.frameTaken.answered tag 0x24 .state .empty
      else (s.frameTaken.setAccount n Account.reset).answered tag 0x24 .done (.closedAccount a.balance a.uncollected)) := by
  refine (finish_takeRequest room 0x24 tag n judgeAccountClose).trans (congrArg _ ?_)
  simp only [judgeAccountClose, isAccount_false_iff, Account.isOpen_false_iff, ite_or, Judged.ended_if, Judged.ended_refuse,
    Judged.ended_answer]
  rfl

/-- Settles O14: the four requests, each an equation by its checks. -/
theorem accountsAreFundedOpenedSetAndClosed : Obligations.AccountsAreFundedOpenedSetAndClosed := by
  refine ⟨fun s tag f room => exec_credit room tag f, fun s tag f room => ?_, fun s tag f room => exec_accountSet room tag f,
    fun s tag n room => exec_accountClose room tag n⟩
  intro funds
  rw [exec_accountOpen room, openedAccount_eq]

theorem Account.available_standing (a : Account) (x : Standing) : ({ a with standing := x } : Account).available = a.available := rfl

theorem State.barAccount_eq {s : State} {n : Nat} (range : 1 ≤ n ∧ n ≤ 256) (h : (s.account n).standing ≠ .barred) :
    s.barAccount n = (((s.setAccount n { s.account n with standing := .barred }).suspendAccount n .barred).post
      (.barred n (s.account n).balance)) := by
  simp only [State.barAccount, State.onStanding_barred _ _ h, State.account_setAccount_self range]

theorem State.unbarAccount_eq {s : State} {n : Nat} {f : Funds} (range : 1 ≤ n ∧ n ≤ 256) (h : (s.account n).funds = some f) :
    let a := s.account n
    let t := s.setAccount n { a with standing := f.standing }
    s.unbarAccount n =
      match f with
      | .exhausted => (t.suspendAccount n .credit).post (.exhausted n a.available a.balance a.holds.length)
      | _ => (t.creditRelease n).post (.restored n f.standing a.available) := by
  have returns : (s.account n).unbarred = f.standing := by rw [Account.unbarred, h]
  have stands (x : Standing) := State.account_setAccount_self (s := s) range { s.account n with standing := x }
  simp only [State.unbarAccount, returns]
  cases f with
  | exhausted =>
    rw [Funds.standing, State.onStanding_exhausted _ _ (by decide), stands]; rfl
  | good => rw [Funds.standing, State.onStanding_restored _ _ (.inr rfl) (.inl rfl), stands]; rfl
  | low => rw [Funds.standing, State.onStanding_restored _ _ (.inr rfl) (.inr rfl), stands]; rfl

theorem exec_unbar {s : State} (room : s.Room) (tag n : Nat) :
    exec (.unbar tag (.fields n)) s = .next (
      if ¬ (1 ≤ n ∧ n ≤ 256) then s.frameTaken.answeredBus tag 0x27 .range .empty
      else if (s.account n).standing ≠ .barred then s.frameTaken.answeredBus tag 0x27 .state .empty
      else (s.frameTaken.unbarAccount n).answeredBus tag 0x27 .done (.standing (s.account n).unbarred)) := by
  refine (finishBus_takeRequest room 0x27 tag n judgeUnbar).trans (congrArg _ ?_)
  simp only [judgeUnbar, isAccount_false_iff, Judged.endedBus_ite, Judged.endedBus_refuse, Judged.endedBus_answer]
  rfl

/-- Settles O15: BAR and UNBAR by their checks, the change of standing by R32. -/
theorem barAndUnbarMoveTheStanding : Obligations.BarAndUnbarMoveTheStanding := by
  refine ⟨fun s tag n room => ?bar, fun s tag n f room range barred funds => ?unbar, fun s tag n room => ⟨fun out => ?_, fun range other => ?_⟩⟩
  case bar =>
    refine (finishBus_takeRequest room 0x26 tag n judgeBar).trans (congrArg _ ?_)
    simp only [judgeBar, isAccount_false_iff, Account.isOpen_false_iff, Judged.endedBus_ite, Judged.endedBus_refuse,
      Judged.endedBus_doneWith, State.frameTaken_account]
    refine ite_congr rfl (fun _ => rfl) fun range => ite_congr rfl (fun _ => rfl) fun other => ?_
    rw [State.barAccount_eq (s := s.frameTaken) (Classical.not_not.mp range) fun k => other (.inr k)]
    rfl
  case unbar =>
    have returns : (s.account n).unbarred = f.standing := by rw [Account.unbarred, funds]
    have left := State.unbarAccount_eq (s := s.frameTaken) range funds
    rw [exec_unbar room, if_neg (not_not_intro range), if_neg (not_not_intro barred), returns]
    cases f <;>
      exact congrArg (fun t : State => Host.Outcome.next (t.answeredBus tag 0x27 .done (.standing _))) left
  · rw [exec_unbar room, if_pos out]
  · rw [exec_unbar room, if_neg (not_not_intro range), if_pos other]

end Sys2Proof.Machine

/-! PROOFS. POWER_ON's reset values, CHECK-IN (R7, R8), and the requests that only answer or only store a setting. The statements O3, O5,
O10, O11 and O12. -/

namespace Sys2Proof.Machine

/-! ### Ranges -/

theorem isGate_false_iff (n : Nat) : isGate n = false ↔ ¬ n < 8 := decide_eq_false_iff_not

theorem isPump_false_iff (n : Nat) : isPump n = false ↔ ¬ n < 4 := decide_eq_false_iff_not

theorem isArm_false_iff (n : Nat) : isArm n = false ↔ ¬ n < 6 := decide_eq_false_iff_not

theorem isArm_iff (n : Nat) : isArm n = true ↔ n < 6 := decide_eq_true_iff

theorem isAddr_iff (n : Nat) : isAddr n = true ↔ 1 ≤ n ∧ n ≤ 30 := decide_eq_true_iff

theorem isPontoon_iff (n : Nat) : isPontoon n = true ↔ n < 6 := decide_eq_true_iff

theorem presenceInRange_iff (f : PresenceArgs) :
    presenceInRange f = true ↔ f.first ≤ 255 ∧ ∀ p ∈ selPontoons f.sel, p < 6 := by
  obtain ⟨sel, first⟩ := f
  cases sel with
  | pontoon p => simp [presenceInRange, selPontoons, isPontoon]
  | all => simp [presenceInRange, selPontoons]
  | card c => simp [presenceInRange, selPontoons]

theorem configInRange_iff (A : Arm) (f : ArmConfigArgs) : configInRange A f = true ↔
    f.arm < 6 ∧ (100 ≤ f.period ∧ f.period ≤ 1000) ∧ (50 ≤ f.slot ∧ f.slot ≤ 1000) ∧ (4 ≤ f.window ∧ f.window ≤ 40) ∧
      (1 ≤ f.silence ∧ f.silence ≤ 15) ∧ (f.anchor = 0 ∨ ((1 ≤ f.anchor ∧ f.anchor ≤ 30) ∧ (A.slot f.anchor).row.kind ≠ .none)) := by
  simp only [configInRange, Bool.and_eq_true, Bool.or_eq_true, isArm_iff, isAddr_iff, inRange_iff, beq_iff_eq, bne_iff_ne, and_assoc]

/-! ### Power-on -/

theorem emptyCredRow : credRowOf (List.replicate 22 0#8) =
    { enabled := false, code := 0, mask := 0, kind := .crew, berth := none, window := none, pontoons := 0, antiPassback := false } := by
  decide +kernel

theorem State.reset_credRow {r : Nat} (h : r < 512) : State.reset.credRow r =
    { enabled := false, code := 0, mask := 0, kind := .crew, berth := none, window := none, pontoons := 0, antiPassback := false } := by
  have bytes : tabGet State.reset.creds.rows [] r = List.replicate 22 0#8 := by
    show tabGet (Vector.replicate 512 (List.replicate 22 0#8)) [] r = _
    simp [tabGet, h]
  rw [State.credRow, bytes, emptyCredRow]

theorem State.reset_boundSide (n : Nat) : State.reset.boundSide n = none := by
  refine List.findSome?_eq_none_iff.mpr fun p _ => ?_
  rw [State.reset_row]
  rfl

theorem State.reset_gateOnline (g : Nat) : State.reset.gateOnline g = false := by
  rw [State.gateOnline, State.reset_gate]
  rfl

/-- Settles O3: the state after POWER_ON is the reset state with the queue kept, and every table of it holds one record. -/
theorem powerOnLeavesTheResetValues : Obligations.PowerOnLeavesTheResetValues := by
  intro s
  refine ⟨{ State.reset with pending := s.pending }, rfl, rfl, State.reset_berth, State.reset_boundSide, rfl, rfl, State.reset_account,
    rfl, rfl, fun r h => State.reset_credRow h, fun g => ?gate, State.reset_pontoon, rfl,
    fun a d => ⟨State.reset_row a d, congrArg Slot.station (State.reset_slot a d), State.reset_post a d⟩,
    rfl, rfl, ?rates, rfl, fun p => ?pump, rfl, rfl, fun a => ?arm, rfl, rfl, rfl, rfl, rfl, rfl, rfl, rfl, rfl, rfl, rfl, rfl⟩
  case gate =>
    have h : ({ State.reset with pending := s.pending } : State).gate g = Gate.reset := State.reset_gate g
    rw [h]
    exact ⟨rfl, rfl, rfl, rfl, rfl, rfl, rfl, State.reset_gateOnline g⟩
  case rates =>
    show ∀ row ∈ RateTable.reset.rows.toList, ∀ b ∈ row, b = 0#8
    decide
  case pump =>
    have h : ({ State.reset with pending := s.pending } : State).pump p = Pump.reset := State.reset_pump p
    rw [h]
    exact ⟨rfl, rfl, rfl, rfl, rfl, rfl, rfl, rfl⟩
  case arm =>
    have h : ({ State.reset with pending := s.pending } : State).arm a = Arm.reset := State.reset_arm a
    rw [h]
    exact ⟨rfl, rfl, rfl, rfl, rfl, rfl, rfl, rfl, rfl, rfl, rfl, rfl, rfl, rfl, rfl, rfl, rfl, rfl⟩

/-! ### A record written twice, and read back -/

theorem tabSet_tabSet {α : Type} {n : Nat} (v : Vector α n) (i : Nat) (x y : α) : tabSet (tabSet v i x) i y = tabSet v i y := by
  refine Vector.ext fun j hj => ?_
  simp only [tabSet, Vector.getElem_setIfInBounds]
  split <;> rfl

theorem numSet_numSet {α : Type} {n : Nat} (v : Vector α n) (i : Nat) (x y : α) : numSet (numSet v i x) i y = numSet v i y := by
  cases i with
  | zero => rfl
  | succ i => exact tabSet_tabSet v i x y

section
variable (s : State) (n : Nat)

theorem State.setBerth_setBerth (x y : Berth) : (s.setBerth n x).setBerth n y = s.setBerth n y :=
  congrArg (fun v => { s with berths := v }) (numSet_numSet s.berths n x y)

theorem State.setGate_setGate (x y : Gate) : (s.setGate n x).setGate n y = s.setGate n y :=
  congrArg (fun v => { s with gates := v }) (tabSet_tabSet s.gates n x y)

theorem State.setPump_setPump (x y : Pump) : (s.setPump n x).setPump n y = s.setPump n y :=
  congrArg (fun v => { s with pumps := v }) (tabSet_tabSet s.pumps n x y)

theorem State.setArm_setArm (x y : Arm) : (s.setArm n x).setArm n y = s.setArm n y :=
  congrArg (fun v => { s with arms := v }) (tabSet_tabSet s.arms n x y)

end

theorem State.berth_setBerth_self {s : State} {n : Nat} (h : 1 ≤ n ∧ n ≤ 200) (x : Berth) : (s.setBerth n x).berth n = x := by
  rw [State.berth_setBerth, if_pos ⟨rfl, h⟩]

theorem State.gate_setGate_self {s : State} {n : Nat} (h : n < 8) (x : Gate) : (s.setGate n x).gate n = x := by
  rw [State.gate_setGate, if_pos ⟨rfl, h⟩]

theorem State.pump_setPump_self {s : State} {n : Nat} (h : n < 4) (x : Pump) : (s.setPump n x).pump n = x := by
  rw [State.pump_setPump, if_pos ⟨rfl, h⟩]

theorem State.arm_setArm_self {s : State} {n : Nat} (h : n < 6) (x : Arm) : (s.setArm n x).arm n = x := by
  rw [State.arm_setArm, if_pos ⟨rfl, h⟩]

/-! ### CHECK-IN (R7, R8) -/

theorem BerthState.isAwaited_iff (q : BerthState) : q.isAwaited = true ↔ q = .reserved ∨ q = .overdue := by
  cases q <;> decide

theorem State.arrive_awaited {s : State} {b : Nat} (h : (s.berth b).state.isAwaited = true) (src : ArrivalSource) (c : Option Card) :
    s.arrive b src c = (s.setBerth b { s.berth b with state := .occupied, arrival := some s.clock }).post
      (.arrived b ((s.berth b).occupant.getD 0) src c (s.berth b).overdueSent) := if_pos h

theorem State.setBerth_post_setBerth (s : State) (b : Nat) (x y : Berth) (n : NoticeBody) :
    ((s.setBerth b x).post n).setBerth b y = (s.setBerth b y).post n :=
  congrArg (fun t => State.post t n) (State.setBerth_setBerth s b x y)

/-- CHECK-IN on an awaited berth writes one record: the arrival's, with the planned departure where one is given (R7, R8). -/
theorem State.checkInAwaited_eq {s : State} {f : CheckInArgs} (hb : 1 ≤ f.berth ∧ f.berth ≤ 200)
    (h : (s.berth f.berth).state.isAwaited = true) :
    s.checkInAwaited f =
      (s.setBerth f.berth { s.berth f.berth with
          state := .occupied, arrival := some s.clock
          reservation := (s.berth f.berth).reservation.map (fun r => { r with planned := f.planned.or r.planned }) }).post
        (.arrived f.berth ((s.berth f.berth).occupant.getD 0) .checkIn none (s.berth f.berth).overdueSent) := by
  rw [State.checkInAwaited, State.arrive_awaited h]
  cases f.planned with
  | none =>
    have same : (s.berth f.berth).reservation.map (fun r => { r with planned := Option.or none r.planned }) =
        (s.berth f.berth).reservation := Option.map_id'
    simp only [same]
  | some t =>
    have arrived : ((s.setBerth f.berth { s.berth f.berth with state := .occupied, arrival := some s.clock }).post
        (.arrived f.berth ((s.berth f.berth).occupant.getD 0) .checkIn none (s.berth f.berth).overdueSent)).berth f.berth =
          { s.berth f.berth with state := .occupied, arrival := some s.clock } := State.berth_setBerth_self hb _
    simp only [State.setBerth_post_setBerth, arrived]
    rfl

/-- Settles O5: each branch of the judgement writes one record and posts ARRIVED, or refuses. -/
theorem checkInRecordsTheVessel : Obligations.CheckInRecordsTheVessel := by
  intro s tag f room
  refine (finish_takeRequest room 0x11 tag f judgeCheckIn).trans (congrArg _ ?_)
  simp only [judgeCheckIn, isBerth_iff, State.accountAdmits_false_iff, BerthState.isAwaited_iff, ite_not, Judged.ended_if,
    Judged.ended_refuse, Judged.ended_doneWith]
  refine ite_congr rfl (fun hr => ?_) fun _ => rfl
  refine ite_congr rfl (fun _ => rfl) fun _ => ite_congr rfl (fun hs => ?_) fun _ => rfl
  have awaited : (s.frameTaken.berth f.berth).state.isAwaited = true := (BerthState.isAwaited_iff _).mpr hs
  rw [State.checkInAwaited_eq hr.1 awaited]
  rfl

/-! ### Queries of one record -/

section
variable {s : State} (room : s.Room) (tag : Nat)
include room

theorem exec_berthQuery (n : Nat) : exec (.berthQuery tag (.fields n)) s = .next (
    if 1 ≤ n ∧ n ≤ 200 then s.frameTaken.answered tag 0x17 .done (.berth n (s.berth n) (s.boundSide n))
    else s.frameTaken.answered tag 0x17 .range .empty) := by
  refine (finish_takeRequest room 0x17 tag n judgeBerthQuery).trans (congrArg _ ?_)
  simp only [judgeBerthQuery, isBerth_false_iff, ite_not, Judged.ended_if, Judged.ended_refuse, Judged.ended_answer]
  rfl

theorem exec_accountQuery (n : Nat) : exec (.accountQuery tag (.fields n)) s = .next (
    if 1 ≤ n ∧ n ≤ 256 then
      s.frameTaken.answered tag 0x25 .done (.account (s.account n)
        (if (s.account n).standing = .closed then none
          else some ((s.account n).balance + (s.account n).overdraft - heldSum (s.account n).holds)))
    else s.frameTaken.answered tag 0x25 .range .empty) := by
  refine (finish_takeRequest room 0x25 tag n judgeAccountQuery).trans (congrArg _ ?_)
  simp only [judgeAccountQuery, isAccount_false_iff, ite_not, Account.isOpen_iff, ne_eq, Judged.ended_if, Judged.ended_refuse,
    Judged.ended_answer]
  rfl

theorem exec_gateQuery (g : Nat) : exec (.gateQuery tag (.fields g)) s = .next (
    if g < 8 then
      s.frameTaken.answered tag 0x32 .done (.gate g (s.gate g) (s.gateOnline g)
        ((s.gate g).station.map (fun p => ((s.pontoon p.1).tracking, s.count p.1))))
    else s.frameTaken.answered tag 0x32 .range .empty) := by
  refine (finish_takeRequest room 0x32 tag g judgeGateQuery).trans (congrArg _ ?_)
  simp only [judgeGateQuery, isGate_false_iff, ite_not, Gate.pontoon, Option.map_map, Judged.ended_if, Judged.ended_refuse,
    Judged.ended_answer]
  rfl

theorem exec_presenceQuery (f : PresenceArgs) : exec (.presenceQuery tag (.fields f)) s = .next (
    if f.first ≤ 255 ∧ (∀ p ∈ selPontoons f.sel, p < 6) then
      s.frameTaken.answered tag 0x34 .done (.presence
        ((selPontoons f.sel).map (fun p => ((s.pontoon p).limit, s.count p, (s.pontoon p).tracking)))
        (s.presence.filter (selMatches f.sel)).length (((s.presence.filter (selMatches f.sel)).drop f.first).take 16))
    else s.frameTaken.answered tag 0x34 .range .empty) := by
  refine (finish_takeRequest room 0x34 tag f judgePresenceQuery).trans (congrArg _ ?_)
  rw [judgePresenceQuery]
  by_cases h : presenceInRange f = true
  · rw [if_neg (by simp [h]), if_pos ((presenceInRange_iff f).mp h)]
    rfl
  · rw [if_pos (Bool.not_eq_true _ ▸ h), if_neg (mt (presenceInRange_iff f).mpr h)]
    rfl

theorem exec_pumpQuery (p : Nat) : exec (.pumpQuery tag (.fields p)) s = .next (
    if p < 4 then s.frameTaken.answered tag 0x4D .done (.pump p (s.pump p))
    else s.frameTaken.answered tag 0x4D .range .empty) := by
  refine (finish_takeRequest room 0x4D tag p judgePumpQuery).trans (congrArg _ ?_)
  simp only [judgePumpQuery, isPump_false_iff, ite_not, Judged.ended_if, Judged.ended_refuse, Judged.ended_answer]
  rfl

theorem exec_armQuery (a : Nat) : exec (.armQuery tag (.fields a)) s = .next (
    if a < 6 then
      s.frameTaken.answered tag 0x52 .done (.arm (s.arm a).state (s.arm a).errors (s.arm a).period (s.arm a).slotInterval
        (s.arm a).window (s.arm a).silence (s.arm a).anchor (s.arm a).autoRestore (s.arm a).anchorInForce (s.arm a).probes
        (s.arm a).pointer (s.arm a).sweep (s.arm a).checksum ((List.range 30).map (fun i => s.addressReport a (i + 1))))
    else s.frameTaken.answered tag 0x52 .range .empty) := by
  refine (finish_takeRequest room 0x52 tag a judgeArmQuery).trans (congrArg _ ?_)
  simp only [judgeArmQuery, isArm_false_iff, ite_not, addresses, List.map_map, Judged.ended_if, Judged.ended_refuse,
    Judged.ended_answer]
  rfl

theorem exec_protectionQuery (f : ProtectionArgs) : exec (.protectionQuery tag (.fields f)) s = .next (
    if f.arm < 6 ∧ (1 ≤ f.addr ∧ f.addr ≤ 30) ∧ f.side ≤ 1 then
      match s.row f.arm f.addr with
      | .post _ _ offset shift fullScale n w =>
        let rating := s.rating (s.sideBerth f.arm f.addr f.side)
        s.frameTaken.answered tag 0x43 .done (.protection offset shift fullScale n w rating (rating * 9 / 10)
          (s.detector f.arm f.addr f.side) s.tripDelay
          (s.tapAllowedAt { arm := f.arm, addr := f.addr, side := f.side, svc := .power }))
      | _ => s.frameTaken.answered tag 0x43 .state .empty
    else s.frameTaken.answered tag 0x43 .range .empty) := by
  refine (finish_takeRequest room 0x43 tag f judgeProtectionQuery).trans (congrArg _ ?_)
  have row : s.frameTaken.row f.arm f.addr = s.row f.arm f.addr := rfl
  simp only [judgeProtectionQuery, isArm_iff, isAddr_iff, ite_not, row, Judged.ended_if, Judged.ended_refuse]
  cases s.row f.arm f.addr <;> rfl

end

/-- Settles O10: one equation for each query. -/
theorem recordQueriesChangeNothing : Obligations.RecordQueriesChangeNothing := fun _ tag room =>
  ⟨exec_berthQuery room tag, exec_accountQuery room tag, exec_gateQuery room tag, exec_presenceQuery room tag,
    exec_pumpQuery room tag, exec_armQuery room tag, exec_protectionQuery room tag⟩

/-! ### Queries of tables and of the part -/

theorem tabGet_map_range {α β : Type} {n : Nat} (v : Vector α n) (d : α) (f : α → β) :
    (List.range n).map (fun i => f (tabGet v d i)) = v.toList.map f := by
  refine List.ext_getElem (by simp) fun i hi _ => ?_
  have h : i < n := by simpa using hi
  simp [tabGet, h]

theorem State.quotePrice_grade (s : State) (g : Nat) :
    s.quotePrice (.grade g) = if s.rates.state = .valid then some (fuelPrice s.rateRows g) else none := by
  simp only [State.quotePrice, State.ratesValid_iff]

section
variable {s : State} (room : s.Room) (tag : Nat)
include room

theorem exec_credentialRead (r : Nat) : exec (.credentialRead tag (.fields r)) s = .next (
    if 512 ≤ r then s.frameTaken.answered tag 0x28 .range .empty
    else if s.creds.state = .empty then s.frameTaken.answered tag 0x28 .state .empty
    else s.frameTaken.answered tag 0x28 .done (.credential s.creds.state (s.credRow r))) := by
  refine (finish_takeRequest room 0x28 tag r judgeCredentialRead).trans (congrArg _ ?_)
  simp only [judgeCredentialRead, Judged.ended_if, Judged.ended_refuse, Judged.ended_answer]
  rfl

theorem exec_matchTest (c : Card) : exec (.matchTest tag (.fields c)) s = .next (
    s.frameTaken.answered tag 0x29 .done (.matched s.creds.state (s.consult c)
      (match s.consult c with
        | .hit _ row =>
          match row.window with
          | none => .none
          | some (f, u) => if s.clock < f then .before else if s.clock < u then .within else .after
        | _ => .none))) := by
  refine (finish_takeRequest room 0x29 tag c judgeMatchTest).trans (congrArg _ ?_)
  have rows : s.frameTaken.credRow = s.credRow := funext fun _ => by rw [State.credRow, State.credRow, State.frameTaken_creds]
  have row : s.frameTaken.matchRow c = s.matchRow c := by rw [State.matchRow, rows, State.matchRow]
  have consult : s.frameTaken.consult c = s.consult c := by
    rw [State.consult, State.consult, row, State.frameTaken_creds]
  simp only [judgeMatchTest, consult, Judged.ended_answer]
  cases s.consult c <;> rfl

theorem exec_rateQuery : exec (.rateQuery tag (.fields ())) s = .next (
    if s.rates.state = .empty then s.frameTaken.answered tag 0x40 .state .empty
    else s.frameTaken.answered tag 0x40 .done (.rates s.rates.state s.rates.checksum s.rates.rows.toList)) := by
  refine (finish_takeRequest room 0x40 tag () judgeRateQuery).trans (congrArg _ ?_)
  simp only [judgeRateQuery, Judged.ended_if, Judged.ended_refuse, Judged.ended_answer]
  rfl

theorem exec_chargeQuote_inRange {f : QuoteArgs} (h : quoteInRange f = true) : exec (.chargeQuote tag (.fields f)) s = .next (
    match s.quotePrice f.source with
    | none => s.frameTaken.answered tag 0x41 .state .empty
    | some p => s.frameTaken.answered tag 0x41 .done (quoteOf p f.form)) := by
  refine (finish_takeRequest room 0x41 tag f judgeChargeQuote).trans (congrArg _ ?_)
  have price : s.frameTaken.quotePrice f.source = s.quotePrice f.source := rfl
  simp only [judgeChargeQuote, h, price, Bool.true_eq_false, if_false]
  cases s.quotePrice f.source <;> rfl

theorem exec_chargeQuote_outOfRange {f : QuoteArgs} (h : quoteInRange f = false) :
    exec (.chargeQuote tag (.fields f)) s = .next (s.frameTaken.answered tag 0x41 .range .empty) := by
  refine (finish_takeRequest room 0x41 tag f judgeChargeQuote).trans (congrArg _ ?_)
  simp only [judgeChargeQuote, h, if_true, Judged.ended_refuse]

theorem exec_outletQuery {f : OutletArgs} {svcs : List Service} (hv : servicesOf f.service = some svcs) (hr : selInRange f.sel = true) :
    exec (.outletQuery tag (.fields f)) s = .next (
      match s.selected f.sel with
      | none => s.frameTaken.answered tag 0x3E .state .empty
      | some d => s.frameTaken.answered tag 0x3E .done (.outlets
          ((d.points svcs).filterMap (fun r => (s.point? r).map (fun x => { point := r, berth := s.pointBerth r, record := x })))
          ((s.post? d.arm d.addr).bind (·.mark)))) := by
  refine (finish_takeRequest room 0x3E tag f (fun t f => onPoints f.sel f.service queryOutlets t)).trans (congrArg _ ?_)
  have selected : s.frameTaken.selected f.sel = s.selected f.sel := rfl
  simp only [onPoints, hv, hr, selected, Bool.true_eq_false, if_false]
  cases s.selected f.sel <;> rfl

theorem exec_outletQuery_outOfRange {f : OutletArgs} (h : servicesOf f.service = none ∨ selInRange f.sel = false) :
    exec (.outletQuery tag (.fields f)) s = .next (s.frameTaken.answered tag 0x3E .range .empty) := by
  refine (finish_takeRequest room 0x3E tag f (fun t f => onPoints f.sel f.service queryOutlets t)).trans (congrArg _ ?_)
  simp only [onPoints]
  cases hv : servicesOf f.service with
  | none => rfl
  | some svcs =>
    rw [hv] at h
    simp only [h.resolve_left (by simp), if_true, Judged.ended_refuse]

theorem exec_status :
    let t := s.frameTaken
    let queued (c : NoticeClass) : Nat := (t.notices.queue.filter (fun n => n.body.cls == c)).length
    exec (.status tag (.fields ())) s = .next (t.answered tag 0x65 .done
      (.status t.trunk.link t.trunk.silenceTime t.clock t.creds.state t.rates.state (t.staging.map (·.table)) t.scan
        (queued .routine) (queued .urgent) t.notices.dropped t.trunk.discarded t.notices.next
        ((List.range 6).map (fun a => ((t.arm a).state, (t.arm a).errors))))) := by
  refine (finish_takeRequest room 0x65 tag () judgeStatus).trans (congrArg _ ?_)
  have arms : (List.range 6).map (fun a => ((s.frameTaken.arm a).state, (s.frameTaken.arm a).errors)) =
      s.frameTaken.arms.toList.map (fun A => (A.state, A.errors)) := tabGet_map_range s.frameTaken.arms Arm.reset (fun A => (A.state, A.errors))
  simp only [judgeStatus, State.statusBody, Judged.ended_answer, NoticeQueue.ofClass, List.countP_eq_length_filter, arms]

end

/-- Settles O11: one equation for each query. -/
theorem tableQueriesChangeNothing : Obligations.TableQueriesChangeNothing := by
  intro s tag room
  refine ⟨exec_credentialRead room tag, exec_matchTest room tag, exec_rateQuery room tag, fun p form _ h => ?price, fun g form h => ?grade,
    fun f h => exec_chargeQuote_outOfRange room tag h, finish_takeRequest room 0x5A tag () judgeRelayQuery, fun f svcs d hv hr hd => ?hit,
    fun f h => exec_outletQuery_outOfRange room tag h, fun f svcs hv hr hd => ?miss, exec_status room tag⟩
  case price =>
    rw [exec_chargeQuote_inRange room tag h]
    cases form <;> rfl
  case grade =>
    rw [exec_chargeQuote_inRange room tag h, State.quotePrice_grade]
    by_cases hv : s.rates.state = .valid
    · rw [if_pos hv, if_pos hv]
    · rw [if_neg hv, if_neg hv]
  case hit => rw [exec_outletQuery room tag hv hr, hd]
  case miss => rw [exec_outletQuery room tag hv hr, hd]

/-! ### Settings -/

section
variable {s : State} (room : s.Room) (tag : Nat)
include room

theorem exec_graceSet (n : Nat) : exec (.graceSet tag (.fields n)) s = .next (
    if 720 < n then s.frameTaken.answered tag 0x18 .range .empty
    else ({ s.frameTaken with grace := n }).answered tag 0x18 .done .empty) := by
  refine (finish_takeRequest room 0x18 tag n judgeGraceSet).trans (congrArg _ ?_)
  simp only [judgeGraceSet, Judged.ended_if, Judged.ended_refuse, Judged.ended_doneWith]

theorem exec_tripDelaySet (n : Nat) : exec (.tripDelaySet tag (.fields n)) s = .next (
    if 10 ≤ n ∧ n ≤ 600 then ({ s.frameTaken with tripDelay := n }).answered tag 0x42 .done .empty
    else s.frameTaken.answered tag 0x42 .range .empty) := by
  refine (finish_takeRequest room 0x42 tag n judgeTripDelaySet).trans (congrArg _ ?_)
  simp only [judgeTripDelaySet, inRange_false_iff, ite_not, Judged.ended_if, Judged.ended_refuse, Judged.ended_doneWith]

theorem exec_trunkConfig (n : Nat) : exec (.trunkConfig tag (.fields n)) s = .next (
    if 5 ≤ n ∧ n ≤ 255 then
      (s.frameTaken.setTrunk { s.frameTaken.trunk with silenceTime := n }).answered tag 0x67 .done .empty
    else s.frameTaken.answered tag 0x67 .range .empty) := by
  refine (finish_takeRequest room 0x67 tag n judgeTrunkConfig).trans (congrArg _ ?_)
  simp only [judgeTrunkConfig, inRange_false_iff, ite_not, Judged.ended_if, Judged.ended_refuse, Judged.ended_doneWith]

theorem exec_pontoonSet (f : PontoonSetArgs) : exec (.pontoonSet tag (.fields f)) s = .next (
    if ¬ (f.pontoon < 6 ∧ f.limit ≤ 256) then s.frameTaken.answered tag 0x33 .range .empty
    else if f.limit < s.count f.pontoon then s.frameTaken.answered tag 0x33 .state (.count (s.count f.pontoon))
    else (s.frameTaken.setPontoon f.pontoon { s.pontoon f.pontoon with limit := f.limit }).answered tag 0x33 .done .empty) := by
  refine (finish_takeRequest room 0x33 tag f judgePontoonSet).trans (congrArg _ ?_)
  simp only [judgePontoonSet, isPontoon_iff, Judged.ended_if, Judged.ended_refuse, Judged.ended_answer, Judged.ended_doneWith]
  rfl

theorem exec_relayRefuseSet (pairs : List (Nat × Nat)) : exec (.relayRefuseSet tag (.fields pairs)) s = .next (
    if pairs.length ≤ 8 ∧ ∀ p ∈ pairs, p.1 < 6 ∧ 1 ≤ p.2 ∧ p.2 ≤ 30 then
      ({ s.frameTaken with refusals := pairs }).answered tag 0x59 .done (.refusals pairs)
    else s.frameTaken.answered tag 0x59 .range .empty) := by
  refine (finish_takeRequest room 0x59 tag pairs judgeRefuseSet).trans (congrArg _ ?_)
  have outside : (8 < pairs.length ∨ pairs.any (fun p => !(isArm p.1 && isAddr p.2)) = true) ↔
      ¬ (pairs.length ≤ 8 ∧ ∀ p ∈ pairs, p.1 < 6 ∧ 1 ≤ p.2 ∧ p.2 ≤ 30) := by
    simp only [Classical.not_and_iff_not_or_not, Nat.not_le, List.any_eq_true, Bool.not_eq_true', Bool.and_eq_false_iff, isArm_false_iff, Classical.not_forall,
      exists_prop, isAddr, decide_eq_false_iff_not]
  simp only [judgeRefuseSet, outside, ite_not, Judged.ended_if, Judged.ended_refuse, Judged.ended_answer]

theorem exec_armConfig (f : ArmConfigArgs) :
    let A := s.arm f.arm
    exec (.armConfig tag (.fields f)) s = .next (
    if f.arm < 6 ∧ (100 ≤ f.period ∧ f.period ≤ 1000) ∧ (50 ≤ f.slot ∧ f.slot ≤ 1000) ∧ (4 ≤ f.window ∧ f.window ≤ 40) ∧
        (1 ≤ f.silence ∧ f.silence ≤ 15) ∧ (f.anchor = 0 ∨ ((1 ≤ f.anchor ∧ f.anchor ≤ 30) ∧ (A.slot f.anchor).row.kind ≠ .none)) then
      (s.frameTaken.setArm f.arm { A with
        period := f.period, slotInterval := f.slot, window := f.window, silence := f.silence, anchor := f.anchor
        autoRestore := f.autoRestore
        probes := if A.state = .isolated ∧ (f.anchor ≠ A.anchor ∨ f.autoRestore ≠ A.autoRestore) then 0 else A.probes }).answered
        tag 0x51 .done .empty
    else s.frameTaken.answered tag 0x51 .range .empty) := by
  refine (finish_takeRequest room 0x51 tag f judgeArmConfig).trans (congrArg _ ?_)
  have outside := not_congr (configInRange_iff (s.arm f.arm) f)
  rw [Bool.not_eq_true] at outside
  have arm : s.frameTaken.arm f.arm = s.arm f.arm := rfl
  simp only [judgeArmConfig, arm, outside, ite_not, Judged.ended_if, Judged.ended_refuse, Judged.ended_doneWith, Arm.configured]

end

/-- Settles O12: one equation for each request. -/
theorem settingsAreStoredWithinTheirRanges : Obligations.SettingsAreStoredWithinTheirRanges := fun _ tag room =>
  ⟨exec_graceSet room tag, exec_tripDelaySet room tag, exec_trunkConfig room tag, exec_pontoonSet room tag,
    exec_relayRefuseSet room tag, exec_armConfig room tag⟩

end Sys2Proof.Machine

/-! PROOFS. The outlet requests of the Service Point Controller (R108 to R112), with the conditions and the effect of a release (R98, R145).
The statements O26, O27, O28 and O29. -/

namespace Sys2Proof.Machine

/-! ### The selector of an outlet request (R108) -/

section
variable {sel : OutletSel} {service : Nat} {svcs : List Service} (act : State → SideRef → List PointRef → Judged) (s : State)

theorem onPoints_outOfRange (h : servicesOf service = none ∨ selInRange sel = false) : onPoints sel service act s = refuse s .range := by
  unfold onPoints
  cases hv : servicesOf service with
  | none => rfl
  | some svcs => exact if_pos (h.resolve_left (by rw [hv]; nofun))

theorem onPoints_unselected (hv : servicesOf service = some svcs) (hr : selInRange sel = true) (hd : s.selected sel = none) :
    onPoints sel service act s = refuse s .state := by
  simp only [onPoints, hv, hr, hd, Bool.true_eq_false, if_false]

theorem onPoints_selected {d : SideRef} (hv : servicesOf service = some svcs) (hr : selInRange sel = true) (hd : s.selected sel = some d) :
    onPoints sel service act s = act s d (d.points svcs) := by
  simp only [onPoints, hv, hr, hd, Bool.true_eq_false, if_false]

end

theorem State.selected_frameTaken (s : State) (sel : OutletSel) : s.frameTaken.selected sel = s.selected sel := rfl

/-- The three ends of an outlet request that the arbiters follow. -/
theorem finishBus_onPoints {s : State} (room : s.Room) (code tag : Nat) (f : OutletArgs) (act : State → SideRef → List PointRef → Judged) :
    ((servicesOf f.service = none ∨ selInRange f.sel = false) →
      finishBus (takeRequest code tag (.fields f) (fun t f => onPoints f.sel f.service act t) s) =
        .next (s.frameTaken.answeredBus tag code .range .empty)) ∧
    (∀ svcs, servicesOf f.service = some svcs → selInRange f.sel = true → s.selected f.sel = none →
      finishBus (takeRequest code tag (.fields f) (fun t f => onPoints f.sel f.service act t) s) =
        .next (s.frameTaken.answeredBus tag code .state .empty)) ∧
    (∀ svcs d, servicesOf f.service = some svcs → selInRange f.sel = true → s.selected f.sel = some d →
      finishBus (takeRequest code tag (.fields f) (fun t f => onPoints f.sel f.service act t) s) =
        .next ((act s.frameTaken d (d.points svcs)).endedBus tag code)) := by
  have ended := finishBus_takeRequest room code tag f (fun t f => onPoints f.sel f.service act t)
  refine ⟨fun h => ?_, fun svcs hv hr hd => ?_, fun svcs d hv hr hd => ?_⟩
  · rw [ended, onPoints_outOfRange act s.frameTaken h, Judged.endedBus_refuse]
  · rw [ended, onPoints_unselected act s.frameTaken hv hr hd, Judged.endedBus_refuse]
  · rw [ended, onPoints_selected act s.frameTaken hv hr hd]

theorem actEach_endedBus (tag code : Nat) (p : State → PointRef → Bool) (f : State → PointRef → State) (s : State) (rs : List PointRef) :
    (actEach p f s rs).endedBus tag code =
      ((rs.filter (p s)).foldl f s).answeredBus tag code (if rs.any (p s) = true then .done else .state)
        (.points (rs.filterMap ((rs.filter (p s)).foldl f s).stateOf)) := rfl

/-! ### OUTLET-START (R90, R109) -/

theorem State.point?_openSession {s : State} {r : PointRef} {x : Point} (h : s.point? r = some x) (off : x.state = .off) (account : Nat)
    (card : Option Card) :
    (s.openSession r account card).point? r =
      some { x with state := .starting, unconfirmed := 0, session := some (Session.opened account card s.clock) } := by
  simp only [State.openSession, h]
  rw [State.point?_changePoint h, Point.over_of_moved (by rw [off]; exact Bool.false_ne_true)]

theorem State.occupantOf_eq (s : State) (b : Option Nat) : s.occupantOf b = (b.bind (fun n => (s.berth n).occupant)).getD 0 := by
  cases b <;> rfl

theorem startOutlets_endedBus (tag : Nat) (s : State) (d : SideRef) (rs : List PointRef) :
    let b := s.sideBerth d.arm d.addr d.side
    let account := (b.bind (fun n => (s.berth n).occupant)).getD 0
    let opens (r : PointRef) : Bool := s.provisioned b r.svc && s.pointIs r (fun st => st == .off)
    let t := (rs.filter opens).foldl (fun u r => u.openSession r account none) s
    (startOutlets s d rs).endedBus tag 0x38 =
      if ¬ (∃ n, b = some n ∧ (s.berth n).state = .occupied) then s.answeredBus tag 0x38 .state (.points (rs.filterMap s.stateOf))
      else if ¬ ((s.account account).standing = .good ∨ (s.account account).standing = .low) then s.answeredBus tag 0x38 .denied .empty
      else if (s.arm d.arm).state = .disabled then s.answeredBus tag 0x38 .busy .empty
      else t.answeredBus tag 0x38 (if rs.any opens = true then .done else .state) (.points (rs.filterMap t.stateOf)) := by
  have vacant := not_congr (State.occupied_iff s (s.sideBerth d.arm d.addr d.side))
  have poor (n : Nat) := not_congr (State.inFunds_iff s n)
  simp only [Bool.not_eq_true] at vacant poor
  simp only [startOutlets, vacant, poor, Judged.endedBus_ite, Judged.endedBus_refuse, actEach_endedBus, State.occupantOf_eq]
  rfl

/-- Settles O26: the request is its selector's, then that of its checks, then an opened session at each selected point that is OFF. -/
theorem outletStartOpensSessions : Obligations.OutletStartOpensSessions := by
  refine ⟨fun s tag f room => ?_, fun s r x account card hx _ off => State.point?_openSession hx off account card⟩
  obtain ⟨range, state, selected⟩ := finishBus_onPoints room 0x38 tag f startOutlets
  exact ⟨range, state, fun svcs d hv hr hd =>
    (selected svcs d hv hr hd).trans (congrArg _ (startOutlets_endedBus tag s.frameTaken d (d.points svcs)))⟩

/-! ### OUTLET-STOP and OUTLET-SUSPEND (R110) -/

theorem PointState.closable_eq :
    PointState.closable = fun st => st == .live || st == .starting || st == .suspended || st == .tripped := by
  funext st
  cases st <;> rfl

theorem Point.officeSuspendable_eq :
    Point.officeSuspendable = fun x => x.state == .live || x.state == .starting || (x.state == .suspended &&
      x.session.any (fun ses => ses.suspension == some .credit || ses.suspension == some .barred)) := by
  funext x
  unfold Point.officeSuspendable
  cases x.state <;> rfl

/-- Settles O27: each request is its selector's, then one change at each selected point in a state the rule names. -/
theorem outletStopAndSuspendChangeTheSelected : Obligations.OutletStopAndSuspendChangeTheSelected := by
  intro s tag f room
  obtain ⟨stopRange, stopState, stop⟩ := finishBus_onPoints room 0x39 tag f stopOutlets
  obtain ⟨suspendRange, suspendState, suspend⟩ := finishBus_onPoints room 0x3A tag f suspendOutlets
  refine ⟨fun h => ⟨stopRange h, suspendRange h⟩, fun svcs hv hr hd => ⟨stopState svcs hv hr hd, suspendState svcs hv hr hd⟩,
    fun svcs d hv hr hd => ⟨(stop svcs d hv hr hd).trans (congrArg _ ?_), (suspend svcs d hv hr hd).trans (congrArg _ ?_)⟩⟩
  · rw [stopOutlets, PointState.closable_eq]
    rfl
  · rw [suspendOutlets, Point.officeSuspendable_eq]
    rfl

/-! ### OUTLET-CLEAR and OUTLET-ENABLES (R108, R112) -/

theorem enablesOf_eq_none {n : Nat} (h : 8 ≤ n) : enablesOf n = none := if_neg (Nat.not_lt.mpr h)

theorem enablesOf_eq_some {n : Nat} (h : n < 8) :
    enablesOf n = some { credit := n.testBit 0, tap := n.testBit 1, office := n.testBit 2 } := if_pos h

/-- OUTLET-ENABLES with a set in range, once its selector is judged (R108). -/
def storeEnables (e : Enables) (s : State) (_ : SideRef) (rs : List PointRef) : Judged :=
  let t := rs.foldl (State.setEnables e) s
  answer t .done (.points (t.pointStates rs))

theorem judgeOutletEnables_of_lt {f : EnablesArgs} (h : f.set < 8) (s : State) :
    judgeOutletEnables s f = onPoints f.sel f.service
      (storeEnables { credit := f.set.testBit 0, tap := f.set.testBit 1, office := f.set.testBit 2 }) s := by
  rw [judgeOutletEnables, enablesOf_eq_some h]
  rfl

/-- Settles O29: OUTLET-CLEAR changes each selected point that may be cleared, OUTLET-ENABLES stores the set at each selected point. -/
theorem outletClearAndEnablesChangeTheSelected : Obligations.OutletClearAndEnablesChangeTheSelected := by
  refine ⟨fun s tag f room => ?clear, fun s tag f room => ?enables⟩
  case clear => exact finishBus_onPoints room 0x3C tag f clearOutlets
  case enables =>
    have ended := finish_takeRequest room 0x3D tag f judgeOutletEnables
    refine ⟨fun h => ended.trans (congrArg _ ?range), fun svcs he hv hr hd => ended.trans (congrArg _ ?state),
      fun svcs d he hv hr hd => ended.trans (congrArg _ ?selected)⟩
    case range =>
      by_cases he : 8 ≤ f.set
      · simp only [judgeOutletEnables, enablesOf_eq_none he, Judged.ended_refuse]
      · rw [judgeOutletEnables_of_lt (Nat.lt_of_not_le he), onPoints_outOfRange _ _ (h.resolve_left he), Judged.ended_refuse]
    case state => rw [judgeOutletEnables_of_lt he, onPoints_unselected _ s.frameTaken hv hr hd, Judged.ended_refuse]
    case selected =>
      rw [judgeOutletEnables_of_lt he, onPoints_selected _ s.frameTaken hv hr hd]
      rfl

/-! ### A release and its conditions (R98, R145) -/

/-- The reason of the first failing check of a list is that of its head, where the head fails, and else that of the rest. -/
theorem firstFailure_cons {ε : Type} (b : Bool) (e : ε) (l : List (Bool × ε)) :
    (((b, e) :: l).find? (fun k => !k.1)).map Prod.snd = if b = true then (l.find? (fun k => !k.1)).map Prod.snd else some e := by
  cases b <;> rfl

/-- The checks of R98 in their order, each with the reason it gives. -/
def Point.releaseChecks (x : Point) (ses : Session) (cause : Cause) (occupied inFunds : Bool) (now delay : Nat) :
    List (Bool × ReleaseFailure) :=
  [(x.state == .suspended || x.state == .tripped, .state), (x.enables.allows cause, .enable), (occupied, .berth), (inFunds, .account),
    (ses.suspension != some .office || cause == .office, .suspension),
    (x.state != .tripped || cause == .office || (cause == .tap && decide (ses.tripTime.getD 0 + delay ≤ now)), .trip)]

theorem Point.releaseFailure_eq_checks {x : Point} {ses : Session} (h : x.session = some ses) (cause : Cause) (occupied inFunds : Bool)
    (now delay : Nat) :
    x.releaseFailure cause occupied inFunds now delay =
      ((x.releaseChecks ses cause occupied inFunds now delay).find? (fun k => !k.1)).map Prod.snd := by
  have suspension : (ses.suspension != some .office || cause == .office) = true ↔ ¬ (ses.suspension = some .office ∧ cause ≠ .office) := by
    simp only [Bool.or_eq_true, bne_iff_ne, beq_iff_eq, Classical.not_and_iff_not_or_not, ne_eq, Classical.not_not]
  have trip : (x.state != .tripped || cause == .office || (cause == .tap && decide (ses.tripTime.getD 0 + delay ≤ now))) = true ↔
      ¬ (x.state = .tripped ∧ cause ≠ .office ∧ ¬ (cause = .tap ∧ ses.tripTime.getD 0 + delay ≤ now)) := by
    simp only [Bool.or_eq_true, Bool.and_eq_true, bne_iff_ne, beq_iff_eq, decide_eq_true_eq,
      Classical.not_and_iff_not_or_not (a := x.state = .tripped), Classical.not_and_iff_not_or_not (a := cause ≠ .office), ne_eq, Classical.not_not, or_assoc]
  simp only [Point.releaseChecks, firstFailure_cons, suspension, trip, Point.releaseFailure, h, ite_not, Bool.or_eq_true, beq_iff_eq]
  rw [← ite_not (p := x.enables.allows cause = false), ← ite_not (p := occupied = false), ← ite_not (p := inFunds = false)]
  simp only [Bool.not_eq_false]
  rfl

theorem State.releaseFailure_none {s : State} {r : PointRef} (h : s.point? r = none) (cause : Cause) :
    s.releaseFailure r cause = some .state := by
  simp only [State.releaseFailure, h]

theorem State.releaseFailure_idle {s : State} {r : PointRef} {x : Point} (h : s.point? r = some x) (hs : x.session = none) (cause : Cause) :
    s.releaseFailure r cause = some .state := by
  simp only [State.releaseFailure, h, Point.releaseFailure, hs]

theorem State.releaseFailure_session {s : State} {r : PointRef} {x : Point} {ses : Session} (h : s.point? r = some x)
    (hs : x.session = some ses) (cause : Cause) :
    s.releaseFailure r cause =
      x.releaseFailure cause (s.occupied (s.pointBerth r)) (s.inFunds ses.account) s.clock s.tripDelay := by
  simp only [State.releaseFailure, h, hs]

/-- A release with cause OFFICE is judged by the first four conditions alone (R98). -/
theorem Point.releaseFailure_office {x : Point} {ses : Session} (hs : x.session = some ses) (occupied inFunds : Bool) (now delay : Nat) :
    x.releaseFailure .office occupied inFunds now delay =
      if ¬ (x.state = .suspended ∨ x.state = .tripped) then some .state
      else if x.enables.office = false then some .enable
      else if occupied = false then some .berth
      else if inFunds = false then some .account
      else none := by
  simp only [Point.releaseFailure, hs, Enables.allows, ne_eq, not_true_eq_false, and_false, false_and, if_false]

/-- A point is OFFICE-enabled. -/
def Point.officeEnabled (x : Point) : Point := { x with enables := { x.enables with office := true } }

/-- A release with cause OFFICE fails for the enable alone where it is absent and the release would succeed with it. -/
theorem Point.enableAlone_iff {x : Point} {ses : Session} (hs : x.session = some ses) (occupied inFunds : Bool) (now delay : Nat) :
    (x.releaseFailure .office occupied inFunds now delay = some .enable ∧
        x.officeEnabled.releaseFailure .office occupied inFunds now delay = none) ↔
      x.enables.office = false ∧ x.officeEnabled.releaseFailure .office occupied inFunds now delay = none := by
  simp only [Point.releaseFailure_office hs, Point.releaseFailure_office (x := x.officeEnabled) hs]
  have enabled : x.officeEnabled.enables.office = true := rfl
  have state : x.officeEnabled.state = x.state := rfl
  rw [enabled, state]
  by_cases st : x.state = .suspended ∨ x.state = .tripped
  · cases x.enables.office with
    | false => simp [st]
    | true => cases occupied <;> cases inFunds <;> simp [st]
  · simp [st]

theorem State.enableAlone_none {s : State} {r : PointRef} (h : s.point? r = none) : s.enableAlone r = false := by
  simp only [State.enableAlone, h]

theorem State.enableAlone_idle {s : State} {r : PointRef} {x : Point} (h : s.point? r = some x) (hs : x.session = none) :
    s.enableAlone r = false := by
  simp only [State.enableAlone, h, State.releaseFailure_idle h hs]
  rfl

theorem OnlyPosts.occupied {s t : State} (h : OnlyPosts s t) (b : Option Nat) : t.occupied b = s.occupied b := by
  cases b with
  | none => rfl
  | some n => rw [State.occupied, State.occupied, h.berth]

theorem OnlyPosts.inFunds {s t : State} (h : OnlyPosts s t) (n : Nat) : t.inFunds n = s.inFunds n := by
  rw [State.inFunds, State.inFunds, h.account]

theorem State.enableAlone_iff {s : State} {r : PointRef} {x : Point} {ses : Session} (h : s.point? r = some x) (hs : x.session = some ses) :
    s.enableAlone r = true ↔ x.enables.office = false ∧
      x.officeEnabled.releaseFailure .office (s.occupied (s.pointBerth r)) (s.inFunds ses.account) s.clock s.tripDelay = none := by
  have only := OnlyPosts.storePoint s r x.officeEnabled
  have enabled := State.releaseFailure_session (State.point?_storePoint h x.officeEnabled) hs .office
  rw [only.pointBerth, only.occupied, only.inFunds, only.clock, only.tripDelay] at enabled
  have judged : s.enableAlone r = (s.releaseFailure r .office == some .enable &&
      ((s.storePoint r x.officeEnabled).releaseFailure r .office).isNone) := by
    rw [State.enableAlone, h]
    rfl
  rw [judged, enabled, State.releaseFailure_session h hs, Bool.and_eq_true, beq_iff_eq, Option.isNone_iff_eq_none]
  exact Point.enableAlone_iff hs ..

theorem State.releasePoint_of_post {s : State} {r : PointRef} {p : Post} (h : s.post? r.arm r.addr = some p) (cause : Cause) :
    s.releasePoint r cause = s.setPost r.arm r.addr (p.releasePoint r.side r.svc cause) := by
  rw [State.releasePoint, h]

theorem State.detector_of_post {s : State} {a d : Nat} {p : Post} (h : s.post? a d = some p) (k : Nat) : s.detector a d k = p.det k := by
  rw [State.detector, h]

/-- A release restarts the detector part of a POWER point that stood in TRIPPED, and no other (R145). -/
theorem Post.det_releasePoint {p : Post} {i : Nat} {v : Service} {ses : Session} (hs : (p.point i v).session = some ses) (cause : Cause)
    {k : Nat} (hi : i ≤ 1) (hk : k ≤ 1) :
    (p.releasePoint i v cause).det k =
      if k = i ∧ v = .power ∧ (p.point i v).state = .tripped then (p.det k).restarted else p.det k := by
  simp only [Post.releasePoint, hs, Post.det_change]
  by_cases restarts : (p.point i v).state = .tripped ∧ v = .power
  · rw [if_pos restarts]
    by_cases own : k = i
    · rw [if_pos ⟨own, restarts.2, restarts.1⟩, own, Post.det_setDet]
    · rw [if_neg fun h => own h.1, Post.det_setDet_other _ _ hi hk own]
  · rw [if_neg restarts, if_neg fun h => restarts ⟨h.2.2, h.2.1⟩]

theorem State.point?_releasePoint {s : State} {r : PointRef} {x : Point} {ses : Session} (h : s.point? r = some x)
    (hs : x.session = some ses) (hx : x.state = .suspended ∨ x.state = .tripped) (cause : Cause) :
    (s.releasePoint r cause).point? r =
      some { x with state := .starting, unconfirmed := 0, session := some (ses.release cause) } := by
  obtain ⟨p, hp, rfl⟩ := State.post_of_point h
  have moved : (p.point r.side r.svc).state.desiredOn ≠ PointState.starting.desiredOn := by
    rcases hx with e | e <;> rw [e] <;> exact Bool.false_ne_true
  rw [State.releasePoint_of_post hp, State.point?_of_post (State.post?_setPost_self _ hp), Post.point_releasePoint hs,
    Point.over_of_moved moved]

theorem State.releaseFailure_frameTaken (s : State) : s.frameTaken.releaseFailure = s.releaseFailure := by
  funext r cause
  have point : s.frameTaken.point? r = s.point? r := rfl
  cases h : s.point? r with
  | none => rw [State.releaseFailure_none h, State.releaseFailure_none (point.trans h)]
  | some x =>
    cases hs : x.session with
    | none => rw [State.releaseFailure_idle h hs, State.releaseFailure_idle (point.trans h) hs]
    | some ses =>
      rw [State.releaseFailure_session h hs, State.releaseFailure_session (point.trans h) hs]
      rfl

theorem State.enableAlone_frameTaken (s : State) : s.frameTaken.enableAlone = s.enableAlone := by
  funext r
  have point : s.frameTaken.point? r = s.point? r := rfl
  cases h : s.point? r with
  | none => rw [State.enableAlone_none h, State.enableAlone_none (point.trans h)]
  | some x =>
    cases hs : x.session with
    | none => rw [State.enableAlone_idle h hs, State.enableAlone_idle (point.trans h) hs]
    | some ses =>
      rw [Bool.eq_iff_iff, State.enableAlone_iff h hs, State.enableAlone_iff (point.trans h) hs]
      rfl

theorem releaseOutlets_endedBus (tag : Nat) (s : State) (d : SideRef) (rs : List PointRef) :
    let passes (r : PointRef) : Bool := (s.releaseFailure r .office).isNone
    let t := (rs.filter passes).foldl (fun u r => u.releasePoint r .office) s
    (releaseOutlets s d rs).endedBus tag 0x3B =
      t.answeredBus tag 0x3B (if rs.any passes = true then .done else if rs.any s.enableAlone = true then .denied else .state)
        (.releases (rs.filterMap (fun r => (t.stateOf r).map (fun st => { state := st, failed := s.releaseFailure r .office })))) := by
  simp only [releaseOutlets, Judged.endedBus_answer, releaseReports]

/-- Settles O28: the request is its selector's and the conditions', the conditions are the list of R98, and a release changes one point
and the detector part of one that stood in TRIPPED. -/
theorem outletReleaseTriesTheSelected : Obligations.OutletReleaseTriesTheSelected := by
  refine ⟨fun s tag f room => ?request, fun x ses cause occupied inFunds now delay hs => ?checks, fun s r _ => ?failure,
    fun s r x ses cause h hs hr hx => ⟨State.point?_releasePoint h hs hx cause, fun k hk => ?detector⟩⟩
  case request =>
    obtain ⟨range, state, selected⟩ := finishBus_onPoints room 0x3B tag f releaseOutlets
    refine ⟨range, state, fun svcs d hv hr hd => (selected svcs d hv hr hd).trans (congrArg _ ?_)⟩
    rw [releaseOutlets_endedBus, State.releaseFailure_frameTaken, State.enableAlone_frameTaken]
    rfl
  case checks =>
    refine (Point.releaseFailure_eq_checks hs ..).trans ?_
    cases cause <;> rfl
  case failure =>
    refine ⟨fun h => ⟨State.releaseFailure_none h, State.enableAlone_none h⟩, fun x h => ⟨fun hs => ?_, fun ses hs => ?_⟩⟩
    · exact ⟨State.releaseFailure_idle h hs, State.enableAlone_idle h hs⟩
    · have inFunds : s.inFunds ses.account = ((s.account ses.account).standing == .good || (s.account ses.account).standing == .low) := by
        rw [Bool.eq_iff_iff, State.inFunds_iff, Bool.or_eq_true, beq_iff_eq, beq_iff_eq]
      refine ⟨fun cause => (State.releaseFailure_session h hs cause).trans ?_, (State.enableAlone_iff h hs).trans ?_⟩
      · rw [inFunds] <;> rfl
      · rw [inFunds] <;> rfl
  case detector =>
    obtain ⟨p, hp, rfl⟩ := State.post_of_point h
    rw [State.releasePoint_of_post hp, State.detector_of_post (State.post?_setPost_self _ hp), Post.det_releasePoint hs cause hr hk]
    dsimp only
    rw [State.detector_of_post hp]
    rfl

end Sys2Proof.Machine

/-! PROOFS. The end of a session and of a stay: what an order of the Account Unit leaves of a point, the close of a session (R92, R128), the
force-close (R105) and the check-out order (R104), meter faults (R124), and the requests and events that call for them. The statements O9,
O33, O7 and O8. -/

namespace Sys2Proof.Machine

/-! ### What the Account Unit's orders leave of a point -/

/-- A session without what suspension orders and releases write. -/
def Session.core (ses : Session) : Session :=
  { ses with suspension := none, lastRelease := none, tripCause := none, tripTime := none }

/-- A point without what suspension orders and releases write, which is nothing where it has no session. -/
def Point.core (x : Point) : Point :=
  match x.session with
  | some ses => { x with state := .off, unconfirmed := 0, session := some ses.core }
  | none => x

theorem Point.core_of_session {x : Point} {ses : Session} (h : x.session = some ses) :
    x.core = { x with state := .off, unconfirmed := 0, session := some ses.core } := by
  simp only [Point.core, h]

theorem Point.core_of_none {x : Point} (h : x.session = none) : x.core = x := by
  simp only [Point.core, h]

theorem Point.core_session (x : Point) : x.core.session = x.session.map Session.core := by
  unfold Point.core
  cases h : x.session with
  | none => exact h
  | some ses => rfl

@[simp] theorem Point.core_enables (x : Point) : x.core.enables = x.enables := by unfold Point.core; split <;> rfl
@[simp] theorem Point.core_baseline (x : Point) : x.core.baseline = x.baseline := by unfold Point.core; split <;> rfl
@[simp] theorem Point.core_unattributed (x : Point) : x.core.unattributed = x.unattributed := by unfold Point.core; split <;> rfl

/-- A point without a session is its core, so no other record has that core. -/
theorem Point.eq_of_core {x y : Point} (h : y.core = x.core) (hs : x.session = none) : y = x := by
  have none : y.session = none := Option.map_eq_none_iff.mp (by rw [← Point.core_session, h, Point.core_session, hs]; rfl)
  rw [← Point.core_of_none none, h, Point.core_of_none hs]

/-- Two records with one core have equal metering fields, and sessions with one core. -/
theorem Point.fields_of_core {x y : Point} (h : y.core = x.core) :
    y.enables = x.enables ∧ y.baseline = x.baseline ∧ y.unattributed = x.unattributed ∧
      y.session.map Session.core = x.session.map Session.core := by
  refine ⟨?_, ?_, ?_, ?_⟩
  · rw [← Point.core_enables, h, Point.core_enables]
  · rw [← Point.core_baseline, h, Point.core_baseline]
  · rw [← Point.core_unattributed, h, Point.core_unattributed]
  · rw [← Point.core_session, h, Point.core_session]

theorem Point.core_suspendedFor (x : Point) (n : Nat) (reason : SuspReason) : (x.suspendedFor n reason).core = x.core := by
  unfold Point.suspendedFor
  cases hs : x.session with
  | none => rfl
  | some ses =>
    dsimp only
    split
    · rw [Point.core_of_session hs, Point.core_of_session rfl]
      rfl
    · rfl

theorem Point.core_creditReleased (x : Point) (n : Nat) (occupied inFunds : Bool) :
    (x.creditReleased n occupied inFunds).core = x.core := by
  unfold Point.creditReleased
  cases hs : x.session with
  | none => rfl
  | some ses =>
    dsimp only
    split
    · rw [Point.core_of_session hs, Point.core_of_session rfl]
      rfl
    · rfl

/-- From `s` to `t` nothing has changed but accounts, the notice queue, and of the posts what an order of the Account Unit writes. -/
structure FundsOnly (s t : State) : Prop where
  rest : OnlyPosts s { t with accounts := s.accounts, notices := s.notices }
  points : ∀ r : PointRef, r.side ≤ 1 → (t.point? r).map Point.core = (s.point? r).map Point.core

theorem OnlyPosts.withFunds {s t : State} (h : OnlyPosts s t) (a : Vector Account 256) (q : NoticeQueue) :
    OnlyPosts { s with accounts := a, notices := q } { t with accounts := a, notices := q } :=
  ⟨congrArg (fun u : State => { u with accounts := a, notices := q }) h.rest, h.arm, h.slot⟩

theorem FundsOnly.refl (s : State) : FundsOnly s s := ⟨.refl s, fun _ _ => rfl⟩

theorem FundsOnly.trans {s t u : State} (h : FundsOnly s t) (k : FundsOnly t u) : FundsOnly s u :=
  ⟨h.rest.trans (k.rest.withFunds s.accounts s.notices), fun r hr => (k.points r hr).trans (h.points r hr)⟩

theorem FundsOnly.post (s : State) (b : NoticeBody) : FundsOnly s (s.post b) := ⟨.refl s, fun _ _ => rfl⟩

theorem FundsOnly.setAccount (s : State) (n : Nat) (a : Account) : FundsOnly s (s.setAccount n a) := ⟨.refl s, fun _ _ => rfl⟩

theorem FundsOnly.suspendAccount (s : State) (n : Nat) (reason : SuspReason) : FundsOnly s (s.suspendAccount n reason) := by
  refine ⟨(OnlyPosts.suspendAccount s n reason).withFunds s.accounts s.notices, fun r hr => ?_⟩
  rw [State.point?_suspendAccount s n reason hr, Option.map_map]
  exact congrArg (Option.map · _) (funext fun x => Point.core_suspendedFor x n reason)

theorem FundsOnly.creditRelease (s : State) (n : Nat) : FundsOnly s (s.creditRelease n) := by
  refine ⟨(OnlyPosts.creditRelease s n).withFunds s.accounts s.notices, fun r hr => ?_⟩
  rw [State.point?_creditRelease s n hr, Option.map_map]
  exact congrArg (Option.map · _) (funext fun x => Point.core_creditReleased x n _ _)

theorem FundsOnly.onStanding (s : State) (n : Nat) (x y : Standing) : FundsOnly s (s.onStanding n x y) := by
  unfold State.onStanding
  dsimp only
  split
  · exact .refl s
  · split
    · exact .refl s
    · split
      · exact .refl s
      · exact (FundsOnly.creditRelease s n).trans (.post ..)
    · split
      · exact .post ..
      · exact (FundsOnly.creditRelease s n).trans (.post ..)
    · exact (FundsOnly.suspendAccount s n _).trans (.post ..)
    · exact (FundsOnly.suspendAccount s n _).trans (.post ..)

theorem FundsOnly.debit (s : State) (n d : Nat) (src : DebitSource) : FundsOnly s (s.debit n d src) := by
  rw [State.debit_eq]
  split
  · exact .post ..
  · exact (FundsOnly.setAccount s n _).trans ((FundsOnly.setAccount _ n _).trans (.onStanding ..))

section
variable {s t : State} (h : FundsOnly s t)
include h

theorem FundsOnly.pointBerth (r : PointRef) : t.pointBerth r = s.pointBerth r := h.rest.pointBerth r
theorem FundsOnly.row (a d : Nat) : t.row a d = s.row a d := h.rest.row a d
theorem FundsOnly.clock : t.clock = s.clock := h.rest.clock
theorem FundsOnly.berths : t.berths = s.berths := h.rest.berths
theorem FundsOnly.rates : t.rates = s.rates := h.rest.rates

theorem FundsOnly.point {r : PointRef} {x : Point} (hr : r.side ≤ 1) (hx : s.point? r = some x) :
    ∃ y, t.point? r = some y ∧ y.core = x.core := by
  have core := h.points r hr
  rw [hx, Option.map_some] at core
  exact Option.map_eq_some_iff.mp core

end

/-! ### The close of a session (R92, R128) -/

theorem State.clearDetector_eq (s : State) (r : PointRef) :
    s.clearDetector r = if r.svc = .power then s.setDetector r.arm r.addr r.side Detector.cleared else s := by
  unfold State.clearDetector State.setDetector
  cases r.svc with
  | power => cases s.post? r.arm r.addr <;> rfl
  | water => rfl

theorem State.point?_setDetector (s : State) (a d side : Nat) (x : Detector) (r : PointRef) :
    (s.setDetector a d side x).point? r = s.point? r := by
  unfold State.setDetector
  cases h : s.post? a d with
  | none => rfl
  | some p =>
    dsimp only
    rw [State.point?_setPost _ h]
    split
    case isTrue own =>
      rw [Post.point_setDet]
      obtain ⟨rfl, rfl⟩ := own
      exact (State.point?_of_post h).symm
    case isFalse => rfl

theorem State.point?_clearDetector (s : State) (r q : PointRef) : (s.clearDetector r).point? q = s.point? q := by
  rw [State.clearDetector_eq]
  split
  · exact State.point?_setDetector ..
  · rfl

/-- A point whose session is taken off and that enters the named state (R92). -/
def Point.ended (x : Point) (next : PointState) : Point := { x with state := next, session := none }

theorem State.closeSession_eq {s : State} {r : PointRef} {x : Point} {ses : Session} (h : s.point? r = some x) (hs : x.session = some ses)
    (reason : CloseReason) (next : PointState) (report : Bool) :
    s.closeSession r reason next report = (s.roundSession r x ses).endSession r reason next report := by
  simp only [State.closeSession, h, hs]

theorem State.endSession_eq {s : State} {r : PointRef} {y : Point} {z : Session} (h : s.point? r = some y) (hs : y.session = some z)
    (reason : CloseReason) (next : PointState) (report : Bool) :
    s.endSession r reason next report =
      let told := s.post (.sessionClosed r (s.pointBerth r) { z with closeReason := some reason } s.clock reason)
      (if report = true then told.changePoint r (y.ended next) else told.changeQuiet r (y.ended next)).clearDetector r := by
  simp only [State.endSession, h, hs]
  rfl

section
variable {s : State} {r : PointRef} {x : Point} {ses : Session}

theorem FundsOnly.roundSession (s : State) (r : PointRef) (x : Point) (ses : Session) :
    FundsOnly (s.storePoint r { x with session := some ses.rounded }) (s.roundSession r x ses) := by
  unfold State.roundSession
  dsimp only
  split
  · exact .debit ..
  · exact .refl _

/-- The point after the final rounding: its session holds the rounded sum, whatever the debit's orders did to it. -/
theorem State.point?_roundSession (h : s.point? r = some x) (hr : r.side ≤ 1) :
    ∃ y z, (s.roundSession r x ses).point? r = some y ∧ y.session = some z ∧ z.core = ses.rounded.core ∧ y.enables = x.enables ∧
      y.baseline = x.baseline ∧ y.unattributed = x.unattributed := by
  obtain ⟨y, hy, core⟩ := (FundsOnly.roundSession s r x ses).point hr (State.point?_storePoint h _)
  obtain ⟨enables, baseline, unattributed, session⟩ := Point.fields_of_core core
  obtain ⟨z, hz, zc⟩ := Option.map_eq_some_iff.mp session
  exact ⟨y, z, hy, hz, zc, enables, baseline, unattributed⟩

theorem State.pointBerth_roundSession (s : State) (r : PointRef) (x : Point) (ses : Session) :
    (s.roundSession r x ses).pointBerth r = s.pointBerth r := by
  rw [(FundsOnly.roundSession s r x ses).pointBerth, (OnlyPosts.storePoint s r _).pointBerth]

theorem State.clock_roundSession (s : State) (r : PointRef) (x : Point) (ses : Session) : (s.roundSession r x ses).clock = s.clock := by
  rw [(FundsOnly.roundSession s r x ses).clock, (OnlyPosts.storePoint s r _).clock]

end

theorem State.point?_endSession {s : State} {r : PointRef} {y : Point} {z : Session} (h : s.point? r = some y) (hs : y.session = some z)
    (reason : CloseReason) (next : PointState) (report : Bool) :
    (s.endSession r reason next report).point? r = some ((y.ended next).over y) := by
  rw [State.endSession_eq h hs]
  dsimp only
  rw [State.point?_clearDetector]
  split
  · exact State.point?_changePoint (s := s.post _) h _
  · exact State.point?_changeQuiet (s := s.post _) h _

/-- The point a close leaves: in the next state, without a session, and with the rest of its record. -/
theorem State.point?_closeSession {s : State} {r : PointRef} {x : Point} {ses : Session} (h : s.point? r = some x)
    (hs : x.session = some ses) (hr : r.side ≤ 1) (reason : CloseReason) (next : PointState) (report : Bool) :
    ∃ y, (s.closeSession r reason next report).point? r = some y ∧ y.state = next ∧ y.session = none ∧ y.enables = x.enables ∧
      y.baseline = x.baseline ∧ y.unattributed = x.unattributed := by
  obtain ⟨y, z, hy, hz, -, enables, baseline, unattributed⟩ := State.point?_roundSession (ses := ses) h hr
  refine ⟨(y.ended next).over y, ?_, ?_, ?_, ?_, ?_, ?_⟩
  · rw [State.closeSession_eq h hs, State.point?_endSession hy hz]
  · rw [Point.over_state]; rfl
  · rw [Point.over_session]; rfl
  · rw [Point.over_enables]; exact enables
  · rw [Point.over_baseline]; exact baseline
  · rw [Point.over_unattributed]; exact unattributed

/-- A close without a report leaves every other point but for the orders of its debit. -/
theorem State.point?_closeSession_other {s : State} {r q : PointRef} {x y : Point} {ses : Session} (h : s.point? r = some x)
    (hs : x.session = some ses) (hr : r.side ≤ 1) (hq : q.side ≤ 1) (ne : q ≠ r) (hy : s.point? q = some y) (reason : CloseReason)
    (next : PointState) : ∃ z, (s.closeSession r reason next false).point? q = some z ∧ z.core = y.core := by
  obtain ⟨x', ses', hx', hs', -⟩ := State.point?_roundSession (ses := ses) h hr
  obtain ⟨z, hz, core⟩ := (FundsOnly.roundSession s r x ses).point hq
    ((State.point?_storePoint_other { x with session := some ses.rounded } hr hq ne).trans hy)
  refine ⟨z, ?_, core⟩
  rw [State.closeSession_eq h hs, State.endSession_eq hx' hs']
  dsimp only
  rw [State.point?_clearDetector, if_neg Bool.false_ne_true, State.point?_changeQuiet_other _ hr hq ne]
  exact hz

theorem OnlyPosts.clearDetector (s : State) (r : PointRef) : OnlyPosts s (s.clearDetector r) := by
  rw [State.clearDetector_eq]
  split
  · exact .setDetector ..
  · exact .refl s

/-- A close without a report changes accounts, posts and the notice queue alone. -/
theorem State.closeSession_quiet {s : State} {r : PointRef} {x : Point} {ses : Session} (h : s.point? r = some x)
    (hs : x.session = some ses) (hr : r.side ≤ 1) (reason : CloseReason) (next : PointState) :
    (s.closeSession r reason next false).berths = s.berths ∧ (s.closeSession r reason next false).clock = s.clock := by
  obtain ⟨x', ses', hx', hs', -⟩ := State.point?_roundSession (ses := ses) h hr
  have stored := OnlyPosts.storePoint s r { x with session := some ses.rounded }
  have rounded := FundsOnly.roundSession s r x ses
  rw [State.closeSession_eq h hs, State.endSession_eq hx' hs']
  dsimp only
  rw [if_neg Bool.false_ne_true, (OnlyPosts.clearDetector ..).berths, (OnlyPosts.changeQuiet ..).berths, (OnlyPosts.clearDetector ..).clock,
    (OnlyPosts.changeQuiet ..).clock]
  exact ⟨rounded.berths.trans stored.berths, rounded.clock.trans stored.clock⟩

/-! ### The points of a berth (R5) -/

theorem State.boundSide_side {s : State} {b : Nat} {d : SideRef} (h : s.boundSide b = some d) : d.side ≤ 1 := by
  obtain ⟨p, -, hp⟩ := List.exists_of_findSome?_eq_some h
  obtain ⟨side, hside, rfl⟩ := Option.map_eq_some_iff.mp hp
  unfold Row.sideOf at hside
  split at hside
  · cases hside; exact Nat.zero_le 1
  · split at hside
    · cases hside; exact Nat.le_refl 1
    · cases hside

/-- A berth's points are none, or the two of one side of a post. -/
theorem State.berthPoints_cases (s : State) (b : Nat) :
    s.berthPoints b = [] ∨ ∃ a d side, side ≤ 1 ∧ s.berthPoints b = sideRefs a d side := by
  unfold State.berthPoints
  cases h : s.boundSide b with
  | none => exact .inl rfl
  | some d => exact .inr ⟨d.arm, d.addr, d.side, State.boundSide_side h, rfl⟩

/-! ### The force-close (R105) -/

/-- The force-close at one point. -/
def State.forceCloseAt (s : State) (r : PointRef) : State :=
  if s.forceClosable r then s.closeSession r .unconfirmed .off false else s

theorem State.forceClose_state (s : State) (b : Nat) : (s.forceClose b).1 = (s.berthPoints b).foldl State.forceCloseAt s := rfl

theorem State.forceCloseAt_eq (s : State) (r : PointRef) :
    s.forceCloseAt r =
      match s.point? r with
      | some x => if x.state = .off ∨ x.state = .fault then s else s.closeSession r .unconfirmed .off false
      | none => s := by
  unfold State.forceCloseAt State.forceClosable State.pointIs State.stateOf
  cases h : s.point? r with
  | none => rfl
  | some x =>
    simp only [Option.map_some, Bool.not_eq_true', ← Bool.not_eq_true, PointState.atRest_iff, ite_not]

/-- By the law of points a point has a session exactly outside OFF and FAULT (R89). -/
theorem PointLaw.session_none_iff {s : State} (law : PointLaw s) {r : PointRef} {x : Point} (h : s.point? r = some x) :
    x.session = none ↔ x.state = .off ∨ x.state = .fault := by
  obtain ⟨present, -⟩ := Law.pointOk (k := .points) law h rfl
  rw [← PointState.atRest_iff, ← Option.isNone_iff_eq_none, ← Option.not_isSome, present, Bool.not_not]

theorem PointLaw.forceCloseAt {s : State} (law : PointLaw s) (r : PointRef) : PointLaw (s.forceCloseAt r) := by
  unfold State.forceCloseAt
  split
  · exact Law.closeSession (k := .points) law rfl
  · exact law

section
variable {s : State} (law : PointLaw s) {r : PointRef} {x : Point} (h : s.point? r = some x) (hr : r.side ≤ 1)
include law h hr

/-- The force-close at a point: it stays in OFF or FAULT, or comes to OFF, and has no session. -/
theorem State.point?_forceCloseAt :
    ∃ y, (s.forceCloseAt r).point? r = some y ∧ y.session = none ∧ y.enables = x.enables ∧ y.baseline = x.baseline ∧
      y.unattributed = x.unattributed ∧ y.state = if x.state = .off ∨ x.state = .fault then x.state else .off := by
  rw [State.forceCloseAt_eq, h]
  dsimp only
  by_cases rest : x.state = .off ∨ x.state = .fault
  · rw [if_pos rest, if_pos rest]
    exact ⟨x, h, (law.session_none_iff h).mpr rest, rfl, rfl, rfl, rfl⟩
  · rw [if_neg rest, if_neg rest]
    obtain ⟨ses, hs⟩ := Option.ne_none_iff_exists'.mp (mt (law.session_none_iff h).mp rest)
    obtain ⟨y, hy, state, session, enables, baseline, unattributed⟩ := State.point?_closeSession h hs hr .unconfirmed .off false
    exact ⟨y, hy, session, enables, baseline, unattributed, state⟩

end

/-- The force-close at a point leaves every other point but for the orders of its debit, and the berths and the clock. -/
theorem State.forceCloseAt_frame {s : State} (law : PointLaw s) {r : PointRef} (hr : r.side ≤ 1) :
    (∀ (q : PointRef) (y : Point), q.side ≤ 1 → q ≠ r → s.point? q = some y →
      ∃ z, (s.forceCloseAt r).point? q = some z ∧ z.core = y.core) ∧
    (s.forceCloseAt r).berths = s.berths ∧ (s.forceCloseAt r).clock = s.clock := by
  rw [State.forceCloseAt_eq]
  cases h : s.point? r with
  | none => exact ⟨fun q y _ _ hy => ⟨y, hy, rfl⟩, rfl, rfl⟩
  | some x =>
    dsimp only
    by_cases rest : x.state = .off ∨ x.state = .fault
    · rw [if_pos rest]
      exact ⟨fun q y _ _ hy => ⟨y, hy, rfl⟩, rfl, rfl⟩
    · rw [if_neg rest]
      obtain ⟨ses, hs⟩ := Option.ne_none_iff_exists'.mp (mt (law.session_none_iff h).mp rest)
      exact ⟨fun q y hq ne hy => State.point?_closeSession_other h hs hr hq ne hy .unconfirmed .off,
        State.closeSession_quiet h hs hr .unconfirmed .off⟩

/-- Two points with one core stand in OFF and FAULT alike, where the law of points holds of both. -/
theorem PointLaw.rests_of_core {s t : State} (hs : PointLaw s) (ht : PointLaw t) {r : PointRef} {x y : Point} (hx : s.point? r = some x)
    (hy : t.point? r = some y) (core : y.core = x.core) :
    (if y.state = .off ∨ y.state = .fault then y.state else .off) = if x.state = .off ∨ x.state = .fault then x.state else .off := by
  by_cases rest : x.state = .off ∨ x.state = .fault
  · rw [Point.eq_of_core core ((hs.session_none_iff hx).mpr rest)]
  · have session : y.session ≠ none := fun none =>
      rest ((hs.session_none_iff hx).mp ((Point.eq_of_core core.symm none).symm ▸ none))
    rw [if_neg rest, if_neg (mt (ht.session_none_iff hy).mpr session)]

/-- The force-close of the two points of a side, at each of them. -/
theorem State.point?_forceClose_side {s : State} (law : PointLaw s) {a d side : Nat} (hside : side ≤ 1) {r : PointRef} {x : Point}
    (hr : r ∈ sideRefs a d side) (hx : s.point? r = some x) :
    ∃ y, ((sideRefs a d side).foldl State.forceCloseAt s).point? r = some y ∧ y.session = none ∧ y.enables = x.enables ∧
      y.baseline = x.baseline ∧ y.unattributed = x.unattributed ∧
      y.state = if x.state = .off ∨ x.state = .fault then x.state else .off := by
  let power : PointRef := { arm := a, addr := d, side := side, svc := .power }
  let water : PointRef := { arm := a, addr := d, side := side, svc := .water }
  show ∃ y, ((s.forceCloseAt power).forceCloseAt water).point? r = some y ∧ _
  have law1 : PointLaw (s.forceCloseAt power) := law.forceCloseAt power
  have which : r = power ∨ r = water := by simpa [sideRefs] using hr
  rcases which with rfl | rfl
  · obtain ⟨y, hy, session, fields⟩ := State.point?_forceCloseAt law hx hside
    obtain ⟨z, hz, core⟩ := (State.forceCloseAt_frame law1 (r := water) hside).1 power y hside (by simp [power, water]) hy
    rw [Point.eq_of_core core session] at hz
    exact ⟨y, hz, session, fields⟩
  · obtain ⟨y, hy, core⟩ := (State.forceCloseAt_frame law (r := power) hside).1 water x hside (by simp [power, water]) hx
    obtain ⟨z, hz, session, enables, baseline, unattributed, state⟩ := State.point?_forceCloseAt law1 hy hside
    obtain ⟨coreEnables, coreBaseline, coreUnattributed, -⟩ := Point.fields_of_core core
    exact ⟨z, hz, session, enables.trans coreEnables, baseline.trans coreBaseline, unattributed.trans coreUnattributed,
      state.trans (law.rests_of_core law1 hx hy core)⟩

theorem State.forceClose_frame {s : State} (law : PointLaw s) (b : Nat) :
    (s.forceClose b).1.berths = s.berths ∧ (s.forceClose b).1.clock = s.clock := by
  rw [State.forceClose_state]
  obtain none | ⟨a, d, side, hside, two⟩ := s.berthPoints_cases b
  · rw [none]
    exact ⟨rfl, rfl⟩
  · rw [two]
    obtain ⟨-, berths1, clock1⟩ := State.forceCloseAt_frame law (r := { arm := a, addr := d, side := side, svc := .power }) hside
    obtain ⟨-, berths2, clock2⟩ :=
      State.forceCloseAt_frame (law.forceCloseAt _) (r := { arm := a, addr := d, side := side, svc := .water }) hside
    exact ⟨berths2.trans berths1, clock2.trans clock1⟩

theorem State.point?_forceClose {s : State} (law : PointLaw s) {b : Nat} {r : PointRef} {x : Point} (hr : r ∈ s.berthPoints b)
    (hx : s.point? r = some x) :
    ∃ y, (s.forceClose b).1.point? r = some y ∧ y.session = none ∧ y.enables = x.enables ∧ y.baseline = x.baseline ∧
      y.unattributed = x.unattributed ∧ y.state = if x.state = .off ∨ x.state = .fault then x.state else .off := by
  rw [State.forceClose_state]
  obtain none | ⟨a, d, side, hside, two⟩ := s.berthPoints_cases b
  · rw [none] at hr
    cases hr
  · rw [two] at hr ⊢
    exact State.point?_forceClose_side law hside hr hx

theorem PointState.atRest_not_eq : (fun st : PointState => !st.atRest) = fun st => st != .off && st != .fault := by
  funext st
  cases st <;> rfl

theorem expired_iff (now t d : Nat) : expired now t d = true ↔ min (t + d) 4294967295 ≤ now := decide_eq_true_iff

/-- The close of a session as the rounding, the notice, the next state and the cleared detector part (R92, R128). -/
theorem State.closeSession_steps {s : State} {r : PointRef} {x : Point} {ses : Session} (h : s.point? r = some x)
    (hs : x.session = some ses) (hr : r.side ≤ 1) (reason : CloseReason) (next : PointState) (report : Bool) :
    ∃ y z, (s.roundSession r x ses).point? r = some y ∧ y.session = some z ∧ z.cents = ses.rounded.cents ∧ z.residue = 0 ∧
      s.closeSession r reason next report =
        let told := (s.roundSession r x ses).post
          (.sessionClosed r (s.pointBerth r) { z with closeReason := some reason } s.clock reason)
        let left := if report = true then told.changePoint r (y.ended next) else told.changeQuiet r (y.ended next)
        if r.svc = .power then left.setDetector r.arm r.addr r.side Detector.cleared else left := by
  obtain ⟨y, z, hy, hz, core, -⟩ := State.point?_roundSession (ses := ses) h hr
  refine ⟨y, z, hy, hz, (congrArg Session.cents core :), ?_, ?_⟩
  · exact (congrArg Session.residue core :).trans (Session.rounded_residue ses)
  · rw [State.closeSession_eq h hs, State.endSession_eq hy hz, State.pointBerth_roundSession, State.clock_roundSession]
    exact State.clearDetector_eq ..

/-- Settles O9: the timeout forces the points of one side in turn; each close is its four steps, and the orders of its debit leave a point
without a session as it is. -/
theorem departureCloseTimeoutForcesTheDeparture : Obligations.DepartureCloseTimeoutForcesTheDeparture := by
  refine ⟨fun s b => ?timeout, fun s b law => ⟨?fold, ?berths, ?clock, fun r x hr hx => State.point?_forceClose law hr hx⟩,
    fun s r x ses reason next report h hs hr _ =>
      ⟨State.closeSession_steps h hs hr reason next report, State.point?_closeSession h hs hr reason next report⟩⟩
  case timeout =>
    show finishBus (s.departureTimeout b) = _
    simp only [State.departureTimeout, expired_iff, State.forceClose, State.forceClosable, PointState.atRest_not_eq]
    rfl
  case fold =>
    rw [State.forceClose_state]
    exact congrArg (fun step => (s.berthPoints b).foldl step s) (funext fun u => funext fun r => State.forceCloseAt_eq u r)
  case berths => exact (State.forceClose_frame law b).1
  case clock => exact (State.forceClose_frame law b).2

/-! ### Meter faults (R124) -/

theorem State.clock_pointsAtRest (s : State) (b : Nat) : (s.pointsAtRest b).clock = s.clock := by
  unfold State.pointsAtRest
  split <;> rfl

theorem State.clock_reportAtRest (s : State) (r : PointRef) : (s.reportAtRest r).clock = s.clock := by
  unfold State.reportAtRest
  split
  · split
    · exact State.clock_pointsAtRest ..
    · rfl
  · rfl

theorem State.clock_changePoint (s : State) (r : PointRef) (x : Point) : (s.changePoint r x).clock = s.clock := by
  have quiet := (OnlyPosts.changeQuiet s r x).clock
  unfold State.changePoint
  split
  · split
    · rw [State.clock_reportAtRest, quiet]
    · exact quiet
  · rfl

theorem State.clock_closeSession {s : State} {r : PointRef} {x : Point} {ses : Session} (h : s.point? r = some x)
    (hs : x.session = some ses) (hr : r.side ≤ 1) (reason : CloseReason) (next : PointState) (report : Bool) :
    (s.closeSession r reason next report).clock = s.clock := by
  obtain ⟨y, z, hy, hz, -⟩ := State.point?_roundSession (ses := ses) h hr
  rw [State.closeSession_eq h hs, State.endSession_eq hy hz]
  dsimp only
  rw [(OnlyPosts.clearDetector ..).clock]
  split
  · rw [State.clock_changePoint]
    exact State.clock_roundSession ..
  · rw [(OnlyPosts.changeQuiet ..).clock]
    exact State.clock_roundSession ..

/-- A point after the end that a meter fault gives it: its session closed with FAULT, or its record taken to FAULT. -/
def State.faulted (s : State) (r : PointRef) (x : Point) : State :=
  match x.session with
  | some _ => s.closeSession r .fault .fault true
  | none => s.changePoint r { x with state := .fault }

section
variable {s : State} {r : PointRef} {x : Point} (h : s.point? r = some x) (hr : r.side ≤ 1)
include h hr

theorem State.point?_faulted :
    ∃ y, (s.faulted r x).point? r = some y ∧ y.state = .fault ∧ y.session = none ∧ y.enables = x.enables ∧
      y.unattributed = x.unattributed := by
  unfold State.faulted
  cases hs : x.session with
  | some ses =>
    obtain ⟨y, hy, state, session, enables, -, unattributed⟩ := State.point?_closeSession h hs hr .fault .fault true
    exact ⟨y, hy, state, session, enables, unattributed⟩
  | none =>
    refine ⟨_, State.point?_changePoint h _, ?_, ?_, ?_, ?_⟩
    · exact Point.over_state ..
    · exact Point.over_session ..
    · exact Point.over_enables ..
    · exact Point.over_unattributed ..

theorem State.clock_faulted : (s.faulted r x).clock = s.clock := by
  unfold State.faulted
  cases hs : x.session with
  | some ses => exact State.clock_closeSession h hs hr ..
  | none => exact State.clock_changePoint ..

end

theorem State.meterFault_eq {s : State} {r : PointRef} {x y : Point} (h : s.point? r = some x) (hy : (s.faulted r x).point? r = some y)
    (b : Baseline) (n delta elapsed limit : Nat) :
    s.meterFault r b n delta elapsed limit =
      ((s.faulted r x).storePoint r { y with baseline := none }).post (.meterFault r (s.pointBerth r) b n delta elapsed limit) := by
  have stopped : s.meterFault r b n delta elapsed limit =
      (match (s.faulted r x).point? r with
        | some y => (s.faulted r x).storePoint r { y with baseline := none }
        | none => s.faulted r x).post (.meterFault r (s.pointBerth r) b n delta elapsed limit) := by
    rw [State.meterFault, h]
    rfl
  rw [stopped, hy]

/-- Settles O33: the point's end, the baseline removed, and the notice, which the clock of the fault's event stamps. -/
theorem meterFaultEndsTheSession : Obligations.MeterFaultEndsTheSession := by
  intro s r x b n delta elapsed limit h hr
  obtain ⟨y, hy, state, session, enables, unattributed⟩ := State.point?_faulted h hr
  have fault := State.meterFault_eq h hy b n delta elapsed limit
  refine ⟨rfl, ⟨y, hy, fault⟩, ?_, { y with baseline := none }, ?_, state, session, rfl, enables, unattributed⟩
  · have stored := OnlyPosts.storePoint (s.faulted r x) r { y with baseline := none }
    have notices := congr (congrArg (fun (q : NoticeQueue) (now : Nat) => q.post now (.meterFault r (s.pointBerth r) b n delta elapsed limit))
      stored.notices) (stored.clock.trans (State.clock_faulted h hr))
    exact (congrArg State.notices fault).trans notices
  · rw [fault]
    exact State.point?_storePoint hy _

/-! ### The check-out order (R104) -/

/-- A change in turn at each of a list of points, where the change at a point is a function of its record and leaves the others alone, is that
function at each point of the list and leaves every other point alone. -/
theorem State.point?_foldl {step : State → PointRef → State} {g : Point → Point}
    (own : ∀ (s : State) (r : PointRef) (x : Point), s.point? r = some x → (step s r).point? r = some (g x))
    (other : ∀ (s : State) (r q : PointRef), r.side ≤ 1 → q.side ≤ 1 → q ≠ r → (step s r).point? q = s.point? q)
    {rs : List PointRef} (nodup : rs.Nodup) (sides : ∀ r ∈ rs, r.side ≤ 1) (s : State) {q : PointRef} {x : Point} (hq : q.side ≤ 1)
    (h : s.point? q = some x) : (rs.foldl step s).point? q = some (if q ∈ rs then g x else x) := by
  induction rs generalizing s x with
  | nil => simpa using h
  | cons r rs ih =>
    obtain ⟨fresh, distinct⟩ := List.nodup_cons.mp nodup
    have sides' : ∀ r ∈ rs, r.side ≤ 1 := fun k hk => sides k (List.mem_cons_of_mem r hk)
    by_cases e : q = r
    · subst e
      rw [List.foldl_cons, ih distinct sides' _ (own s q x h), if_neg fresh, if_pos List.mem_cons_self]
    · rw [List.foldl_cons, ih distinct sides' _ ((other s r q (sides r List.mem_cons_self) hq e).trans h)]
      simp only [List.mem_cons, e, false_or]

/-- A point that goes to CLOSING with a reason, where it has a session to close (R104). -/
def Point.closingFor (x : Point) (reason : CloseReason) : Point :=
  match x.session with
  | some ses =>
    if x.state.closable = true then
      ({ x with state := .closing, session := some { ses with closeReason := some reason } } : Point).over x
    else x
  | none => x

/-- The check-out order at one point. -/
def State.orderClosed (s : State) (r : PointRef) : State :=
  if s.pointIs r PointState.closable then s.startClosing r .checkout else s

theorem State.checkOutOrder_eq (s : State) (b : Nat) : s.checkOutOrder b = (s.berthPoints b).foldl State.orderClosed s := rfl

theorem State.startClosing_eq {s : State} {r : PointRef} {x : Point} (h : s.point? r = some x) (reason : CloseReason) :
    s.startClosing r reason =
      match x.session with
      | some ses => s.changeQuiet r { x with state := .closing, session := some { ses with closeReason := some reason } }
      | none => s := by
  simp only [State.startClosing, h]
  cases x.session with
  | none => rfl
  | some ses => exact State.changePoint_of_running h rfl

theorem State.startClosing_none {s : State} {r : PointRef} (h : s.point? r = none) (reason : CloseReason) :
    s.startClosing r reason = s := by
  simp only [State.startClosing, h]

theorem State.pointIs_of_point {s : State} {r : PointRef} {x : Point} (h : s.point? r = some x) (p : PointState → Bool) :
    s.pointIs r p = p x.state := by
  simp only [State.pointIs, State.stateOf, h, Option.map_some]

theorem State.point?_orderClosed {s : State} {r : PointRef} {x : Point} (h : s.point? r = some x) :
    (s.orderClosed r).point? r = some (x.closingFor .checkout) := by
  rw [State.orderClosed, State.pointIs_of_point h, State.startClosing_eq h]
  unfold Point.closingFor
  cases hs : x.session with
  | none => simpa using h
  | some ses =>
    dsimp only
    split
    · exact State.point?_changeQuiet h _
    · exact h

theorem OnlyPosts.startClosing (s : State) (r : PointRef) (reason : CloseReason) : OnlyPosts s (s.startClosing r reason) := by
  cases h : s.point? r with
  | none =>
    rw [State.startClosing_none h]
    exact .refl s
  | some x =>
    rw [State.startClosing_eq h]
    split
    · exact .changeQuiet ..
    · exact .refl s

theorem OnlyPosts.orderClosed (s : State) (r : PointRef) : OnlyPosts s (s.orderClosed r) := by
  unfold State.orderClosed
  split
  · exact .startClosing ..
  · exact .refl s

theorem State.point?_orderClosed_other (s : State) (r q : PointRef) (hr : r.side ≤ 1) (hq : q.side ≤ 1) (ne : q ≠ r) :
    (s.orderClosed r).point? q = s.point? q := by
  unfold State.orderClosed
  split
  · cases h : s.point? r with
    | none => rw [State.startClosing_none h]
    | some x =>
      rw [State.startClosing_eq h]
      split
      · exact State.point?_changeQuiet_other _ hr hq ne
      · rfl
  · rfl

theorem OnlyPosts.foldl {step : State → PointRef → State} (h : ∀ s r, OnlyPosts s (step s r)) (rs : List PointRef) (s : State) :
    OnlyPosts s (rs.foldl step s) := by
  induction rs generalizing s with
  | nil => exact .refl s
  | cons r rs ih => exact (h s r).trans (ih _)

theorem OnlyPosts.checkOutOrder (s : State) (b : Nat) : OnlyPosts s (s.checkOutOrder b) := by
  rw [State.checkOutOrder_eq]
  exact .foldl OnlyPosts.orderClosed _ s

theorem State.berthPoints_nodup (s : State) (b : Nat) : (s.berthPoints b).Nodup := by
  obtain none | ⟨a, d, side, -, two⟩ := s.berthPoints_cases b
  · rw [none]
    exact List.nodup_nil
  · rw [two]
    simp [sideRefs]

theorem State.berthPoints_side {s : State} {b : Nat} {r : PointRef} (h : r ∈ s.berthPoints b) : r.side ≤ 1 := by
  obtain none | ⟨a, d, side, hside, two⟩ := s.berthPoints_cases b
  · rw [none] at h
    cases h
  · rw [two] at h
    have which := by simpa [sideRefs] using h
    rcases which with rfl | rfl <;> exact hside

theorem State.point?_checkOutOrder {s : State} (b : Nat) {r : PointRef} {x : Point} (hr : r.side ≤ 1) (h : s.point? r = some x) :
    (s.checkOutOrder b).point? r = some (if r ∈ s.berthPoints b then x.closingFor .checkout else x) := by
  rw [State.checkOutOrder_eq]
  exact State.point?_foldl (fun _ _ _ h => State.point?_orderClosed h) State.point?_orderClosed_other (s.berthPoints_nodup b)
    (fun _ => State.berthPoints_side) s hr h

theorem PointState.closable_iff (q : PointState) :
    q.closable = true ↔ q = .live ∨ q = .starting ∨ q = .suspended ∨ q = .tripped := by
  cases q <;> decide

theorem Point.closingFor_of_closes {x : Point} {ses : Session} (hs : x.session = some ses)
    (hx : x.state = .live ∨ x.state = .starting ∨ x.state = .suspended ∨ x.state = .tripped) (reason : CloseReason) :
    x.closingFor reason = { x with
      state := .closing, session := some { ses with closeReason := some reason }
      unconfirmed := if x.state = .live ∨ x.state = .starting then 0 else x.unconfirmed } := by
  simp only [Point.closingFor, hs, (PointState.closable_iff _).mpr hx, if_true]
  rcases hx with e | e | e | e <;> rw [e] <;> simp [Point.over, PointState.desiredOn, e]

theorem Point.closingFor_of_not {x : Point}
    (hx : ¬ (x.state = .live ∨ x.state = .starting ∨ x.state = .suspended ∨ x.state = .tripped)) (reason : CloseReason) :
    x.closingFor reason = x := by
  unfold Point.closingFor
  split
  · exact if_neg (mt (PointState.closable_iff _).mp hx)
  · rfl

/-! ### CHECK-OUT (R12, R13) -/

theorem State.ratesValid_eq (s : State) : (s.ratesValid = true) = (s.rates.state = .valid) := propext s.ratesValid_iff

theorem State.clock_settleFees (s : State) (b : Nat) : (s.settleFees b).clock = s.clock := by
  unfold State.settleFees
  dsimp only
  split
  · rfl
  · split
    · unfold State.debitNights
      split
      · exact (FundsOnly.debit s _ _ _).clock
      · rfl
    · rfl

theorem PointState.atRest_eq : PointState.atRest = fun st => st == .off || st == .fault := by
  funext st
  cases st <;> rfl

theorem judgeCheckOut_eq (s : State) (b : Nat) :
    judgeCheckOut s b =
      if ¬ (1 ≤ b ∧ b ≤ 200) then refuse s .range
      else if (s.berth b).state = .reserved ∨ (s.berth b).state = .overdue then doneWith (s.setBerth b (s.berth b).freed)
      else if (s.berth b).state = .occupied then s.checkOutOccupied b
      else refuse s .state := by
  simp only [judgeCheckOut, isBerth_false_iff]
  cases (s.berth b).state <;> simp

/-- Settles O7: the request by the state of its berth, the order at each point by the point's record, and the end of a departure. -/
theorem checkOutEndsAReservationOrAStay : Obligations.CheckOutEndsAReservationOrAStay := by
  refine ⟨?request, fun s b => ⟨fun r x ses hr h hs hx => ?closes, fun r x hr h hx => ?others, fun a d => ?rows, ?rest⟩, fun s b n => rfl⟩
  case request =>
    intro s tag b room x account fee unfee settled closing
    have fees : s.frameTaken.settleFees b = settled := by
      simp only [State.settleFees, State.ratesValid_eq]
      rfl
    have order : (s.frameTaken.settleFees b).startDeparture b = closing := by
      rw [State.startDeparture, State.clock_settleFees, fees]
      rfl
    refine (finishBus_takeRequest room 0x13 tag b judgeCheckOut).trans (congrArg _ ?_)
    simp only [judgeCheckOut_eq, Judged.endedBus_ite, Judged.endedBus_refuse, Judged.endedBus_doneWith, State.checkOutOccupied, order,
      Judged.endedBus_answer, State.berthAtRest, PointState.atRest_eq]
    rfl
  case closes =>
    rw [State.point?_checkOutOrder b (State.berthPoints_side hr) h, if_pos hr, Point.closingFor_of_closes hs hx]
  case others =>
    rw [State.point?_checkOutOrder b hr h]
    split
    · rw [Point.closingFor_of_not (hx.resolve_left (not_not_intro ‹_›))]
    · rfl
  case rows => exact ⟨(OnlyPosts.checkOutOrder s b).row a d, (OnlyPosts.checkOutOrder s b).station a d⟩
  case rest => exact (OnlyPosts.checkOutOrder s b).rest

/-! ### The deadline scanner (R20 to R24) -/

section
variable {s : State} {n : Nat} (hn : 1 ≤ n ∧ n ≤ 200)

theorem State.visit_of_vacant (h : (s.berth n).state = .closed ∨ (s.berth n).state = .free ∨ (s.berth n).state = .departing) :
    s.visit n = s := by
  have step : s.visitStep n = s := by
    rcases h with e | e | e <;> simp only [State.visitStep, e]
  have vacant : (s.berth n).state ≠ .occupied := by
    rcases h with e | e | e <;> rw [e] <;> nofun
  rw [State.visit, step]
  exact if_neg vacant

/-- A visit that leaves the berth anything but OCCUPIED ends there. -/
theorem State.visit_of_step {t : State} (step : s.visitStep n = t) (h : (t.berth n).state ≠ .occupied) : s.visit n = t := by
  rw [State.visit, step]
  exact if_neg h

include hn

theorem State.berth_post_setBerth (s : State) (x : Berth) (b : NoticeBody) : ((s.setBerth n x).post b).berth n = x :=
  State.berth_setBerth_self hn x

theorem State.visit_reserved {r : Reservation} (hs : (s.berth n).state = .reserved) (hr : (s.berth n).reservation = some r) :
    s.visit n = s.visitReserved n r := by
  refine State.visit_of_step (by simp only [State.visitStep, hs, hr]) ?_
  unfold State.visitReserved
  dsimp only
  split
  · intro e
    rw [State.berth_post_setBerth hn] at e
    cases e
  · rw [hs]
    nofun

theorem State.visit_overdue {r : Reservation} (hs : (s.berth n).state = .overdue) (hr : (s.berth n).reservation = some r) :
    s.visit n = s.visitOverdue n r := by
  refine State.visit_of_step (by simp only [State.visitStep, hs, hr]) ?_
  unfold State.visitOverdue
  dsimp only
  split
  · intro e
    rw [State.berth_post_setBerth hn] at e
    cases e
  · rw [hs]
    nofun

/-- The first part of a visit of a stay sets at most the berth's overstay flag. -/
theorem State.berth_visitStay (s : State) (r : Reservation) :
    (s.visitStay n r).rates = s.rates ∧ ∃ o, (s.visitStay n r).berth n = { s.berth n with overstay := o } := by
  unfold State.visitStay
  dsimp only
  split
  · split
    · exact ⟨rfl, true, State.berth_setBerth_self hn _⟩
    · exact ⟨rfl, _, rfl⟩
  · exact ⟨rfl, _, rfl⟩

theorem State.visit_occupied {r : Reservation} (hs : (s.berth n).state = .occupied) (hr : (s.berth n).reservation = some r) :
    s.visit n =
      let flagged := s.visitStay n r
      let fee := (s.berth n).feesPending * nightFee s.rateRows (s.berth n).lengthClass
      if 0 < (s.berth n).feesPending ∧ s.rates.state = .valid then
        let paid := if 0 < fee then flagged.debit ((s.berth n).occupant.getD 0) fee .nightFee else flagged
        paid.setBerth n { paid.berth n with feesPending := 0 }
      else flagged := by
  obtain ⟨rates, o, berth⟩ := State.berth_visitStay hn s r
  have step : s.visitStep n = s.visitStay n r := by simp only [State.visitStep, hs, hr]
  have occupied : ((s.visitStay n r).berth n).state = .occupied := by rw [berth]; exact hs
  have rows : (s.visitStay n r).rateRows = s.rateRows := by rw [State.rateRows, rates, State.rateRows]
  rw [State.visit, step]
  dsimp only
  rw [if_pos occupied]
  simp only [State.visitFees, State.ratesValid_eq, State.debitNights, State.clearFees, State.nightsPrice, State.occupantOf, rows, rates,
    berth]

end

theorem nextBerth_eq {p : Nat} (h : p ≤ 200) : nextBerth p = if p = 200 then 1 else p + 1 := by
  unfold nextBerth
  by_cases e : p = 200
  · rw [if_pos e, if_pos (Nat.le_of_eq e.symm)]
  · rw [if_neg e, if_neg (by omega)]

/-- Settles O8: the visit by the state of the berth at the pointer. -/
theorem scannerVisitActsOnOneBerth : Obligations.ScannerVisitActsOnOneBerth := by
  intro s hn n x account after
  have visit : exec .scannerVisit s = .next (after (s.visit n)) := by
    show finishBus { s.visit n with scanPtr := nextBerth n } = _
    rw [nextBerth_eq hn.2]
    rfl
  rw [visit]
  refine ⟨fun h => ?_, fun r hs hr => ?_, fun r hs hr => ?_, fun r hs hr => ?_⟩
  · rw [State.visit_of_vacant h]
  · rw [State.visit_reserved hn hs hr]
    rfl
  · rw [State.visit_overdue hn hs hr]
    rfl
  · rw [State.visit_occupied hn hs hr]
    rfl

end Sys2Proof.Machine

/-! PROOFS. A post's status reply (R93): the current detectors and trips (R137 to R144), the reported states (R95, R96) with the change of a
point's record (R91, R13), and the taps (R10, R100 to R103). The statements O36, O30 and O31. -/

namespace Sys2Proof.Machine

/-! ### Detector parts -/

section
variable {s : State} {a d : Nat} {p : Post} (h : s.post? a d = some p)
include h

theorem State.setDetector_of_post (side : Nat) (x : Detector) : s.setDetector a d side x = s.setPost a d (p.setDet side x) := by
  rw [State.setDetector, h]

theorem State.post?_setDetector (side : Nat) (x : Detector) : (s.setDetector a d side x).post? a d = some (p.setDet side x) := by
  rw [State.setDetector_of_post h, State.post?_setPost_self _ h]

theorem State.markPost_of_post (safety : Bool) : s.markPost a d safety = s.setPost a d (p.setMark safety) := by
  rw [State.markPost, h]

theorem State.post?_markPost (safety : Bool) : (s.markPost a d safety).post? a d = some (p.setMark safety) := by
  rw [State.markPost_of_post h, State.post?_setPost_self _ h]

end

theorem Post.det_setMark (p : Post) (b : Bool) (k : Nat) : (p.setMark b).det k = p.det k := rfl

/-- A mark set by a trip has class SAFETY (R106). -/
theorem Post.setMark_safety (p : Post) : ∃ m, (p.setMark true).mark = some m ∧ m.safety = true ∧ m.setAgain = true :=
  ⟨_, rfl, rfl, rfl⟩

/-! ### Trips (R143, R144) -/

/-- A trip request acts on a point in these states (R143). -/
def Point.tripActs (x : Point) (ses : Session) : Prop :=
  x.state = .live ∨ x.state = .starting ∨ x.state = .suspended ∨ (x.state = .closing ∧ ses.tripCause = none)

/-- The record a trip that acts gives a point (R143). -/
def Point.tripped (x : Point) (ses : Session) (cause : TripCause) (now : Nat) : Point :=
  { x with
    state := if x.state = .closing then .closing else .tripped
    session := some { ses with tripCause := some cause, tripTime := some now } }

theorem Point.tripped_running (x : Point) (ses : Session) (cause : TripCause) (now : Nat) : (x.tripped ses cause now).state.atRest = false := by
  unfold Point.tripped
  dsimp only
  split <;> rfl

/-- The notice of a trip (R143). -/
def State.tripNotice (s : State) (r : PointRef) (x : Point) (ses : Session) (f : TripFigures) : NoticeBody :=
  .trip r.arm r.addr r.side (s.pointBerth r) ses.account f.cause x.state f.raw f.current f.run f.mean s.clock

/-- What a trip request leaves before it clears the run count and the window: the new record, the SAFETY mark and the notice (R143, R144). -/
def State.tripTaken (s : State) (r : PointRef) (x : Point) (ses : Session) (f : TripFigures) : State :=
  ((s.changeQuiet r (x.tripped ses f.cause s.clock)).markPost r.arm r.addr true).post (s.tripNotice r x ses f)

/-- The detector part of a point restarted (R143). -/
def State.restartDetector (s : State) (r : PointRef) : State :=
  s.setDetector r.arm r.addr r.side (s.detector r.arm r.addr r.side).restarted

theorem OnlyPosts.restartDetector (s : State) (r : PointRef) : OnlyPosts s (s.restartDetector r) := .setDetector ..

theorem State.notices_post (s : State) (b : NoticeBody) : (s.post b).notices = s.notices.post s.clock b := rfl

theorem State.post?_restartDetector {s : State} {r : PointRef} {p : Post} (h : s.post? r.arm r.addr = some p) :
    (s.restartDetector r).post? r.arm r.addr = some (p.setDet r.side (p.det r.side).restarted) := by
  rw [State.restartDetector, State.post?_setDetector h, State.detector_of_post h]

theorem State.post?_tripTaken {s : State} {r : PointRef} (x : Point) (ses : Session) (f : TripFigures) {p : Post}
    (hp : s.post? r.arm r.addr = some p) :
    (s.tripTaken r x ses f).post? r.arm r.addr = some ((p.change r.side r.svc (x.tripped ses f.cause s.clock)).setMark true) := by
  have changed : (s.changeQuiet r (x.tripped ses f.cause s.clock)).post? r.arm r.addr =
      some (p.change r.side r.svc (x.tripped ses f.cause s.clock)) := by
    rw [State.changeQuiet_of_post hp, State.post?_setPost_self _ hp]
  exact State.post?_markPost changed true

/-- Before its notice a trip request changes one post. -/
theorem State.tripTaken_frame (s : State) (r : PointRef) (x : Point) (ses : Session) (f : TripFigures) :
    OnlyPosts s { s.tripTaken r x ses f with notices := s.notices } ∧
      (s.tripTaken r x ses f).notices = s.notices.post s.clock (s.tripNotice r x ses f) := by
  have only : OnlyPosts s ((s.changeQuiet r (x.tripped ses f.cause s.clock)).markPost r.arm r.addr true) :=
    (OnlyPosts.changeQuiet s r _).trans (.markPost ..)
  refine ⟨?_, ?_⟩
  · have same : ({ s.tripTaken r x ses f with notices := s.notices } : State) =
        (s.changeQuiet r (x.tripped ses f.cause s.clock)).markPost r.arm r.addr true :=
      (congrArg (fun q => ({ s.tripTaken r x ses f with notices := q } : State)) only.notices.symm :)
    rw [same]
    exact only
  · rw [State.tripTaken, State.notices_post, only.notices, only.clock]

section
variable {s : State} {r : PointRef} {x : Point} {ses : Session} (h : s.point? r = some x) (hs : x.session = some ses) (f : TripFigures)
include h hs

theorem State.trip_of_acts (acts : x.tripActs ses) : s.trip r f = (s.tripTaken r x ses f).restartDetector r := by
  rw [State.tripTaken, ← State.changePoint_of_running h (Point.tripped_running x ses f.cause s.clock)]
  rcases acts with e | e | e | ⟨e, none⟩
  · simp only [State.trip, h, hs, e, Point.tripped]
    rfl
  · simp only [State.trip, h, hs, e, Point.tripped]
    rfl
  · simp only [State.trip, h, hs, e, Point.tripped]
    rfl
  · simp only [State.trip, h, hs, e, none, Point.tripped]
    rfl

theorem State.trip_of_not_acts (acts : ¬ x.tripActs ses) : s.trip r f = s.restartDetector r := by
  obtain ⟨live, starting, suspended, closing⟩ : x.state ≠ .live ∧ x.state ≠ .starting ∧ x.state ≠ .suspended ∧
      (x.state = .closing → ses.tripCause ≠ none) :=
    ⟨fun e => acts (.inl e), fun e => acts (.inr (.inl e)), fun e => acts (.inr (.inr (.inl e))),
      fun e none => acts (.inr (.inr (.inr ⟨e, none⟩)))⟩
  simp only [State.trip, h, hs]
  cases e : x.state with
  | live => exact absurd e live
  | starting => exact absurd e starting
  | suspended => exact absurd e suspended
  | closing => simp only [closing e, if_false]; rfl
  | off => rfl
  | tripped => rfl
  | fault => rfl

end

/-- A point in CLOSING or TRIPPED after a trip that acts, with the cause and the time in its session. -/
theorem State.trip_point {s : State} {r : PointRef} {x : Point} {ses : Session} (h : s.point? r = some x) (hs : x.session = some ses)
    (f : TripFigures) :
    ∃ p q, s.post? r.arm r.addr = some p ∧ (s.trip r f).post? r.arm r.addr = some (q.setDet r.side (p.det r.side).restarted) ∧
      (x.tripActs ses → q = (p.change r.side r.svc (x.tripped ses f.cause s.clock)).setMark true) ∧ (¬ x.tripActs ses → q = p) := by
  obtain ⟨p, hp, rfl⟩ := State.post_of_point h
  refine ⟨p, ?_⟩
  by_cases acts : (p.point r.side r.svc).tripActs ses
  · have taken := State.post?_tripTaken (p.point r.side r.svc) ses f hp
    refine ⟨_, hp, ?_, fun _ => rfl, fun no => absurd acts no⟩
    rw [State.trip_of_acts h hs f acts, State.post?_restartDetector taken, Post.det_setMark, Post.det_change]
  · refine ⟨_, hp, ?_, fun yes => absurd yes acts, fun _ => rfl⟩
    rw [State.trip_of_not_acts h hs f acts, State.post?_restartDetector hp]

theorem State.point?_trip {s : State} {r : PointRef} {x : Point} {ses : Session} (h : s.point? r = some x) (hs : x.session = some ses)
    (f : TripFigures) :
    ∃ y, (s.trip r f).point? r = some y ∧ (x.tripActs ses → y = (x.tripped ses f.cause s.clock).over x) ∧ (¬ x.tripActs ses → y = x) := by
  obtain ⟨p, q, hp, hq, acts, quiet⟩ := State.trip_point h hs f
  have own : p.point r.side r.svc = x := Option.some.inj ((State.point?_of_post hp).symm.trans h)
  refine ⟨q.point r.side r.svc, ?_, fun yes => ?_, fun no => ?_⟩
  · rw [State.point?_of_post hq, Post.point_setDet]
  · rw [acts yes, Post.point_setMark, Post.point_change, own]
  · rw [quiet no, own]

/-- What a trip request leaves for the rest of a sample: the point's berth, the berths and the session's account. -/
theorem State.trip_frame {s : State} {r : PointRef} {x : Point} {ses : Session} (h : s.point? r = some x) (hs : x.session = some ses)
    (f : TripFigures) :
    (s.trip r f).pointBerth r = s.pointBerth r ∧ (s.trip r f).berths = s.berths ∧
      ∃ y z, (s.trip r f).point? r = some y ∧ y.session = some z ∧ z.account = ses.account := by
  obtain ⟨y, hy, moved, same⟩ := State.point?_trip h hs f
  by_cases acts : x.tripActs ses
  · obtain ⟨only, -⟩ := State.tripTaken_frame s r x ses f
    have restart := OnlyPosts.restartDetector (s.tripTaken r x ses f) r
    have session : y.session = (x.tripped ses f.cause s.clock).session := by rw [moved acts, Point.over_session]
    rw [State.trip_of_acts h hs f acts] at hy ⊢
    exact ⟨(restart.pointBerth r).trans (only.pointBerth r), restart.berths.trans only.berths, y, _, hy, session, rfl⟩
  · have restart := OnlyPosts.restartDetector s r
    rw [same acts] at hy
    rw [State.trip_of_not_acts h hs f acts] at hy ⊢
    exact ⟨restart.pointBerth r, restart.berths, x, ses, hy, hs, rfl⟩

/-! ### The detectors (R137 to R141) -/

/-- The rating, as the berth's record gives it (R135). -/
theorem State.rating_eq (s : State) (b : Option Nat) :
    s.rating b = match b with
      | some n => (s.berth n).powerClass.rating
      | none => 0 := rfl

/-- A full window judged, for a point whose session's account and whose berth's record are known (R140, R141). -/
theorem State.judgeWindow_eq {s : State} {r : PointRef} {y : Point} {z : Session} (h : s.point? r = some y) (hz : y.session = some z)
    (raw current mean : Nat) :
    s.judgeWindow r raw current mean =
      let rating := s.rating (s.pointBerth r)
      let d := s.detector r.arm r.addr r.side
      if rating < mean then
        s.trip r { cause := .overload, raw := raw, current := current, run := none, mean := some (mean, rating) }
      else if rating * 9 / 10 < mean then
        if d.latch = true then s
        else
          (s.setDetector r.arm r.addr r.side { d with latch := true }).post
            (.overloadWarn r.arm r.addr r.side (s.pointBerth r) z.account mean (rating * 9 / 10) rating)
      else s.setDetector r.arm r.addr r.side { d with latch := false } := by
  simp only [State.judgeWindow, h, hz, Option.map_some, Option.getD_some, warnLevel]

/-- The short detector requests a trip or stores a run count (R139). -/
theorem State.shortDetector_cases (s : State) (r : PointRef) (raw current fullScale n : Nat) :
    (∃ f, s.shortDetector r raw current fullScale n = s.trip r f) ∨
      ∃ d, s.shortDetector r raw current fullScale n = s.setDetector r.arm r.addr r.side d := by
  rw [State.shortDetector]
  exact (Classical.em _).elim (fun c => .inl ⟨_, if_pos c⟩) (fun c => .inr ⟨_, if_neg c⟩)

/-- What the short detector leaves for the overload detector: the point's berth, the berths and the session's account. -/
theorem State.shortDetector_frame {s : State} {r : PointRef} {x : Point} {ses : Session} (h : s.point? r = some x)
    (hs : x.session = some ses) (raw current fullScale n : Nat) :
    (s.shortDetector r raw current fullScale n).pointBerth r = s.pointBerth r ∧
      (s.shortDetector r raw current fullScale n).berths = s.berths ∧
      ∃ y z, (s.shortDetector r raw current fullScale n).point? r = some y ∧ y.session = some z ∧ z.account = ses.account := by
  obtain ⟨f, e⟩ | ⟨d, e⟩ := s.shortDetector_cases r raw current fullScale n
  · rw [e]
    exact State.trip_frame h hs f
  · have only := OnlyPosts.setDetector s r.arm r.addr r.side d
    rw [e]
    exact ⟨only.pointBerth r, only.berths, x, ses, (State.point?_setDetector ..).trans h, hs, rfl⟩

theorem State.berth_of_berths {s t : State} (h : t.berths = s.berths) (n : Nat) : t.berth n = s.berth n := by
  rw [State.berth, State.berth, h]

theorem State.rating_of_berths {s t : State} (h : t.berths = s.berths) (b : Option Nat) : t.rating b = s.rating b := by
  cases b with
  | none => rfl
  | some n => rw [State.rating, State.rating, State.berth_of_berths h]

section
variable {s : State} {a d side : Nat} {x : Point} {b0 b1 : Option Nat} {offset shift fullScale n w : Nat}
  (row : s.row a d = .post b0 b1 offset shift fullScale n w)
  (h : s.point? { arm := a, addr := d, side := side, svc := .power } = some x)
include row h

theorem State.takeSample_idle (hs : x.session = none) (raw : Nat) :
    s.takeSample a d side raw = s.setDetector a d side { (s.detector a d side).restarted with last := none } := by
  simp only [State.takeSample, row, h, hs]

theorem State.takeSample_session {ses : Session} (hs : x.session = some ses) (raw : Nat) :
    let r : PointRef := { arm := a, addr := d, side := side, svc := .power }
    let current := convertSample raw offset shift
    s.takeSample a d side raw =
      ((s.recordCurrent r x ses current).shortDetector r raw current fullScale n).overloadDetector r raw current w := by
  simp only [State.takeSample, row, h, hs]

end

/-- Settles O36: a sample is the two detectors in turn, each with the part the other left, and a trip is the record, the mark and the notice
where it acts. -/
theorem tripTakesThePointOut : Obligations.TripTakesThePointOut := by
  refine ⟨fun s a addr side raw b0 b1 offset shift fullScale n w x => ?sample, fun s r x ses f h hs hr hsvc => ?trip⟩
  case sample =>
    intro r part put row h hside
    refine ⟨fun none => State.takeSample_idle row h none raw, fun ses hs => ?_⟩
    intro current stored recorded run short d mean rating judged
    have recordedAt : s.recordCurrent r x ses current = recorded := rfl
    have shortAt : recorded.shortDetector r raw current fullScale n = short := rfl
    have only : OnlyPosts s recorded := (OnlyPosts.storePoint s r _).trans (.setDetector ..)
    have point : recorded.point? r = some { x with session := some { ses with peak := max ses.peak current } } :=
      (State.point?_setDetector ..).trans (State.point?_storePoint h _)
    obtain ⟨berth, berths, y, z, hy, hz, account⟩ := State.shortDetector_frame point rfl raw current fullScale n
    rw [shortAt] at berth berths hy
    have rated : short.rating (short.pointBerth r) = rating := by
      rw [berth, only.pointBerth r]
      exact State.rating_of_berths (berths.trans only.berths) _
    have judgedAt : short.judgeWindow r raw current mean = judged := by
      rw [State.judgeWindow_eq hy hz, rated, berth, only.pointBerth r, account]
    have sample : s.takeSample a addr side raw = short.overloadDetector r raw current w := State.takeSample_session row h hs raw
    rw [sample, State.overloadDetector]
    dsimp only
    rw [judgedAt]
  case trip =>
    obtain ⟨p, q, hp, hq, acts, quiet⟩ := State.trip_point h hs f
    have detector : s.detector r.arm r.addr r.side = p.det r.side := State.detector_of_post hp _
    intro tripActs marked told d
    refine ⟨?detector, fun yes => ⟨?point, ?mark, ?notice, rfl⟩, fun no => ⟨?same, ?silent⟩⟩
    case detector =>
      rw [State.detector_of_post hq, Post.det_setDet]
      exact congrArg Detector.restarted detector.symm
    case point =>
      obtain ⟨y, hy, moved, -⟩ := State.point?_trip h hs f
      refine ⟨y, hy, ?_, ?_⟩
      · rw [moved yes, Point.over_session]
        rfl
      · rw [moved yes, Point.over_state]
        rfl
    case mark =>
      obtain ⟨m, hm, safety, again⟩ := Post.setMark_safety (p.change r.side r.svc (x.tripped ses f.cause s.clock))
      refine ⟨_, m, hq, ?_, safety, again⟩
      rw [Post.mark_setDet, acts yes, hm]
    case notice =>
      obtain ⟨-, notices⟩ := State.tripTaken_frame s r x ses f
      rw [State.trip_of_acts h hs f yes, (OnlyPosts.restartDetector ..).notices, notices]
      rfl
    case same =>
      obtain ⟨y, hy, -, same⟩ := State.point?_trip h hs f
      rw [hy, same no]
    case silent =>
      rw [State.trip_of_not_acts h hs f no, (OnlyPosts.restartDetector ..).notices]

/-! ### Reported states (R95, R96) -/

theorem State.takeReported_eq (s : State) (r : PointRef) (on settled : Bool) (before : Option PointState) :
    s.takeReported r on settled before =
      if settled = true ∧ s.stateOf r = before then (s.confirm r on).judgeSettled r on else s.confirm r on := by
  simp only [State.takeReported, Bool.and_eq_true, beq_iff_eq]

theorem State.settledAt_eq (s : State) (a d : Nat) : s.settledAt a d = (s.post? a d).all (fun p => p.mark.isNone) := by
  unfold State.settledAt
  cases s.post? a d <;> rfl

theorem ite_third (n : Nat) {α : Type} (x y : α) : (if 3 ≤ n + 1 then x else y) = if n < 2 then y else x := by
  by_cases few : n < 2
  · rw [if_neg (by omega), if_pos few]
  · rw [if_pos (by omega), if_neg few]

section
variable {s : State} {r : PointRef} {x : Point} (h : s.point? r = some x)
include h

theorem State.confirm_on :
    s.confirm r true = if x.state = .starting then s.changePoint r { x with state := .live, unconfirmed := 0 } else s := by
  simp only [State.confirm, h]
  cases x.state <;> rfl

theorem State.confirm_off {ses : Session} (hs : x.session = some ses) :
    s.confirm r false = if x.state = .closing then s.closeSession r (ses.closeReason.getD .unconfirmed) .off true else s := by
  simp only [State.confirm, h, hs]
  cases x.state <;> rfl

theorem State.judgeSettled_agrees {on : Bool} (agrees : x.state.desiredOn = on) :
    s.judgeSettled r on = s.storePoint r { x with unconfirmed := 0 } := by
  simp only [State.judgeSettled, h, agrees, if_true]

theorem State.judgeSettled_starting (hx : x.state = .starting) :
    s.judgeSettled r false =
      if x.unconfirmed < 2 then s.storePoint r { x with unconfirmed := x.unconfirmed + 1 }
      else (s.closeSession r .unconfirmed .off true).post (.startFailed r (s.pointBerth r) ((x.session.map (·.account)).getD 0)) := by
  simp only [State.judgeSettled, h, hx, PointState.desiredOn, Bool.true_eq_false, if_false]
  exact ite_third ..

theorem State.judgeSettled_live (hx : x.state = .live) :
    s.judgeSettled r false =
      ((s.changePoint r { x with state := .starting, unconfirmed := 0 }).markPost r.arm r.addr false).post
        (.supplyDropped r (s.pointBerth r) ((x.session.map (·.account)).getD 0)) := by
  simp only [State.judgeSettled, h, hx, PointState.desiredOn, Bool.true_eq_false, if_false]

theorem State.judgeSettled_cut (hx : x.state.desiredOn = false) :
    s.judgeSettled r true =
      if x.unconfirmed < 2 then s.storePoint r { x with unconfirmed := x.unconfirmed + 1 }
      else
        ((s.storePoint r { x with unconfirmed := 0 }).markPost r.arm r.addr false).post (.cutUnconfirmed r (s.pointBerth r) x.state) := by
  simp only [State.judgeSettled, h, hx, Bool.false_eq_true, if_false]
  cases e : x.state with
  | starting => rw [e] at hx; cases hx
  | live => rw [e] at hx; cases hx
  | off => exact ite_third ..
  | closing => exact ite_third ..
  | suspended => exact ite_third ..
  | tripped => exact ite_third ..
  | fault => exact ite_third ..

end

/-! ### A change of a point's record and the departure it completes (R91, R13) -/

/-- Every point of a side of a post stands in OFF or FAULT (R91). -/
def Post.SideRests (p : Post) (side : Nat) : Prop :=
  ((p.point side .power).state = .off ∨ (p.point side .power).state = .fault) ∧
    ((p.point side .water).state = .off ∨ (p.point side .water).state = .fault)

theorem State.sideAtRest_iff {s : State} {a d side : Nat} {p : Post} (h : s.post? a d = some p) :
    s.sideAtRest a d side = true ↔ p.SideRests side := by
  simp only [State.sideAtRest, h, Bool.and_eq_true, PointState.atRest_iff, Post.SideRests]

/-- The report of R91 completes the departure of the point's berth where the side has come to rest, and does nothing else (R13). -/
theorem State.reportAtRest_cases {s : State} {r : PointRef} {p : Post} (h : s.post? r.arm r.addr = some p) :
    (∀ b, p.SideRests r.side → s.pointBerth r = some b → (s.berth b).state = .departing → s.reportAtRest r = s.endDeparture b 0) ∧
      ((∀ b, p.SideRests r.side → s.pointBerth r = some b → (s.berth b).state ≠ .departing) → s.reportAtRest r = s) := by
  refine ⟨fun b rests berth departing => ?_, fun otherwise => ?_⟩
  · simp only [State.reportAtRest, berth, (State.sideAtRest_iff h).mpr rests, if_true, State.pointsAtRest, departing]
  · cases berth : s.pointBerth r with
    | none => simp only [State.reportAtRest, berth]
    | some b =>
      simp only [State.reportAtRest, berth]
      split
      case isTrue rests => exact if_neg (otherwise b ((State.sideAtRest_iff h).mp rests) berth)
      case isFalse => rfl

/-- A change of record is the change of its post, with the report of R91 where the point enters OFF or FAULT. -/
theorem State.changePoint_of_post {s : State} {r : PointRef} {p : Post} (h : s.post? r.arm r.addr = some p) (x : Point) :
    s.changePoint r x =
      if (x.state = .off ∨ x.state = .fault) ∧ (p.point r.side r.svc).state ≠ x.state then
        (s.setPost r.arm r.addr (p.change r.side r.svc x)).reportAtRest r
      else s.setPost r.arm r.addr (p.change r.side r.svc x) := by
  simp only [State.changePoint, State.point?_of_post h, State.changeQuiet_of_post h, Bool.and_eq_true, PointState.atRest_iff, bne_iff_ne]

/-- Settles O30: the reply's steps, the change of one post with the departure it can complete, and the judgement of a reported state by the
point's state and count. -/
theorem reportedStatesConfirmOrCount : Obligations.ReportedStatesConfirmOrCount := by
  refine ⟨fun s a d st => ?reply, fun s r p x h hr => ?change, fun s r x h => ?reported⟩
  case reply =>
    intro r read sampled settled report reported
    have step (t : State) (q : PointRef) (on : Bool) :
        t.takeReported q on (sampled.settledAt a d) (sampled.stateOf q) = report t q on := by
      rw [State.takeReported_eq, State.settledAt_eq]
    have reports : sampled.takeReports a d st = reported := by
      show State.takeReported (State.takeReported (State.takeReported (State.takeReported ..) ..) ..) .. = _
      rw [step, step, step, step]
    have whole : s.postStatus a d st =
        match st.read with
        | some (card, side) => (sampled.takeReports a d st).tap a d side card
        | none => sampled.takeReports a d st := rfl
    rw [whole, reports] <;> rfl
  case change =>
    intro rests q changed last
    have post : changed.post? r.arm r.addr = some q := State.post?_setPost_self q h
    have only : OnlyPosts s changed := .setPost ..
    obtain ⟨departs, stays⟩ := State.reportAtRest_cases post
    rw [State.changePoint_of_post h]
    refine ⟨fun b ⟨enters, moved, side⟩ berth departing => ?_, fun otherwise => ?_⟩
    · rw [if_pos ⟨enters, moved⟩, departs b side (by rw [only.pointBerth, berth]) (by rw [only.berth, departing])]
      rfl
    · split
      case isTrue entered =>
        refine stays fun b side berth => ?_
        rw [only.pointBerth] at berth
        rw [only.berth]
        exact otherwise b ⟨entered.1, entered.2, side⟩ berth
      case isFalse => rfl
  case reported =>
    refine ⟨State.confirm_on h, fun ses hs => State.confirm_off h hs, fun on => State.judgeSettled_agrees h ?_, fun off => ?_,
      State.judgeSettled_starting h, State.judgeSettled_live h⟩
    · exact (PointState.desiredOn_iff _).mpr on
    · have desired : x.state.desiredOn = false := Bool.eq_false_iff.mpr (mt (PointState.desiredOn_iff _).mp off)
      exact ⟨State.judgeSettled_agrees h desired, State.judgeSettled_cut h desired⟩

/-! ### Taps (R10, R100 to R103) -/

theorem CredRow.within_iff (row : CredRow) (now : Nat) :
    row.within now = true ↔ ∀ w, row.window = some w → w.1 ≤ now ∧ now < w.2 := by
  unfold CredRow.within
  cases row.window with
  | none => simp
  | some w => simp

/-- A tap at a side sends the arrival of the berth's CREW card within its window, which an awaited berth with auto-arrival takes (R7, R10). -/
def State.TapArrives (s : State) (b : Option Nat) (row : Option CredRow) (n : Nat) : Prop :=
  b = some n ∧ (∃ q, row = some q ∧ q.kind = .crew ∧ q.berth = some n ∧ (∀ w, q.window = some w → w.1 ≤ s.clock ∧ s.clock < w.2)) ∧
    (s.berth n).autoArrival = true ∧ ((s.berth n).state = .reserved ∨ (s.berth n).state = .overdue)

theorem State.autoArrive_eq (s : State) (n : Nat) (src : ArrivalSource) (card : Card) :
    s.autoArrive n src card =
      if (s.berth n).autoArrival = true ∧ ((s.berth n).state = .reserved ∨ (s.berth n).state = .overdue) then
        (s.setBerth n { s.berth n with state := .occupied, arrival := some s.clock }).post
          (.arrived n ((s.berth n).occupant.getD 0) src (some card) (s.berth n).overdueSent)
      else s := by
  rw [State.autoArrive, State.arrive]
  by_cases auto : (s.berth n).autoArrival = true
  · simp only [auto, if_true, true_and, BerthState.isAwaited_iff]
  · rw [if_neg auto, if_neg fun w => auto w.1]

theorem State.tapArrival_eq (s : State) (a d side : Nat) (card : Card) (ans : MatchAnswer) :
    (∀ n, s.TapArrives (s.sideBerth a d side) ans.row? n →
      s.tapArrival a d side card ans = (s.setBerth n { s.berth n with state := .occupied, arrival := some s.clock }).post
        (.arrived n ((s.berth n).occupant.getD 0) .post (some card) (s.berth n).overdueSent)) ∧
    ((∀ n, ¬ s.TapArrives (s.sideBerth a d side) ans.row? n) → s.tapArrival a d side card ans = s) := by
  refine ⟨fun n ⟨berth, ⟨row, hit, kind, named, window⟩, takes⟩ => ?_, fun never => ?_⟩
  · obtain ⟨k, rfl⟩ : ∃ k, ans = .hit k row := by
      cases ans with
      | hit k q => exact ⟨k, congrArg _ (Option.some.inj hit)⟩
      | unknown => cases hit
      | table => cases hit
    simp only [State.tapArrival, berth]
    rw [if_pos ⟨kind, named, (CredRow.within_iff _ _).mpr window⟩, State.autoArrive_eq, if_pos takes]
  · cases ans with
    | unknown => rfl
    | table => rfl
    | hit k row =>
      cases berth : s.sideBerth a d side with
      | none => simp only [State.tapArrival, berth]
      | some n =>
        simp only [State.tapArrival, berth]
        split
        case isTrue own =>
          obtain ⟨kind, named, within⟩ := own
          rw [State.autoArrive_eq, if_neg fun takes =>
            never n ⟨berth, ⟨row, rfl, kind, named, (CredRow.within_iff _ _).mp within⟩, takes⟩]
        case isFalse => rfl

/-- A tap that is a start, once its points are known: the first refusal, or the opened sessions (R103). -/
def State.tapStart (s : State) (rs : List PointRef) (b : Option Nat) (card : Card) : State × TapOutcome :=
  match s.startRefusal rs b with
  | some reason => (s, .refused reason)
  | none =>
    ((s.startable rs b).foldl (fun t r => t.openSession r (s.occupantOf b) (some card)) s, .started ((s.startable rs b).map (·.svc)))

theorem State.tapStart_eq (s : State) (rs : List PointRef) (b : Option Nat) (card : Card) :
    let account := (b.bind (fun n => (s.berth n).occupant)).getD 0
    let opens (r : PointRef) : Bool := s.provisioned b r.svc && s.pointIs r (fun st => st == .off)
    s.tapStart rs b card =
      if ¬ (∃ n, b = some n ∧ (s.berth n).state = .occupied) then (s, .refused .berth)
      else if rs.any opens = false then (s, .refused .nothing)
      else if s.rates.state ≠ .valid then (s, .refused .rates)
      else if ¬ ((s.account account).standing = .good ∨ (s.account account).standing = .low) ∨
          (s.account account).available < startMinimum s.rateRows then (s, .refused .credit)
      else
        ((rs.filter opens).foldl (fun t r => t.openSession r account (some card)) s, .started ((rs.filter opens).map (·.svc))) := by
  intro account opens
  have occupant : s.occupantOf b = account := State.occupantOf_eq s b
  have refusal : s.startRefusal rs b =
      if ¬ (∃ n, b = some n ∧ (s.berth n).state = .occupied) then some .berth
      else if rs.any opens = false then some .nothing
      else if s.rates.state ≠ .valid then some .rates
      else if ¬ ((s.account account).standing = .good ∨ (s.account account).standing = .low) ∨
          (s.account account).available < startMinimum s.rateRows then some .credit
      else none := by
    simp only [State.startRefusal, ← State.occupied_iff, ← State.inFunds_iff, ← State.ratesValid_iff, Bool.not_eq_true, ne_eq, ← occupant]
    rfl
  rw [State.tapStart, refusal, occupant]
  by_cases occupied : ¬ (∃ n, b = some n ∧ (s.berth n).state = .occupied)
  · rw [if_pos occupied, if_pos occupied]
  · rw [if_neg occupied, if_neg occupied]
    by_cases nothing : rs.any opens = false
    · rw [if_pos nothing, if_pos nothing]
    · rw [if_neg nothing, if_neg nothing]
      by_cases rates : s.rates.state ≠ .valid
      · rw [if_pos rates, if_pos rates]
      · rw [if_neg rates, if_neg rates]
        by_cases credit : ¬ ((s.account account).standing = .good ∨ (s.account account).standing = .low) ∨
            (s.account account).available < startMinimum s.rateRows
        · rw [if_pos credit, if_pos credit]
        · rw [if_neg credit, if_neg credit]
          rfl

theorem State.judgeTap_hit (s : State) (a d side : Nat) (card : Card) (n : Nat) (row : CredRow) :
    let b := s.sideBerth a d side
    let rs := sideRefs a d side
    let drawing (r : PointRef) : Bool := s.pointIs r (fun st => st == .starting || st == .live)
    let atRest (r : PointRef) : Bool := s.pointIs r (fun st => st == .off || st == .fault)
    s.judgeTap a d side card (.hit n row) =
      if ¬ ((∀ w, row.window = some w → w.1 ≤ s.clock ∧ s.clock < w.2) ∧
          (row.kind = .staff ∨ (row.kind = .crew ∧ row.berth ≠ none ∧ row.berth = b))) then (s, .refused .ineligible)
      else if b = none then (s, .refused .berth)
      else if rs.any drawing = true then
        ((rs.filter drawing).foldl (fun t r => t.startClosing r .tap) s, .stopped ((rs.filter drawing).map (·.svc)))
      else if rs.all atRest = true then s.tapStart rs b card
      else
        match s.tryReleases rs .tap with
        | (_, []) => (s, .refused .held)
        | (t, pts) => (t, .released pts) := by
  have on : PointState.desiredOn = fun st => st == .starting || st == .live := funext PointState.desiredOn_eq
  simp only [State.judgeTap, on, PointState.atRest_eq, CredRow.within_iff, Option.isSome_iff_ne_none] <;> rfl

/-- Settles O31: the arrival by the card's row and the berth, then the tap by the checks in their order. -/
theorem tapsStopReleaseOrStart : Obligations.TapsStopReleaseOrStart := by
  refine ⟨fun s a d side card => ?tap, fun s a d side card => ⟨rfl, rfl, fun n row => ?judged⟩⟩
  case tap =>
    intro ans row b arrives
    have same : row = ans.row? := by
      show (match ans with
        | .hit _ row => some row
        | _ => none) = _
      cases ans <;> rfl
    obtain ⟨arrived, stays⟩ := s.tapArrival_eq a d side card ans
    refine ⟨s.tapArrival a d side card ans, fun n h => arrived n (same ▸ h), fun h => stays fun n => same ▸ h n, ?_⟩
    intro told
    rfl
  case judged =>
    intro b rs account drawing atRest opens
    have hit := s.judgeTap_hit a d side card n row
    dsimp only at hit
    rw [State.tapStart_eq] at hit
    exact hit

end Sys2Proof.Machine

/-! PROOFS. The Gate Controller (chapter 4): the entry checks (R69, R70), reads, the exit button and door reports (R67 to R73, R78), modes and
tracking (R66, R81), grants and removals (R84, R85), and the two expiries (R79). The statements O24, O20, O21, O22 and O23. -/

namespace Sys2Proof.Machine

/-! ### Tracking and presence -/

theorem State.tracks_false_iff (s : State) (p : Nat) : s.tracks p = false ↔ (s.pontoon p).tracking = .suspended := by
  unfold State.tracks
  cases (s.pontoon p).tracking <;> decide

theorem State.tracks_iff (s : State) (p : Nat) : s.tracks p = true ↔ (s.pontoon p).tracking = .on := by
  unfold State.tracks
  cases (s.pontoon p).tracking <;> decide

/-- The record outcome of a granted IN read (the table of R70). -/
theorem State.inOutcome_eq (s : State) (p : Nat) (c : Card) :
    s.inOutcome p c =
      if (s.pontoon p).tracking = .suspended then .frozen
      else
        match s.presenceOf c with
        | none => .added
        | some q => if (s.pontoon q.pontoon).tracking = .suspended then .frozen else .moved := by
  simp only [State.inOutcome, State.tracks_false_iff] <;> rfl

theorem State.presenceIn_eq (s : State) (p : Nat) (c : Card) :
    s.presenceIn p c =
      if (s.pontoon p).tracking = .suspended then s.presence
      else
        match s.presenceOf c with
        | none => s.presence ++ [{ card := c, pontoon := p, entry := s.clock }]
        | some q =>
          if (s.pontoon q.pontoon).tracking = .suspended then s.presence
          else withoutCard s.presence c ++ [{ card := c, pontoon := p, entry := s.clock }] := by
  rw [State.presenceIn, State.inOutcome_eq]
  by_cases frozen : (s.pontoon p).tracking = .suspended
  · rw [if_pos frozen, if_pos frozen]
  · rw [if_neg frozen, if_neg frozen]
    cases s.presenceOf c with
    | none => rfl
    | some q =>
      dsimp only
      by_cases there : (s.pontoon q.pontoon).tracking = .suspended
      · rw [if_pos there, if_pos there]
      · rw [if_neg there, if_neg there]

/-- A grant that moves a record finds one. -/
theorem State.record_of_moved {s : State} {p : Nat} {c : Card} (h : s.inOutcome p c = .moved) : ∃ r, s.presenceOf c = some r := by
  rw [State.inOutcome] at h
  cases hr : s.presenceOf c with
  | some r => exact ⟨r, rfl⟩
  | none =>
    rw [hr] at h
    split at h <;> cases h

/-- Elements with one image, where no image occurs twice, are one. -/
theorem eq_of_nodup_map {α β : Type} {f : α → β} {l : List α} (nodup : (l.map f).Nodup) {x y : α} (hx : x ∈ l) (hy : y ∈ l)
    (same : f x = f y) : x = y := by
  induction l with
  | nil => cases hx
  | cons z l ih =>
    obtain ⟨fresh, nodup⟩ := List.nodup_cons.mp nodup
    obtain first | mx := List.mem_cons.mp hx
    · obtain other | my := List.mem_cons.mp hy
      · exact first.trans other.symm
      · exact (fresh (List.mem_map.mpr ⟨y, my, same.symm.trans (congrArg f first)⟩)).elim
    · obtain other | my := List.mem_cons.mp hy
      · exact (fresh (List.mem_map.mpr ⟨x, mx, same.trans (congrArg f other)⟩)).elim
      · exact ih nodup mx my

/-- Removing a card's record leaves the count of every pontoon it does not name. -/
theorem withoutCard_countP_other {l : List Presence} {r : Presence} (nodup : (l.map (·.card)).Nodup) (h : r ∈ l) {p : Nat}
    (ne : r.pontoon ≠ p) : (withoutCard l r.card).countP (fun x => x.pontoon == p) = l.countP (fun x => x.pontoon == p) := by
  rw [withoutCard, List.countP_filter]
  refine List.countP_congr fun x hx => ?_
  have other : x.pontoon = p → x.card ≠ r.card := fun e same => ne (eq_of_nodup_map nodup hx h same ▸ e)
  simpa using other

/-! ### The entry checks (R69) -/

/-- Check 8 of R69: the list that the grant would leave breaks the pontoon's limit exactly where it adds a record beyond it. -/
theorem PresenceLaw.full_iff {s : State} (law : PresenceLaw s) {p : Nat} (hp : p < 6) (c : Card) :
    (s.addsTo p c = true ∧ (s.pontoon p).limit < s.count p + 1) ↔
      ¬ (s.presenceIn p c).countP (fun q => q.pontoon == p) ≤ (s.pontoon p).limit := by
  obtain ⟨-, nodup, limits⟩ := law
  have within : s.presence.countP (fun q => q.pontoon == p) ≤ (s.pontoon p).limit := limits p hp
  rw [State.presenceIn, State.addsTo]
  cases ho : s.inOutcome p c with
  | added => simp [State.count]
  | moved =>
    obtain ⟨r, hr⟩ := State.record_of_moved ho
    obtain ⟨mem, rfl⟩ := State.presenceOf_some hr
    by_cases own : r.pontoon = p
    · have fewer := withoutCard_countP_lt mem
      subst own
      simp [hr]
      omega
    · have same := withoutCard_countP_other nodup mem own
      simp [hr, own, same, State.count]
  | frozen => simpa using within
  | none => simpa using within
  | removed => simpa using within
  | crossed => simpa using within

/-- Check 9 of R69: the list that the grant would leave exceeds 256 records exactly where it adds one to a full list. -/
theorem PresenceLaw.listFull_iff {s : State} (law : PresenceLaw s) (p : Nat) (c : Card) :
    (s.inOutcome p c = .added ∧ 256 < s.presence.length + 1) ↔ ¬ (s.presenceIn p c).length ≤ 256 := by
  obtain ⟨within, -, -⟩ := law
  rw [State.presenceIn]
  cases ho : s.inOutcome p c with
  | added =>
    simp only [true_and, List.length_append, List.length_cons, List.length_nil]
    omega
  | moved =>
    obtain ⟨r, hr⟩ := State.record_of_moved ho
    obtain ⟨mem, rfl⟩ := State.presenceOf_some hr
    have fewer := withoutCard_length mem
    simp
    omega
  | frozen => simpa using within
  | none => simpa using within
  | removed => simpa using within
  | crossed => simpa using within

/-- The checks 3 to 9 of R69 in their order, each with the reason it gives. -/
def State.entryChecks (s : State) (p : Nat) (c : Card) (row : CredRow) : List (Bool × Denial) :=
  let bound : Bool := row.kind == .crew || row.kind == .guest
  [(row.window.all (fun w => decide (w.1 ≤ s.clock ∧ s.clock < w.2)), .time),
    (row.pontoons.testBit p, .pontoon),
    (!bound || row.berth.any (fun b => (s.boundSide b).any (fun d => d.arm == p) &&
      decide ((s.berth b).state ≠ .free ∧ (s.berth b).state ≠ .closed)), .berth),
    (!bound || (s.account ((row.berth.bind (fun b => (s.berth b).occupant)).getD 0)).standing != .barred, .barred),
    (!row.antiPassback || (s.presence.all (fun q => q.card != c)), .passback),
    (decide ((s.presenceIn p c).countP (fun q => q.pontoon == p) ≤ (s.pontoon p).limit), .full),
    (decide ((s.presenceIn p c).length ≤ 256), .listFull)]

theorem CredKind.hasBerth_eq (k : CredKind) : k.hasBerth = (k == .crew || k == .guest) := by
  cases k <;> rfl

theorem BerthState.isHeld_eq (q : BerthState) : q.isHeld = decide (q ≠ .free ∧ q ≠ .closed) := by
  cases q <;> rfl

theorem State.berthAdmits_eq (s : State) (p : Nat) (b : Option Nat) :
    s.berthAdmits p b = b.any (fun n => (s.boundSide n).any (fun d => d.arm == p) &&
      decide ((s.berth n).state ≠ .free ∧ (s.berth n).state ≠ .closed)) := by
  cases b with
  | none => rfl
  | some n => simp only [State.berthAdmits, BerthState.isHeld_eq, Option.any_some]

theorem State.presenceOf_isSome (s : State) (c : Card) :
    (s.presenceOf c).isSome = !s.presence.all (fun q => q.card != c) := by
  rw [State.presenceOf, Bool.eq_iff_iff]
  simp [List.find?_isSome]

theorem CredRow.within_eq (row : CredRow) (now : Nat) : row.within now = row.window.all (fun w => decide (w.1 ≤ now ∧ now < w.2)) := by
  unfold CredRow.within
  cases row.window <;> rfl

/-- A step of a chain of checks, whichever way round its branches stand. -/
theorem ite_failure {α : Type} {fails : Prop} [Decidable fails] {passes : Bool} {e x y : α} (h : fails ↔ ¬ passes = true) (rest : x = y) :
    (if fails then e else x) = if passes = true then y else e := by
  by_cases f : fails
  · rw [if_pos f, if_neg (h.mp f)]
  · rw [if_neg f, if_pos (Classical.not_not.mp (mt h.mpr f)), rest]

theorem State.occupantBarred_iff (s : State) (b : Option Nat) :
    s.occupantBarred b = true ↔ ((s.account ((b.bind (fun n => (s.berth n).occupant)).getD 0)).standing != .barred) = false := by
  rw [State.occupantBarred, State.occupantOf_eq, bne, Bool.not_eq_false']

/-- A check that only some rows undergo. -/
theorem guardedCheck_fails (undergoes passes : Bool) : undergoes = true ∧ passes = false ↔ ¬ (!undergoes || passes) = true := by
  cases undergoes <;> cases passes <;> decide

/-- The first failing check of an IN read with a matched row, the last two on the list that the grant would leave (R69). -/
theorem PresenceLaw.entryDenial_eq {s : State} (law : PresenceLaw s) {p : Nat} (hp : p < 6) (c : Card) (r : Nat) (row : CredRow) :
    s.entryDenial p c (.hit r row) = ((s.entryChecks p c row).find? (fun k => !k.1)).map Prod.snd := by
  simp only [State.entryChecks, firstFailure_cons, State.entryDenial]
  refine ite_failure ?time (ite_failure ?pontoon (ite_failure ?berth (ite_failure ?barred (ite_failure ?passback
    (ite_failure ?full (ite_failure ?listFull rfl))))))
  case time => rw [CredRow.within_eq, Bool.not_eq_true]
  case pontoon => exact (Bool.not_eq_true _).symm ▸ Iff.rfl
  case berth =>
    rw [State.berthAdmits_eq, CredKind.hasBerth_eq]
    exact guardedCheck_fails ..
  case barred =>
    rw [State.occupantBarred_iff, CredKind.hasBerth_eq]
    exact guardedCheck_fails ..
  case passback =>
    rw [State.presenceOf_isSome, Bool.not_eq_true']
    exact guardedCheck_fails ..
  case full => rw [law.full_iff hp, decide_eq_true_eq]
  case listFull => rw [law.listFull_iff, decide_eq_true_eq]

/-- Settles O24: each check of the list is the one the judgement makes at its place. -/
theorem entryChecksAreJudgedInOrder : Obligations.EntryChecksAreJudgedInOrder := by
  intro s p c law hp
  refine ⟨rfl, rfl, fun r row => law.entryDenial_eq hp c r row, ?_⟩
  rw [State.presenceIn_eq] <;> rfl

/-! ### Modes and tracking (R66, R76, R81) -/

theorem judgeGateMode_range {f : GateModeArgs} (h : gateModeOf f.mode = none ∨ ¬ f.gate < 8) (s : State) :
    judgeGateMode s f = refuse s .range := by
  unfold judgeGateMode
  cases hm : gateModeOf f.mode with
  | none => rfl
  | some m => exact if_pos ((isGate_false_iff _).mpr (h.resolve_left (by rw [hm]; nofun)))

theorem judgeGateMode_mode {f : GateModeArgs} {m : GateMode} (hm : gateModeOf f.mode = some m) (hg : f.gate < 8) (s : State) :
    judgeGateMode s f = doneWith (s.setGateMode f.gate m) := by
  rw [judgeGateMode, hm]
  exact if_neg (mt (isGate_false_iff _).mp (not_not_intro hg))

/-- The record a change of mode leaves (the table of R66). -/
theorem Gate.changeMode_eq {g : Gate} {m : GateMode} (now : Nat) (moves : m ≠ g.mode) :
    g.changeMode m now =
      if g.station = none then { g with mode := m, awaitsHeldEnd := g.awaitsHeldEnd || g.mode == .free }
      else if g.mode = .free then
        { g with
          mode := m, mark := some { cmd := .strike, setAgain := true }, monitor := .released
          strikeEnd := some (min (now + g.strikeTime.getD 0) 4294967295), passageSeen := g.doorOpen
          expiry := .strikePending, awaitsHeldEnd := true }
      else if m = .free then
        { g with
          mode := m, mark := some { cmd := .holdRelease, setAgain := true }, monitor := .idle, strikeEnd := none
          passageSeen := false, expiry := .taken }
      else { g with mode := m } := by
  unfold Gate.changeMode
  cases hst : g.station with
  | none => rfl
  | some place =>
    have stays : g.mode ≠ .free → (g.awaitsHeldEnd || g.mode == .free) = g.awaitsHeldEnd := fun h => by
      rw [beq_eq_false_iff_ne.mpr h, Bool.or_false]
    cases hm : g.mode with
    | free =>
      have frees : (g.awaitsHeldEnd || GateMode.free == .free) = true := Bool.or_true _
      simp only [frees]
      rfl
    | normal =>
      rw [hm] at stays
      simp only [stays nofun]
      cases m with
      | free => rfl
      | normal => rfl
      | locked => rfl
    | locked =>
      rw [hm] at stays
      simp only [stays nofun]
      cases m with
      | free => rfl
      | normal => rfl
      | locked => rfl

/-- The pontoons after a judgement of the tracking (R81). -/
theorem State.pontoon_judgeTracking (s : State) (p q : Nat) :
    (s.judgeTracking p).pontoon q = if p = q ∧ q < 6 then { s.pontoon p with tracking := s.trackingJudged p } else s.pontoon q := by
  by_cases same : (s.pontoon p).tracking = s.trackingJudged p
  · have stays : s.judgeTracking p = s := if_pos same
    rw [stays, ← same]
    split
    case isTrue own => rw [own.1]
    case isFalse => rfl
  · have moves : s.judgeTracking p = (s.setPontoon p { s.pontoon p with tracking := s.trackingJudged p }).post
        (.tracking p (s.trackingJudged p) (s.count p)) := if_neg same
    rw [moves]
    exact State.pontoon_setPontoon ..

theorem State.trackingJudged_iff (s : State) (p : Nat) :
    s.trackingJudged p = .suspended ↔ ∃ g ∈ s.gates.toList, g.station.map Prod.fst = some p ∧ g.mode = .free := by
  simp only [State.trackingJudged, Gate.pontoon, ite_eq_left_iff, reduceCtorEq, imp_false, Classical.not_not, List.any_eq_true, Bool.and_eq_true,
    beq_iff_eq]

/-- A change of mode: the gate's record, and the tracking of its pontoon where the change is into or out of FREE. -/
theorem State.setGateMode_eq (s : State) (g : Nat) (m : GateMode) :
    s.setGateMode g m =
      if m = (s.gate g).mode then s
      else
        match (s.gate g).station with
        | some (p, _) =>
          if (s.gate g).mode = .free ∨ m = .free then (s.setGate g ((s.gate g).changeMode m s.clock)).judgeTracking p
          else s.setGate g ((s.gate g).changeMode m s.clock)
        | none => s.setGate g ((s.gate g).changeMode m s.clock) := by
  simp only [State.setGateMode, Gate.pontoon, eq_comm (a := m)]
  cases (s.gate g).station <;> rfl

/-- Settles O20: the request by its ranges and the present mode, the record by the table of modes, and the tracking by the gates' modes. -/
theorem gateModeMovesMarkAndMonitor : Obligations.GateModeMovesMarkAndMonitor := by
  refine ⟨fun s tag f room h => ?range, fun s tag f m room hm hg => ?mode, fun s p hp => ?tracking⟩
  case range =>
    refine (finishBus_takeRequest room 0x30 tag f judgeGateMode).trans (congrArg _ ?_)
    rw [judgeGateMode_range h, Judged.endedBus_refuse]
  case mode =>
    intro g taken t
    refine (finishBus_takeRequest room 0x30 tag f judgeGateMode).trans (congrArg _ ?_)
    rw [judgeGateMode_mode hm hg, Judged.endedBus_doneWith, State.setGateMode_eq]
    have gate : s.frameTaken.gate f.gate = g := rfl
    rw [gate]
    by_cases stays : m = g.mode
    · rw [if_pos stays, if_pos stays]
    · have record : s.frameTaken.setGate f.gate (g.changeMode m s.frameTaken.clock) = t :=
        congrArg (s.frameTaken.setGate f.gate) (Gate.changeMode_eq s.clock stays)
      rw [if_neg stays, if_neg stays, record] <;> rfl
  case tracking =>
    have own : (s.judgeTracking p).pontoon p = { s.pontoon p with tracking := s.trackingJudged p } := by
      rw [State.pontoon_judgeTracking, if_pos ⟨rfl, hp⟩]
    rw [own]
    refine ⟨s.trackingJudged_iff p, rfl, fun q ne => ?_, fun same => if_pos (Eq.symm same), fun moved => if_neg (Ne.symm moved)⟩
    rw [State.pontoon_judgeTracking, if_neg fun h => ne h.1.symm]

/-! ### Releases and grants (R75, R77, R84, R85) -/

/-- A release that starts, in the monitor's states (R77), without its mark. -/
theorem Gate.wantStrike_startRelease (x : Gate) (now : Nat) :
    x.wantStrike.startRelease now =
      { (match x.monitor with
          | .idle => { x with
              monitor := .released, strikeEnd := some (min (now + x.strikeTime.getD 0) 4294967295), passageSeen := false
              expiry := .strikePending }
          | .released => { x with strikeEnd := some (min (now + x.strikeTime.getD 0) 4294967295), expiry := .strikePending }
          | _ => x : Gate) with mark := some { cmd := .strike, setAgain := true } } := by
  unfold Gate.startRelease Gate.wantStrike
  cases hm : x.monitor <;> simp only [hm] <;> rfl

theorem State.gatePontoon_eq (s : State) (g : Nat) : s.gatePontoon g = ((s.gate g).station.map Prod.fst).getD 0 := rfl

/-- Settles O21: the request by its checks, the release as one record, and the removal of one card. -/
theorem remoteGrantAndPresenceRemoval : Obligations.RemoteGrantAndPresenceRemoval := by
  refine ⟨fun s tag g room => ?grant, fun s tag c room => ?removal⟩
  case grant =>
    intro x strikeEnd released
    refine (finishBus_takeRequest room 0x31 tag g judgeGateOpen).trans (congrArg _ ?_)
    have gate : s.frameTaken.gate g = x := rfl
    simp only [judgeGateOpen, isGate_false_iff, Option.isNone_iff_eq_none, gate, Judged.endedBus_ite, Judged.endedBus_refuse,
      Judged.endedBus_doneWith, State.remoteGrant, State.releaseGate, Gate.wantStrike_startRelease]
    rfl
  case removal =>
    refine (finish_takeRequest room 0x35 tag c judgePresenceRemove).trans (congrArg _ ?_)
    have record : s.frameTaken.presenceOf c = s.presenceOf c := rfl
    simp only [judgePresenceRemove, record]
    cases s.presenceOf c <;> rfl

/-! ### Expiries (R79) -/

theorem Gate.dropStale_eq (x : Gate) :
    x.dropStale =
      if (∃ b, x.mark = some { cmd := .strike, setAgain := b }) ∧ x.awaitsHeldEnd = false then { x with mark := none } else x := by
  unfold Gate.dropStale
  cases hm : x.mark with
  | none => simp
  | some m =>
    obtain ⟨cmd, again⟩ := m
    cases cmd with
    | strike => cases ha : x.awaitsHeldEnd <;> simp
    | deny => simp
    | holdRelease => simp

theorem Gate.strikeDue_iff (x : Gate) (now : Nat) :
    x.strikeDue now = true ↔ x.monitor = .released ∧ x.expiry = .strikePending ∧ x.strikeEnd.getD 0 ≤ now := by
  simp only [Gate.strikeDue, Bool.and_eq_true, beq_iff_eq, decide_eq_true_eq, and_assoc]

theorem Gate.holdDue_iff (x : Gate) (now : Nat) :
    x.holdDue now = true ↔
      x.monitor = .released ∧ x.expiry = .holdPending ∧ min (x.strikeEnd.getD 0 + x.holdGrace.getD 0) 4294967295 ≤ now := by
  simp only [Gate.holdDue, Bool.and_eq_true, beq_iff_eq, expired_iff, and_assoc]

/-- Settles O22: each expiry acts where it is due, by the door. -/
theorem strikeEndAndHoldExpiriesMoveTheMonitor : Obligations.StrikeEndAndHoldExpiriesMoveTheMonitor := by
  intro s g x y
  have stale : (s.gate g).dropStale = y := Gate.dropStale_eq _
  refine ⟨?_, ?_⟩
  · show finishBus (s.strikeExpiry g) = _
    simp only [State.strikeExpiry, Gate.strikeDue_iff, stale]
    rfl
  · show finish (s.holdExpiry g) = _
    simp only [State.holdExpiry, Gate.holdDue_iff]
    rfl

/-! ### Reads and the exit button (R67 to R73) -/

section
variable {s : State} {g : Nat} (c : Card)

theorem State.readIn_locked (h : (s.gate g).mode = .locked) : s.readIn g c = s.denyIn g c none .locked := by
  simp only [State.readIn, h]

theorem State.readIn_free (h : (s.gate g).mode = .free) :
    s.readIn g c = s.post (inPassage g (s.gatePontoon g) c none true none .frozen) := by
  simp only [State.readIn, h]

theorem State.readIn_denied {reason : Denial} (h : (s.gate g).mode = .normal)
    (denied : s.entryDenial (s.gatePontoon g) c (s.consult c) = some reason) :
    s.readIn g c = s.denyIn g c (s.consult c).row? reason := by
  simp only [State.readIn, h, denied]

theorem State.readIn_granted {r : Nat} {row : CredRow} (h : (s.gate g).mode = .normal) (hit : s.consult c = .hit r row)
    (passes : s.entryDenial (s.gatePontoon g) c (.hit r row) = none) : s.readIn g c = s.grantIn g c row := by
  simp only [State.readIn, h, hit, passes]

theorem State.consult_table (h : s.creds.state ≠ .valid) : s.consult c = .table := if_neg h

theorem State.consult_unknown (h : s.creds.state = .valid) (none : s.matchRow c = none) : s.consult c = .unknown := by
  simp only [State.consult, h, none, if_true]

theorem State.consult_hit (h : s.creds.state = .valid) {r : Nat} {row : CredRow} (some : s.matchRow c = some (r, row)) :
    s.consult c = .hit r row := by
  simp only [State.consult, h, some, if_true]

end

/-- A release in one record (R75, R77). -/
theorem State.releaseGate_eq (s : State) (g : Nat) :
    let x := s.gate g
    let strikeEnd := some (min (s.clock + x.strikeTime.getD 0) 4294967295)
    let released : Gate :=
      match x.monitor with
      | .idle => { x with monitor := .released, strikeEnd := strikeEnd, passageSeen := false, expiry := .strikePending }
      | .released => { x with strikeEnd := strikeEnd, expiry := .strikePending }
      | _ => x
    s.releaseGate g = s.setGate g { released with mark := some { cmd := .strike, setAgain := true } } := by
  rw [State.releaseGate, Gate.wantStrike_startRelease]

/-- The arrival that a grant sends for a CREW row (R9). -/
theorem State.gateArrival_eq (s : State) (row : CredRow) (c : Card) :
    s.gateArrival row c =
      match row.kind, row.berth with
      | .crew, some b =>
        if (s.berth b).autoArrival = true ∧ ((s.berth b).state = .reserved ∨ (s.berth b).state = .overdue) then
          (s.setBerth b { s.berth b with state := .occupied, arrival := some s.clock }).post
            (.arrived b ((s.berth b).occupant.getD 0) .gate (some c) (s.berth b).overdueSent)
        else s
      | _, _ => s := by
  unfold State.gateArrival
  cases row.kind with
  | crew =>
    cases row.berth with
    | none => rfl
    | some b => exact State.autoArrive_eq ..
  | guest => rfl
  | staff => rfl
  | service => rfl

/-- The outcome of an OUT read for a card with a record, by the tracking of the two pontoons (R72). -/
theorem State.outOutcome_record {s : State} {c : Card} {q : Presence} (h : s.presenceOf c = some q) (p : Nat) :
    s.outOutcome p c =
      if (s.pontoon p).tracking = .on ∧ (s.pontoon q.pontoon).tracking = .on then
        if q.pontoon = p then (.removed, none) else (.crossed, some q.pontoon)
      else (.frozen, none) := by
  simp only [State.outOutcome, h, ← State.tracks_iff]
  cases s.tracks p <;> cases s.tracks q.pontoon <;> rfl

/-- Settles O23: the reply's steps, the reads by mode and answer, and the door report by the monitor. -/
theorem doorReportsMoveTheMonitor : Obligations.DoorReportsMoveTheMonitor := by
  refine ⟨fun s g st => rfl, fun s g c => ?reads, fun s g isOpen => ?door⟩
  case reads =>
    intro x p strikeEnd released release passes denied deny held moves
    have release_eq (t : State) (gate : t.gate g = x) (clock : t.clock = s.clock) : t.releaseGate g = release t := by
      rw [State.releaseGate_eq, gate, clock] <;> rfl
    have passes_eq (t : State) (gate : t.gate g = x) (clock : t.clock = s.clock) : t.releaseUnlessFree g = passes t := by
      rw [State.releaseUnlessFree, gate, release_eq t gate clock]
    have read_out {o : RecordOutcome × Option Nat} {l : List Presence} (outcome : s.outOutcome p c = o)
        (list : (match o.1 with
          | .removed => withoutCard s.presence c
          | .crossed => withoutCard s.presence c
          | _ => s.presence) = l) :
        s.readOut g c = (passes (s.setPresence l)).post (.passage g p .outward (some c) none none true none o.1 o.2) := by
      have left : s.presenceOut p c = l := by
        rw [← list, ← outcome]
        rfl
      have read : s.readOut g c = ((s.setPresence (s.presenceOut p c)).releaseUnlessFree g).post
          (.passage g p .outward (some c) none none true none (s.outOutcome p c).1 (s.outOutcome p c).2) := rfl
      rw [read, left, outcome, passes_eq (s.setPresence l) rfl rfl]
    refine ⟨fun mode => State.readIn_locked c mode, fun mode => State.readIn_free c mode, fun mode table => ?table,
      fun mode valid none => ?unknown, fun r row mode valid hit => ⟨fun reason fails => ?denied, fun grants => ?granted⟩,
      fun absent => ?noRecord, fun q record => ⟨fun stays => ?frozen, fun both => ?taken⟩, ?button⟩
    case table =>
      have ans := State.consult_table c table
      rw [State.readIn_denied c mode (reason := .table) (by rw [ans]; rfl), ans]
      rfl
    case unknown =>
      have ans := State.consult_unknown c valid none
      rw [State.readIn_denied c mode (reason := .unknown) (by rw [ans]; rfl), ans]
      rfl
    case denied =>
      have ans := State.consult_hit c valid hit
      rw [State.readIn_denied c mode (reason := reason) (by rw [ans]; exact fails), ans]
      rfl
    case granted =>
      intro granted arrived outcome
      have released : (s.setPresence (s.presenceIn p c)).releaseGate g = granted := release_eq _ rfl rfl
      have arrival : granted.gateArrival row c = arrived := State.gateArrival_eq ..
      have recorded : s.inOutcome p c = outcome := State.inOutcome_eq ..
      have grant : s.grantIn g c row = (((s.setPresence (s.presenceIn p c)).releaseGate g).gateArrival row c).post
          (inPassage g p c (some row) true none (s.inOutcome p c)) := rfl
      rw [State.readIn_granted c mode (State.consult_hit c valid hit) grants, grant, released, arrival, recorded]
      rfl
    case noRecord =>
      have outcome : s.outOutcome p c = (.none, none) := by
        rw [State.outOutcome, show s.presenceOf c = none from absent]
      rw [read_out outcome rfl]
      rfl
    case frozen =>
      have outcome : s.outOutcome p c = (.frozen, none) := by rw [State.outOutcome_record record, if_neg stays]
      rw [read_out outcome rfl]
      rfl
    case taken =>
      by_cases own : q.pontoon = p
      · have outcome : s.outOutcome p c = (.removed, none) := by rw [State.outOutcome_record record, if_pos both, if_pos own]
        rw [read_out outcome rfl, if_pos own]
        rfl
      · have outcome : s.outOutcome p c = (.crossed, some q.pontoon) := by
          rw [State.outOutcome_record record, if_pos both, if_neg own]
        rw [read_out outcome rfl, if_neg own]
        rfl
    case button =>
      have pressed : s.exitButton g = (s.releaseUnlessFree g).post (.passage g p .button none none none true none .none none) := rfl
      rw [pressed, passes_eq s rfl rfl]
  case door =>
    intro x p idle
    have report : s.doorReport g isOpen =
        if x.mode = .free then s.setGate g x
        else
          match x.monitor, isOpen with
          | .idle, true => (s.setGate g { x with monitor := .forced }).post (.forced g p)
          | .released, true => s.setGate g { x with passageSeen := true }
          | .released, false => s.setGate g (if x.passageSeen = true then idle else x)
          | .held, false => (s.setGate g idle).post (.doorSecure g p .held)
          | .forced, false => (s.setGate g idle).post (.doorSecure g p .forced)
          | _, _ => s.setGate g x := rfl
    rw [report]
    refine ⟨fun free => if_pos free, fun mode isOpen => ?opened, fun mode isShut => ?shut⟩
    case opened =>
      subst isOpen
      rw [if_neg mode]
      refine ⟨fun monitor => ?_, fun monitor => ?_, fun monitor => ?_⟩
      · rw [monitor]
      · rw [monitor]
      · rcases monitor with e | e <;> rw [e]
    case shut =>
      subst isShut
      rw [if_neg mode]
      refine ⟨fun monitor => ?_, fun monitor => ?_, fun monitor => ?_⟩
      · rw [monitor]
      · rw [monitor]
      · rcases monitor with e | e <;> rw [e]

end Sys2Proof.Machine

/-! PROOFS. The Fuel Dock Controller (chapter 8): authorization (R154 to R156), the requests on a pump (R159, R163, R169), its timers (R158,
R166), its status replies (R152, R157, R160, R165, R167) and the completion of a sale (R161, R162). The statements O37, O38, O39 and O40. -/

namespace Sys2Proof.Machine

/-! ### What the Account Unit's operations leave of the pumps -/

theorem FundsOnly.recompute (s : State) (n : Nat) : FundsOnly s (s.recompute n) :=
  (FundsOnly.setAccount s n _).trans (.onStanding ..)

theorem FundsOnly.settle (s : State) (n id d : Nat) : FundsOnly s (s.settle n id d) := by
  rw [State.settle_eq]
  dsimp only
  split
  · exact .post ..
  · split
    · exact (FundsOnly.setAccount s n _).trans (.recompute ..)
    · exact ((FundsOnly.setAccount s n _).trans (.recompute ..)).trans (.post ..)

theorem FundsOnly.release (s : State) (n id : Nat) : FundsOnly s (s.release n id) := by
  rw [State.release_eq]
  split
  · exact (FundsOnly.setAccount s n _).trans (.recompute ..)
  · exact .post ..

section
variable {s t : State} (h : FundsOnly s t)
include h

theorem FundsOnly.pump (p : Nat) : t.pump p = s.pump p := by
  have pumps : t.pumps = s.pumps := (congrArg State.pumps h.rest.rest :)
  rw [State.pump, State.pump, pumps]

theorem FundsOnly.isPresent (a d : Nat) : t.isPresent a d = s.isPresent a d := by
  have station : (t.slot a d).station = (s.slot a d).station := h.rest.station a d
  rw [State.isPresent, State.isPresent, State.link, State.link, station]

theorem FundsOnly.restState (p : Nat) : t.restState p = s.restState p := by
  rw [State.restState, State.restState, State.pumpPresent, State.pumpPresent, h.pump]
  cases (s.pump p).station with
  | none => rfl
  | some place => simp only [h.isPresent]

end

/-- A pump's rest state is that of its station, which a new record with that station leaves. -/
theorem State.restState_setPump (s : State) (p : Nat) {x : Pump} (h : x.station = (s.pump p).station) :
    (s.setPump p x).restState p = s.restState p := by
  have station : ((s.setPump p x).pump p).station = (s.pump p).station := by
    rw [State.pump_setPump]
    split
    · exact h
    · rfl
  rw [State.restState, State.restState, State.pumpPresent, State.pumpPresent, station]
  rfl

/-! ### Authorization (R154 to R156) -/

theorem fuelAuthInRange_iff (f : FuelAuthArgs) :
    fuelAuthInRange f = true ↔ f.pump < 4 ∧ f.nozzle ≤ 1 ∧ (1 ≤ f.limit ∧ f.limit ≤ 999999) ∧ f.account ≤ 256 := by
  simp only [fuelAuthInRange, isPump, Bool.and_eq_true, decide_eq_true_eq, and_assoc]

theorem State.hold_refused {s : State} {n w m : Nat} {r : HoldRefusal} (h : (s.account n).holdRefusal w m = some r) (p : Nat) :
    s.hold n p w m = (s, .error r) := by
  simp only [State.hold, h]

theorem State.hold_granted {s : State} {n w m : Nat} (h : (s.account n).holdRefusal w m = none) (p : Nat) :
    s.hold n p w m =
      let a := s.account n
      let granted := (min (w : Int) a.available).toNat
      ((s.setAccount n { a with holds := a.holds ++ [{ id := freeHoldId a.holds, pump := p, amount := granted }] }).recompute n,
        .ok (freeHoldId a.holds, granted)) := by
  simp only [State.hold, h]

theorem State.authorize_endedBus (s : State) (tag p : Nat) (q : Sale) :
    (s.authorize p q).endedBus tag 0x48 =
      ((s.setPump p { s.pump p with
          state := .ready, sale := some q, mark := some { cmd := .auth q.nozzle q.grade q.preset, setAgain := true } }).post
        (.pumpAuthorized p q)).answeredBus tag 0x48 .done (.authorized q.price q.limit q.preset) := rfl

/-- Settles O37: the request by its checks, the last of them the hold's, and the opened sale. -/
theorem fuelAuthorizeOpensASale : Obligations.FuelAuthorizeOpensASale := by
  intro s tag f room p grade price sale opened a granted
  refine (finishBus_takeRequest room 0x48 tag f judgeFuelAuthorize).trans (congrArg _ ?_)
  have outside := not_congr (fuelAuthInRange_iff f)
  have invalid := not_congr s.frameTaken.ratesValid_iff
  rw [Bool.not_eq_true] at outside invalid
  simp only [judgeFuelAuthorize, outside, invalid, Judged.endedBus_ite, Judged.endedBus_refuse, State.authorize_endedBus]
  refine ite_congr rfl (fun _ => rfl) fun _ => ite_congr rfl (fun _ => rfl) fun _ => ite_congr rfl (fun _ => rfl) fun _ =>
    ite_congr rfl (fun _ => rfl) fun _ => ?_
  have rows : s.frameTaken.rateRows = s.rateRows := rfl
  rw [rows]
  cases refusal : a.holdRefusal f.limit (minimumSale s.rateRows) with
  | some reason =>
    rw [State.hold_refused (s := s.frameTaken) refusal]
    rfl
  | none =>
    rw [State.hold_granted (s := s.frameTaken) refusal]
    rfl

/-! ### FUEL-ABORT, SALE-COLLECT and PUMP-PROTECT (R159, R163, R169) -/

/-- A held sale moves into a freed slot, in one record (R163). -/
theorem State.unblock_setPump {s : State} {p : Nat} (hp : p < 4) (rest : List Sale) :
    (s.setPump p { s.pump p with slots := rest }).unblock p =
      s.setPump p (
        match (s.pump p).state, (s.pump p).sale with
        | .blocked, some held => { s.pump p with
            state := s.restState p, sale := none, suspendedFrom := none, suspectSince := none, slots := rest ++ [held] }
        | _, _ => { s.pump p with slots := rest }) := by
  have rests : (s.setPump p { s.pump p with slots := rest }).restState p = s.restState p := State.restState_setPump s p rfl
  rw [State.unblock, State.pump_setPump_self hp, rests]
  generalize s.pump p = x
  obtain ⟨station, grade0, grade1, protect, state, suspendedFrom, suspectSince, sale, slots, lost, closedVolume, mark⟩ := x
  cases state with
  | blocked =>
    cases sale with
    | none => rfl
    | some held => exact State.setPump_setPump ..
  | _ => rfl

/-- The overwrite of a full pump's oldest slot, once a record of the pump with the same station is written (R162). -/
theorem State.overwriteSlot_setPump {s : State} {p : Nat} (hp : p < 4) {x : Pump} (station : x.station = (s.pump p).station)
    {old : Sale} {rest : List Sale} (slots : x.slots = old :: rest) (sale : Sale) :
    (s.setPump p x).overwriteSlot p sale =
      (s.setPump p { x with
        state := s.restState p, sale := none, suspendedFrom := none, suspectSince := none, slots := rest ++ [sale]
        lost := min (x.lost + 1) 65535 }).post (.saleLost p old) := by
  have rests : (s.setPump p x).restState p = s.restState p := State.restState_setPump s p station
  simp only [State.overwriteSlot, State.pump_setPump_self hp, rests, slots, State.setPump_setPump]
  rfl

theorem eq_pair_of_length {α : Type} {l : List α} (h : l.length = 2) : ∃ x y, l = [x, y] :=
  match l, h with
  | [x, y], _ => ⟨x, y, rfl⟩

/-- A pump that takes a protect flag: a held sale of a BLOCKED pump whose flag is cleared takes the oldest slot (R169). -/
theorem State.placeHeld_setPump {s : State} (law : PumpLaw s) {p : Nat} (hp : p < 4) (flag : Bool) :
    (s.setPump p { s.pump p with protect := flag }).placeHeld p =
      match (s.pump p).state, (s.pump p).sale, (s.pump p).slots, flag with
      | .blocked, some held, [oldest, newer], false =>
        (s.setPump p { s.pump p with
          protect := false, state := s.restState p, sale := none, suspendedFrom := none, suspectSince := none
          slots := [newer, held], lost := min ((s.pump p).lost + 1) 65535 }).post (.saleLost p oldest)
      | _, _, _, _ => s.setPump p { s.pump p with protect := flag } := by
  rw [State.placeHeld, State.pump_setPump_self hp]
  obtain ⟨-, -, full, -⟩ := law p
  generalize hx : s.pump p = x at full ⊢
  obtain ⟨station, grade0, grade1, protect, state, suspendedFrom, suspectSince, sale, slots, lost, closedVolume, mark⟩ := x
  cases state with
  | blocked =>
    obtain ⟨two, -, held⟩ := full rfl
    obtain ⟨oldest, newer, rfl⟩ := eq_pair_of_length two
    obtain ⟨sale, rfl⟩ := Option.isSome_iff_exists.mp held
    cases flag with
    | true => rfl
    | false =>
      have docked : station = (s.pump p).station := by rw [hx]
      exact (State.overwriteSlot_setPump (old := oldest) (rest := [newer]) hp (by exact docked) (by exact rfl) sale).trans rfl
  | _ => rfl

/-- Settles O38: each request by the pump's state. -/
theorem fuelAbortSaleCollectAndPumpProtect : Obligations.FuelAbortSaleCollectAndPumpProtect := by
  refine ⟨fun s tag p room => ?abort, fun s tag p room => ?collect, fun s tag f room law => ?protect⟩
  case abort =>
    refine (finishBus_takeRequest room 0x49 tag p judgeFuelAbort).trans (congrArg _ ?_)
    have pump : s.frameTaken.pump p = s.pump p := rfl
    simp only [judgeFuelAbort, isPump_false_iff, pump, Judged.endedBus_ite, Judged.endedBus_refuse]
    refine ite_congr rfl (fun _ => rfl) fun _ => ?_
    cases (s.pump p).state <;> rfl
  case collect =>
    refine (finish_takeRequest room 0x4A tag p judgeSaleCollect).trans (congrArg _ ?_)
    have pump : s.frameTaken.pump p = s.pump p := rfl
    simp only [judgeSaleCollect, isPump_false_iff, pump, Judged.ended_if, Judged.ended_refuse]
    refine ite_congr rfl (fun _ => rfl) fun hp => ?_
    cases (s.pump p).slots with
    | nil => rfl
    | cons oldest rest =>
      have collected := State.unblock_setPump (s := s.frameTaken) (Classical.not_not.mp hp) rest
      dsimp only
      rw [← pump, collected, Judged.ended_answer]
      rfl
  case protect =>
    refine (finish_takeRequest room 0x4B tag f judgePumpProtect).trans (congrArg _ ?_)
    have pump : s.frameTaken.pump f.pump = s.pump f.pump := rfl
    simp only [judgePumpProtect, isPump_false_iff, Judged.ended_if, Judged.ended_refuse, Judged.ended_doneWith]
    refine ite_congr rfl (fun _ => rfl) fun hp => ?_
    rw [State.placeHeld_setPump (s := s.frameTaken) law (Classical.not_not.mp hp), pump]
    have rests : s.frameTaken.restState f.pump = s.restState f.pump := rfl
    rw [rests]
    generalize s.pump f.pump = x
    generalize f.flag = flag
    obtain ⟨station, grade0, grade1, protect, state, suspendedFrom, suspectSince, sale, slots, lost, closedVolume, mark⟩ := x
    cases state with
    | blocked =>
      cases sale with
      | none => rfl
      | some held =>
        match slots with
        | [] => rfl
        | [_] => rfl
        | [_, _] => cases flag <;> rfl
        | _ :: _ :: _ :: _ => rfl
    | _ => rfl

/-! ### The timers (R158, R166, R169) -/

theorem State.readyExpiry_eq (s : State) (p : Nat) :
    s.readyExpiry p =
      match (s.pump p).state, (s.pump p).sale with
      | .ready, some sale =>
        if min (sale.start + s.readyTimeout) 4294967295 ≤ s.clock then s.discardSale p (.authExpired p) else s
      | _, _ => s := by
  simp only [State.readyExpiry, expired_iff] <;> rfl

theorem State.linkLossExpiry_eq (s : State) (p : Nat) :
    s.linkLossExpiry p =
      match (s.pump p).state, (s.pump p).sale with
      | .suspect, some sale =>
        if min ((s.pump p).suspectSince.getD 0 + s.linkLossWindow) 4294967295 ≤ s.clock then
          let t := s.completeSale p .linkLost false
          (t.setPump p { t.pump p with mark := some { cmd := .stop, setAgain := true } }).post
            (.linkLost p sale.account sale.volume ((sale.volume * sale.price + 500) / 1000))
        else s
      | _, _ => s := by
  simp only [State.linkLossExpiry, expired_iff] <;> rfl

/-- The closed volume, where a completion or a discard sets it (R167). -/
theorem Pump.closeVolume_record (x : Pump) (v : Nat) :
    x.closeVolume v = { x with closedVolume := if x.markAuth = true then x.closedVolume else some v } := by
  unfold Pump.closeVolume
  split <;> rfl

/-- The release of a discarded sale's hold (R158). -/
def State.releaseSale (s : State) (sale : Sale) : State :=
  match sale.source, sale.account with
  | .account, some n => s.release n (sale.holdId.getD 0)
  | _, _ => s

theorem FundsOnly.releaseSale (s : State) (sale : Sale) : FundsOnly s (s.releaseSale sale) := by
  unfold State.releaseSale
  split
  · exact .release ..
  · exact .refl s

/-- A discard in one record of the pump (R158, R159). -/
theorem State.discardSale_eq {s : State} {p : Nat} {sale : Sale} (h : (s.pump p).sale = some sale) (notice : Sale → NoticeBody) :
    s.discardSale p notice =
      ((s.releaseSale sale).setPump p { s.pump p with
        state := s.restState p, sale := none, suspendedFrom := none, suspectSince := none
        mark := some { cmd := .stop, setAgain := true }
        closedVolume := if (s.pump p).markAuth = true then (s.pump p).closedVolume else some sale.volume }).post (notice sale) := by
  have frame := FundsOnly.releaseSale s sale
  have steps : s.discardSale p notice =
      ((s.releaseSale sale).setPump p (((((s.releaseSale sale).pump p).closeVolume sale.volume).want .stop).atRest
        ((s.releaseSale sale).restState p))).post (notice sale) := by
    rw [State.discardSale, h]
    rfl
  rw [steps, frame.pump, frame.restState, Pump.closeVolume_record]
  rfl

/-- Settles O39: each timer by the pump's state and sale, the discard as one record, and the setting of both. -/
theorem fuelTimersExpireAndAreSet : Obligations.FuelTimersExpireAndAreSet := by
  intro s p x
  refine ⟨?ready, ?window, fun sale notice h => ?discard, fun tag f room => ?set⟩
  case ready =>
    show finishBus (s.readyExpiry p) = _
    rw [State.readyExpiry_eq]
    rfl
  case window =>
    show finishBus (s.linkLossExpiry p) = _
    rw [State.linkLossExpiry_eq]
    rfl
  case discard => exact State.discardSale_eq h notice
  case set =>
    refine (finishBus_takeRequest room 0x4C tag f judgeFuelTimersSet).trans (congrArg _ ?_)
    simp only [judgeFuelTimersSet, inRange_iff, ite_not, Judged.endedBus_ite, Judged.endedBus_refuse, Judged.endedBus_doneWith,
      and_assoc]
    rfl

/-! ### A pump's status reply (R152, R157, R160, R165, R167) -/

theorem Phase.isOver_iff (ph : Phase) : ph.isOver = true ↔ ph = .stopped ∨ ph = .waiting := by
  cases ph <;> decide

section
variable {s : State} {p : Nat}

theorem State.judgePump_ready (h : (s.pump p).state = .ready) (mark : (s.pump p).markAuth = false) (st : PumpStatus) :
    s.judgePump p st = s.judgeReady p st := by
  simp only [State.judgePump, h, mark, Bool.false_eq_true, if_false]

theorem State.judgePump_delivery (h : (s.pump p).state = .fuelling ∨ (s.pump p).state = .stopping) (mark : (s.pump p).markAuth = false)
    (st : PumpStatus) : s.judgePump p st = s.judgeDelivery p st := by
  rcases h with h | h <;> simp only [State.judgePump, h, mark, Bool.false_eq_true, if_false]

theorem State.judgePump_closed (h : (s.pump p).state = .idle ∨ (s.pump p).state = .blocked) (mark : (s.pump p).markAuth = false)
    (st : PumpStatus) : s.judgePump p st = s.judgeClosed p st := by
  rcases h with h | h <;> simp only [State.judgePump, h, mark, Bool.false_eq_true, if_false]

theorem State.judgePump_suspect (h : (s.pump p).state = .suspect) (st : PumpStatus) : s.judgePump p st = s.suspectReturn p st := by
  simp only [State.judgePump, h]

/-- While an AUTH mark stands, the reply of a pump that is not SUSPECT is passed over (R152). -/
theorem State.judgePump_passed (h : (s.pump p).state ≠ .suspect) (mark : (s.pump p).markAuth = true) (st : PumpStatus) :
    s.judgePump p st = s := by
  simp only [State.judgePump, mark, if_true]
  split
  · exact absurd ‹_› h
  all_goals rfl

theorem State.judgePump_offline (h : (s.pump p).state = .offline) (st : PumpStatus) : s.judgePump p st = s := by
  simp only [State.judgePump, h]

end

/-- A reported volume is taken whatever state the pump is given. -/
theorem Pump.takeVolume_state (x : Pump) (q : PumpState) (v : Nat) :
    ({ x with state := q } : Pump).takeVolume v = { x.takeVolume v with state := q } := by
  obtain ⟨station, grade0, grade1, protect, state, suspendedFrom, suspectSince, sale, slots, lost, closedVolume, mark⟩ := x
  unfold Pump.takeVolume
  cases sale with
  | none => rfl
  | some sale =>
    dsimp only
    split <;> rfl

theorem State.judgeReady_eq (s : State) (p : Nat) (st : PumpStatus) :
    let x := s.pump p
    s.judgeReady p st =
      if st.phase = .stopped ∨ st.phase = .waiting then
        (s.setPump p { x.takeVolume st.volume with state := .fuelling }).completeSale p (endReasonOf st.phase st.cause) true
      else if st.lifted ((x.sale.map (·.nozzle)).getD 0) = true ∨ st.phase = .delivering then
        s.setPump p { x.takeVolume st.volume with state := .fuelling }
      else s := by
  simp only [State.judgeReady, Phase.isOver_iff, Pump.takeVolume_state]

theorem State.judgeDelivery_eq (s : State) (p : Nat) (st : PumpStatus) :
    let x := s.pump p
    s.judgeDelivery p st =
      if st.phase = .stopped ∨ st.phase = .waiting then
        (s.setPump p (x.takeVolume st.volume)).completeSale p
          (if x.state = .stopping then .abort else endReasonOf st.phase st.cause) true
      else s.setPump p (x.takeVolume st.volume) := by
  simp only [State.judgeDelivery, Phase.isOver_iff]

theorem endReasonOf_eq (phase : Phase) (cause : StopCause) :
    endReasonOf phase cause =
      if phase = .stopped ∧ cause = .preset then .limit
      else if phase = .stopped ∧ cause = .hung then .hung
      else if phase = .stopped ∧ cause = .noFlow then .timeout
      else .fault := by
  cases phase with
  | stopped => cases cause <;> rfl
  | _ => rfl

/-! ### Completion and placing (R161, R162) -/

theorem Pump.closed_record (x : Pump) (v : Nat) (fromReply : Bool) :
    (if fromReply = true then x.clearStop else x).closeVolume v =
      { x with
        mark := if fromReply = true ∧ ∃ b, x.mark = some { cmd := .stop, setAgain := b } then none else x.mark
        closedVolume := if x.markAuth = true then x.closedVolume else some v } := by
  obtain ⟨station, grade0, grade1, protect, state, suspendedFrom, suspectSince, sale, slots, lost, closedVolume, mark⟩ := x
  cases fromReply with
  | false => simp [Pump.closeVolume_record]
  | true =>
    cases mark with
    | none => simp [Pump.closeVolume_record, Pump.clearStop]
    | some m =>
      obtain ⟨cmd, again⟩ := m
      cases cmd with
      | auth => simp [Pump.closeVolume_record, Pump.clearStop]
      | stop => simp [Pump.closeVolume_record, Pump.clearStop, Pump.markAuth]

theorem FundsOnly.settleSale (s : State) (sale : Sale) : FundsOnly s (s.settleSale sale) := by
  unfold State.settleSale
  split
  · exact .settle ..
  · exact .refl s

/-- The completion of a pump's sale: the sale's end, its settlement, the pump's mark and closed volume, the notices, the placing. -/
theorem State.completeSale_eq {s : State} {p : Nat} {q : Sale} (h : (s.pump p).sale = some q) (reason : EndReason) (fromReply : Bool) :
    let sale := q.ended s.clock reason
    let x := s.pump p
    let closed : Pump := { x with
      mark := if fromReply = true ∧ ∃ b, x.mark = some { cmd := .stop, setAgain := b } then none else x.mark
      closedVolume := if x.markAuth = true then x.closedVolume else some q.volume }
    let told := ((s.settleSale sale).setPump p closed).post (.saleComplete p sale)
    s.completeSale p reason fromReply =
      (if reason = .abort then told.post (.abortDone p q.volume sale.amount) else told).placeSale p sale := by
  intro sale x closed told
  have record : (if fromReply = true then x.clearStop else x).closeVolume sale.volume = closed := Pump.closed_record ..
  have steps : s.completeSale p reason fromReply =
      ((((s.settleSale sale).setPump p
        ((if fromReply = true then ((s.settleSale sale).pump p).clearStop else (s.settleSale sale).pump p).closeVolume sale.volume)).post
        (.saleComplete p sale)).postIf (reason == .abort) (.abortDone p sale.volume sale.amount)).placeSale p sale := by
    rw [State.completeSale, h]
  rw [steps, (FundsOnly.settleSale s sale).pump, record]
  simp only [State.postIf, beq_iff_eq]
  rfl

section
variable {s : State} {p : Nat} (sale : Sale)

theorem State.placeSale_free (h : (s.pump p).slots.length < 2) :
    s.placeSale p sale = s.setPump p { (s.pump p).atRest (s.restState p) with slots := (s.pump p).slots ++ [sale] } := if_pos h

theorem State.placeSale_held (h : 2 ≤ (s.pump p).slots.length) (protect : (s.pump p).protect = true) :
    s.placeSale p sale = s.setPump p { (s.pump p).atRest .blocked with sale := some sale } :=
  (if_neg (Nat.not_lt.mpr h)).trans (if_pos protect)

theorem State.placeSale_over {old newer : Sale} (h : (s.pump p).slots = [old, newer]) (protect : (s.pump p).protect = false) :
    s.placeSale p sale =
      (s.setPump p { (s.pump p).atRest (s.restState p) with
        slots := [newer, sale], lost := min ((s.pump p).lost + 1) 65535 }).post (.saleLost p old) := by
  have overwrites : s.placeSale p sale = s.overwriteSlot p sale :=
    (if_neg (by rw [h]; exact Nat.lt_irrefl 2)).trans (if_neg (by rw [protect]; exact Bool.false_ne_true))
  rw [overwrites]
  simp only [State.overwriteSlot, h]
  rfl

end

/-! ### A card read at a pump (R154, R155) -/

theorem State.pumpRefusal_hit {s : State} {p : Nat} (h : (s.pump p).state = .idle) (r : Nat) (row : CredRow) :
    s.pumpRefusal p (.hit r row) =
      if ¬ (∀ w, row.window = some w → w.1 ≤ s.clock ∧ s.clock < w.2) then some .time
      else if row.kind ≠ .crew then some .kind
      else if ¬ (∃ b, row.berth = some b ∧ (s.berth b).state = .occupied) then some .berth
      else if s.rates.state ≠ .valid then some .rates
      else none := by
  simp only [State.pumpRefusal, h, ← CredRow.within_iff, ← State.occupied_iff, ← State.ratesValid_iff, Bool.not_eq_true, ne_eq]

theorem State.crewAccount_hit (s : State) (r : Nat) (row : CredRow) :
    s.crewAccount (.hit r row) = (row.berth.bind (fun b => (s.berth b).occupant)).getD 0 := by
  obtain ⟨enabled, code, mask, kind, berth, window, pontoons, antiPassback⟩ := row
  cases berth <;> rfl

theorem State.cardAtPump_denied {s : State} {p : Nat} {card : Card} {r : PumpRefusal} (h : s.pumpRefusal p (s.consult card) = some r)
    (nozzle : Nat) : s.cardAtPump p nozzle card = s.post (.pumpDenied p nozzle card r) := by
  simp only [State.cardAtPump, h]

/-- A card read that passes the checks asks for its hold (R154, check 8), and opens the sale with it (R155). -/
theorem State.cardAtPump_passed {s : State} {p : Nat} {card : Card} {ans : MatchAnswer} (consult : s.consult card = ans)
    (h : s.pumpRefusal p ans = none) (nozzle : Nat) :
    let n := s.crewAccount ans
    let a := s.account n
    let granted := (min (s.wantedHold : Int) a.available).toNat
    let held := (s.setAccount n { a with
      holds := a.holds ++ [{ id := freeHoldId a.holds, pump := p, amount := granted }] }).recompute n
    s.cardAtPump p nozzle card =
      match a.holdRefusal s.wantedHold (minimumSale s.rateRows) with
      | some reason => s.post (.pumpDenied p nozzle card (.hold reason))
      | none =>
        held.openSale p (Sale.opened (some n) (some card) nozzle ((s.pump p).gradeOf nozzle) (s.nozzlePrice p nozzle) granted
          (some (freeHoldId a.holds)) s.clock) := by
  intro n a granted held
  simp only [State.cardAtPump, consult, h]
  cases refusal : a.holdRefusal s.wantedHold (minimumSale s.rateRows) with
  | some reason => rw [State.hold_refused (s := s) refusal]
  | none => rw [State.hold_granted (s := s) refusal]

/-- Settles O40: the reply by the pump's state, the card read by its first failing check, and the completion step by step. -/
theorem completedSalesAreSettledAndPlaced : Obligations.CompletedSalesAreSettledAndPlaced := by
  refine ⟨fun s p st => ?reply, fun s p nozzle card => ?card, fun s p q reason fromReply h => State.completeSale_eq h reason fromReply,
    fun s p sale _ => ⟨State.placeSale_free sale, State.placeSale_held sale, fun old newer => State.placeSale_over sale⟩, endReasonOf_eq⟩
  case reply =>
    intro x ended taken lifted reason judged was back resumed
    refine ⟨rfl, fun h => State.judgePump_offline h st, fun h mark => State.judgePump_passed h mark st, fun h mark => ?ready,
      fun h mark => ?delivery, fun h mark => State.judgePump_closed h mark st, fun h mark => ?armed, fun h mark => ?returns⟩
    case ready => exact (State.judgePump_ready h mark st).trans (State.judgeReady_eq s p st)
    case delivery => exact (State.judgePump_delivery h mark st).trans (State.judgeDelivery_eq s p st)
    case armed =>
      refine (State.judgePump_suspect h st).trans ?_
      rw [State.suspectReturn]
      exact if_pos mark
    case returns =>
      refine (State.judgePump_suspect h st).trans ?_
      rw [State.suspectReturn]
      refine (if_neg (by rw [mark]; exact Bool.false_ne_true)).trans ?_
      rfl
  case card =>
    intro x read denied
    refine ⟨fun h => ?blocked, fun idle blocked => ?busy, fun h table => ?table, fun h valid none => ?unknown, fun r row h valid hit => ?hit⟩
    case blocked => exact State.cardAtPump_denied (by simp only [State.pumpRefusal, show (s.pump p).state = .blocked from h]) nozzle
    case busy =>
      refine State.cardAtPump_denied (r := .busy) ?_ nozzle
      unfold State.pumpRefusal
      split
      · exact absurd ‹_› idle
      · exact absurd ‹_› blocked
      · rfl
    case table =>
      refine State.cardAtPump_denied ?_ nozzle
      simp only [State.consult_table card table, State.pumpRefusal, show (s.pump p).state = .idle from h]
    case unknown =>
      refine State.cardAtPump_denied ?_ nozzle
      simp only [State.consult_unknown card valid none, State.pumpRefusal, show (s.pump p).state = .idle from h]
    case hit =>
      intro n a wanted grade price granted sale held
      have consult := State.consult_hit card valid hit
      have refusal := State.pumpRefusal_hit h r row
      have account : s.crewAccount (.hit r row) = n := State.crewAccount_hit ..
      have denies {reason : PumpRefusal} (e : s.pumpRefusal p (.hit r row) = some reason) : read = denied reason :=
        State.cardAtPump_denied (by rw [consult, e]) nozzle
      by_cases time : ¬ ∀ w, row.window = some w → w.1 ≤ s.clock ∧ s.clock < w.2
      · exact (denies (refusal.trans (if_pos time))).trans (if_pos time).symm
      by_cases kind : row.kind ≠ .crew
      · rw [if_neg time, if_pos kind]
        exact denies (refusal.trans ((if_neg time).trans (if_pos kind)))
      by_cases berth : ¬ ∃ b, row.berth = some b ∧ (s.berth b).state = .occupied
      · rw [if_neg time, if_neg kind, if_pos berth]
        exact denies (refusal.trans ((if_neg time).trans ((if_neg kind).trans (if_pos berth))))
      by_cases rates : s.rates.state ≠ .valid
      · rw [if_neg time, if_neg kind, if_neg berth, if_pos rates]
        exact denies (refusal.trans ((if_neg time).trans ((if_neg kind).trans ((if_neg berth).trans (if_pos rates)))))
      have passes : s.pumpRefusal p (.hit r row) = none :=
        refusal.trans ((if_neg time).trans ((if_neg kind).trans ((if_neg berth).trans (if_neg rates))))
      have asked := State.cardAtPump_passed consult passes nozzle
      rw [account] at asked
      rw [if_neg time, if_neg kind, if_neg berth, if_neg rates]
      refine asked.trans ?_
      have w : s.wantedHold = wanted := rfl
      rw [w]
      cases a.holdRefusal wanted (minimumSale s.rateRows) with
      | some reason => rfl
      | none =>
        have pump : held.pump p = x := ((FundsOnly.setAccount s n _).trans (.recompute _ n)).pump p
        show held.openSale p sale = _
        rw [State.openSale, pump]
        rfl

end Sys2Proof.Machine

/-! PROOFS. The Arm Bus Masters (chapter 9): the error count, isolation and the probe count (R181 to R183), and ARM-MODE (R184). -/

namespace Sys2Proof.Machine

variable {s t : State} {a : Nat}

/-! ### An arm whose stations have left PRESENT -/

/-- From `s` to `t` the stations of an arm have taken their links by a rule and their owners are told; besides, only the arm's record, the
relay requests, the trunk and the notices have changed. -/
structure Relinked (f : Station → Station) (s t : State) (a : Nat) : Prop where
  rest : t = { s with
    arms := t.arms, gates := t.gates, pumps := t.pumps, relays := t.relays, trunk := t.trunk, notices := t.notices }
  slots : ∀ d, t.slot a d = { s.slot a d with station := (s.slot a d).station.map f }
  arms : ∀ b, b ≠ a → t.arm b = s.arm b
  owners : OwnersCutOff s t a

namespace Relinked

variable {f : Station → Station}

theorem relinkStations (s : State) (hf : ∀ st, (f st).link ≠ .present) (ha : a < 6) : Relinked f s (s.relinkStations a f true) a := by
  obtain ⟨changed, slots⟩ := s.relinkStations_slots f true ha
  refine ⟨?_, slots, changed.arms, s.relinkStations_owners hf ha⟩
  rw [changed.rest]

/-- What the arm's record said besides its slots before its stations took their links does not matter. -/
theorem before {A : Arm} (e : A.slots = (s.arm a).slots) (ha : a < 6) (h : Relinked f (s.setArm a A) t a) : Relinked f s t a := by
  have slot (d : Nat) : (s.setArm a A).slot a d = s.slot a d := by
    rw [State.slot_setArm, if_pos ⟨rfl, ha⟩, Arm.slot, e]
    rfl
  refine ⟨?_, fun d => ?_, fun b hb => ?_, ?_⟩
  · rw [h.rest]
    rfl
  · rw [h.slots, slot]
  · rw [h.arms b hb, State.arm_setArm, if_neg fun w => hb w.1.symm]
  · have := h.owners
    simp only [OwnersCutOff, State.link, State.row, slot] at this
    exact this

/-- What is done after, where the arm's slots, the other arms, the gates and the pumps stay. -/
theorem after {u : State} (h : Relinked f s t a)
    (rest : u = { t with arms := u.arms, relays := u.relays, trunk := u.trunk, notices := u.notices })
    (slot : ∀ d, u.slot a d = t.slot a d) (arm : ∀ b, b ≠ a → u.arm b = t.arm b) : Relinked f s u a := by
  have gates : u.gates = t.gates := by rw [rest]
  have pumps : u.pumps = t.pumps := by rw [rest]
  refine ⟨?_, fun d => (slot d).trans (h.slots d), fun b hb => (arm b hb).trans (h.arms b hb), ?_⟩
  · rw [rest, h.rest]
  · have := h.owners
    unfold OwnersCutOff State.gate State.pump at this ⊢
    rwa [gates, pumps]

theorem setArm (h : Relinked f s t a) (ha : a < 6) {A : Arm} (e : A.slots = (t.arm a).slots) : Relinked f s (t.setArm a A) a := by
  refine h.after rfl (fun d => ?_) fun b hb => ?_
  · rw [State.slot_setArm, if_pos ⟨rfl, ha⟩, Arm.slot, e]
    rfl
  · rw [State.arm_setArm, if_neg fun w => hb w.1.symm]

theorem post (h : Relinked f s t a) (b : NoticeBody) : Relinked f s (t.post b) a :=
  h.after rfl (fun _ => rfl) fun _ _ => rfl

/-- The rows and the posts of the arm stay. -/
theorem station (h : Relinked f s t a) (d : Nat) :
    (t.slot a d).station = (s.slot a d).station.map f ∧ t.row a d = s.row a d ∧ t.post? a d = s.post? a d := by
  unfold State.row State.post?
  rw [h.slots]
  exact ⟨rfl, rfl, rfl⟩

end Relinked

theorem Station.unseen_link (st : Station) : st.unseen.link ≠ .present := nofun

/-! ### The error count (R181, R182) -/

theorem State.slot_setArm_of_slots {A : Arm} (e : A.slots = (s.arm a).slots) (b d : Nat) : (s.setArm a A).slot b d = s.slot b d := by
  rw [State.slot_setArm]
  split
  · next h => rw [Arm.slot, e, h.1]; rfl
  · rfl

theorem State.arm_setArm_other {b : Nat} (A : Arm) (h : b ≠ a) : (s.setArm a A).arm b = s.arm b := by
  rw [State.arm_setArm, if_neg fun w => h w.1.symm]

/-- A new record for an arm, with its slots kept, and new notices. -/
theorem State.setArm_withNotices (ha : a < 6) {A : Arm} (e : A.slots = (s.arm a).slots) (q : NoticeQueue) :
    let t : State := { s.setArm a A with notices := q }
    t.arm a = A ∧ t.notices = q ∧ (∀ b, b ≠ a → t.arm b = s.arm b) ∧ (∀ d, t.slot a d = s.slot a d) ∧ t.gates = s.gates ∧
      t.pumps = s.pumps :=
  ⟨State.arm_setArm_self ha A, rfl, fun _ hb => State.arm_setArm_other A hb, fun d => State.slot_setArm_of_slots e a d, rfl, rfl⟩

theorem ArmState.serves_eq_false (x : ArmState) : x.serves = false ↔ ¬ (x = .active ∨ x = .degraded) := by
  cases x <;> simp [ArmState.serves]

theorem State.errors_idle (h : (s.arm a).state.serves = false) : s.errorsBad a = s ∧ s.errorsGood a = s :=
  ⟨if_pos h, if_pos h⟩

/-- A bad exchange below the bound of the count. -/
theorem State.errorsBad_eq (ha : a < 6) (h : ¬ (s.arm a).state.serves = false) (hn : (s.arm a).errors + 8 ≤ 255) :
    s.errorsBad a =
      let A := s.arm a
      let n := A.errors + 8
      let warned : NoticeQueue := if A.errors < 96 ∧ 96 ≤ n then s.notices.post s.clock (.armWarning a n) else s.notices
      { s.setArm a { A with errors := n, state := if A.state = .active ∧ 128 ≤ n then .degraded else A.state } with
        notices := if A.state = .active ∧ 128 ≤ n then warned.post s.clock (.armState a .active .degraded .errors n) else warned } := by
  have warn (x : State) (c : Prop) [Decidable c] (b : NoticeBody) :
      x.postIf (decide c) b = { x with notices := if c then x.notices.post x.clock b else x.notices } := by
    by_cases hc : c <;> simp [State.postIf, State.post, hc]
    rfl
  unfold State.errorsBad
  simp only [if_neg h, if_neg (Nat.not_lt.mpr hn), warn]
  split
  · simp only [State.post]
    rw [show ∀ q, ({ s.setArm a { s.arm a with errors := (s.arm a).errors + 8 } with notices := q } : State).arm a =
      { s.arm a with errors := (s.arm a).errors + 8 } from fun _ => State.arm_setArm_self ha _]
    simp only [State.setArm, tabSet_tabSet]
    rfl
  · rfl

/-- A good exchange on the count. -/
theorem State.errorsGood_eq (ha : a < 6) (h : ¬ (s.arm a).state.serves = false) :
    s.errorsGood a =
      let A := s.arm a
      let n := A.errors - 1
      { s.setArm a { A with errors := n, state := if A.state = .degraded ∧ n < 128 then .active else A.state } with
        notices :=
          if A.state = .degraded ∧ n < 128 then s.notices.post s.clock (.armState a .degraded .active .errors n) else s.notices } := by
  unfold State.errorsGood
  simp only [if_neg h]
  split
  · simp only [State.post, State.arm_setArm_self ha]
    simp only [State.setArm, tabSet_tabSet]
    rfl
  · rfl

/-- What isolation leaves (R182). -/
theorem State.isolate_relinked (s : State) (ha : a < 6) : Relinked Station.silenced s (s.isolate a) a :=
  Relinked.post (Relinked.setArm (Relinked.relinkStations s Station.silenced_link ha) ha (A := {
    ((s.relinkStations a Station.silenced true).arm a).stopped with
      state := .isolated, errors := 0, probes := 0, probeTimer := true }) rfl) _

theorem State.arm_isolate (s : State) (ha : a < 6) :
    (s.isolate a).arm a = { (s.arm a).stopped with
      slots := ((s.isolate a).arm a).slots, state := .isolated, errors := 0, probes := 0, probeTimer := true } := by
  have e := (s.relinkStations_slots Station.silenced true ha).1.arm
  have arm : (s.isolate a).arm a = { ((s.relinkStations a Station.silenced true).arm a).stopped with
      state := .isolated, errors := 0, probes := 0, probeTimer := true } := State.arm_setArm_self ha _
  rw [arm, e]
  rfl

/-! ### ACTIVE -/

theorem State.inPriority_congr {d : Nat} (row : t.row a d = s.row a d) (post : t.post? a d = s.post? a d)
    (sale : ∀ n, (t.pump n).sale = (s.pump n).sale) : t.inPriority a d = s.inPriority a d := by
  unfold State.inPriority
  rw [row, post]
  cases s.row a d with
  | pump n g0 g1 => exact congrArg Option.isSome (sale n)
  | _ => rfl

/-- The record of an arm that has entered ACTIVE, besides its slots. -/
def Arm.activated (A : Arm) (l : List Nat) : Arm :=
  { A.stopped with
    state := .active, periodRunning := some A.period, slotRunning := some A.slotInterval
    sweep := if l = [] then none else some l }

theorem State.activate_eq (s : State) (tell : Bool) (ha : a < 6) :
    s.activate a tell = (s.relinkStations a Station.unseen tell).setArm a
      (((s.relinkStations a Station.unseen tell).arm a).activated (s.priorityList a)) := by
  obtain ⟨changed, slots⟩ := s.relinkStations_slots Station.unseen tell ha
  unfold State.activate
  generalize s.relinkStations a Station.unseen tell = u at changed slots ⊢
  have list (A : Arm) (e : A.slots = (u.arm a).slots) : (u.setArm a A).priorityList a = s.priorityList a := by
    refine List.filter_congr fun d _ => State.inPriority_congr ?_ ?_ changed.sale
    · unfold State.row
      rw [State.slot_setArm_of_slots e, slots]
    · unfold State.post?
      rw [State.slot_setArm_of_slots e, slots]
  have serving (A : Arm) (e : A.slots = (u.arm a).slots) : (u.setArm a A).startSweep a =
      u.setArm a { A with sweep := if (s.priorityList a).isEmpty then none else some (s.priorityList a), sweepWaiting := false } := by
    unfold State.startSweep
    dsimp only
    rw [list A e, State.arm_setArm_self ha, State.setArm_setArm]
  refine Eq.trans (serving { (u.arm a).stopped with
    state := .active, periodRunning := some (u.arm a).period, slotRunning := some (u.arm a).slotInterval } rfl) ?_
  refine congrArg (u.setArm a) ?_
  cases s.priorityList a <;> rfl

theorem State.activate_relinked (s : State) (ha : a < 6) : Relinked Station.unseen s (s.activate a true) a := by
  rw [s.activate_eq true ha]
  exact (Relinked.relinkStations s Station.unseen_link ha).setArm ha rfl

theorem State.arm_activate (s : State) (ha : a < 6) :
    (s.activate a true).arm a = { (s.arm a).activated (s.priorityList a) with slots := ((s.activate a true).arm a).slots } := by
  rw [s.activate_eq true ha, State.arm_setArm_self ha]
  rw [(s.relinkStations_slots Station.unseen true ha).1.arm]
  rfl

theorem State.notices_activate (s : State) (ha : a < 6) :
    (s.activate a true).notices = s.notices ∧ (s.activate a true).clock = s.clock ∧ (s.activate a true).relays = s.relays ∧
      (s.activate a true).trunk = s.trunk := by
  rw [s.activate_eq true ha, (s.relinkStations_slots Station.unseen true ha).1.rest]
  exact ⟨rfl, rfl, rfl, rfl⟩

/-! ### Probes (R183) -/

theorem State.probeOutcome_bad (s : State) : s.probeOutcome a false = s.setArm a { s.arm a with probes := 0 } := rfl

/-- A good probe that decides nothing. -/
theorem State.probeOutcome_counts (h : ¬ ((s.arm a).state = .isolated ∧ 15 ≤ (s.arm a).probes)) :
    s.probeOutcome a true = s.setArm a { s.arm a with probes := min ((s.arm a).probes + 1) 16 } := by
  have count : satAdd 16 (s.arm a).probes 1 = min ((s.arm a).probes + 1) 16 := rfl
  have undecided : ¬ ((s.arm a).state = .isolated ∧ 16 ≤ min ((s.arm a).probes + 1) 16) := fun w => h ⟨w.1, by omega⟩
  unfold State.probeOutcome
  simp only [count, if_neg undecided]
  rfl

/-- The sixteenth good probe of an ISOLATED arm, and each after it, restores the arm with the flag set and reports it without. -/
theorem State.probeOutcome_decides (h : (s.arm a).state = .isolated) (hp : 15 ≤ (s.arm a).probes) :
    ((s.arm a).autoRestore = true → s.probeOutcome a true =
      ((s.setArm a { s.arm a with probes := 16 }).activate a true).post (.armState a .isolated .active .probes (s.arm a).errors)) ∧
    ((s.arm a).autoRestore = false → s.probeOutcome a true =
      (s.setArm a { s.arm a with probes := 16 }).postIf (decide ((s.arm a).probes < 16))
        (.armReachable a ((s.arm a).anchorInForce.getD 0))) := by
  have count : satAdd 16 (s.arm a).probes 1 = 16 := by
    simp only [satAdd]
    omega
  have decided : s.probeOutcome a true =
      if (s.arm a).autoRestore = true then
        ((s.setArm a { s.arm a with probes := 16 }).activate a true).post (.armState a .isolated .active .probes (s.arm a).errors)
      else (s.setArm a { s.arm a with probes := 16 }).postIf (decide ((s.arm a).probes < 16))
        (.armReachable a ((s.arm a).anchorInForce.getD 0)) := by
    unfold State.probeOutcome
    simp only [count]
    exact (if_neg nofun).trans (if_pos ⟨h, Nat.le_refl 16⟩)
  exact ⟨fun hr => decided.trans (if_pos hr), fun hr => decided.trans (if_neg (by rw [hr]; nofun))⟩

/-- Settles O43: by the error count's own cases, isolation and restoration through what a relinking of an arm's stations leaves. -/
theorem errorCountAndIsolation : Obligations.ErrorCountAndIsolation := by
  unfold Obligations.ErrorCountAndIsolation
  intro s a ha A n runs
  have serves : runs → ¬ A.state.serves = false := fun h w => (ArmState.serves_eq_false _).mp w h
  refine ⟨fun h => State.errors_idle ((ArmState.serves_eq_false _).mpr h), fun h hn => ?_, fun h hn => ?_, fun h => ?_,
    s.probeOutcome_bad, fun h => State.probeOutcome_counts fun w => h w.1, fun h => ⟨fun hp => ?_, fun hp hr => ?_, fun hp hr => ?_,
    fun hp hr => ?_⟩⟩
  case refine_1 =>
    dsimp only
    rw [State.errorsBad_eq ha (serves h) hn]
    obtain ⟨arm, kept⟩ := State.setArm_withNotices (s := s) ha
      (A := { s.arm a with errors := n, state := if A.state = .active ∧ 128 ≤ n then .degraded else A.state }) rfl _
    exact ⟨congrArg Arm.errors arm, congrArg Arm.state arm, kept⟩
  case refine_2 =>
    have isolated : s.errorsBad a = s.isolate a := (if_neg (serves h)).trans (if_pos hn)
    dsimp only
    rw [isolated]
    have arm := s.arm_isolate ha
    have left := s.isolate_relinked ha
    have rest := (s.relinkStations_slots Station.silenced true ha).1.rest
    refine ⟨congrArg Arm.errors arm, congrArg Arm.probes arm, congrArg Arm.state arm, congrArg Arm.sweep arm, congrArg Arm.pollDue arm,
      congrArg Arm.periodRunning arm, congrArg Arm.slotRunning arm, congrArg Arm.probeTimer arm, (congrArg Arm.inFlight arm :),
      fun d => ?_, left.arms, left.owners, ?_⟩
    · have rule : (fun st : Station => { st with link := if st.link = .present then .silent else st.link }) = Station.silenced := by
        funext st
        unfold Station.silenced
        split <;> rfl
      rw [rule]
      exact left.station d
    · unfold State.isolate
      rw [rest]
      rfl
  case refine_3 =>
    dsimp only
    rw [State.errorsGood_eq ha (serves h)]
    obtain ⟨arm, notices, arms, slots, -⟩ := State.setArm_withNotices (s := s) ha
      (A := { s.arm a with errors := A.errors - 1, state := if A.state = .degraded ∧ A.errors - 1 < 128 then .active else A.state }) rfl _
    exact ⟨congrArg Arm.errors arm, congrArg Arm.state arm, notices, arms, slots⟩
  case refine_4 =>
    rw [State.probeOutcome_counts fun w => Nat.not_lt.mpr w.2 hp,
      Nat.min_eq_left (show (s.arm a).probes + 1 ≤ 16 by exact Nat.le_succ_of_le hp)]
  case refine_5 =>
    rw [(State.probeOutcome_decides h (Nat.le_of_eq hp.symm)).2 hr, decide_eq_true (show (s.arm a).probes < 16 from hp ▸ by decide)]
    rfl
  case refine_6 =>
    rw [(State.probeOutcome_decides h (by rw [show (s.arm a).probes = 16 from hp]; decide)).2 hr,
      decide_eq_false (show ¬ (s.arm a).probes < 16 by rw [show (s.arm a).probes = 16 from hp]; decide)]
    rfl
  case refine_7 =>
    have restored := (State.probeOutcome_decides h hp).1 hr
    have left := (Relinked.before (A := { s.arm a with probes := 16 }) rfl ha (State.activate_relinked _ ha)).post
      (.armState a .isolated .active .probes A.errors)
    obtain ⟨notices, clock, -⟩ := State.notices_activate (s.setArm a { s.arm a with probes := 16 }) ha
    dsimp only
    rw [restored]
    refine ⟨congrArg Arm.state (State.arm_activate _ ha), ?_, left.owners, fun d => (left.station d).1⟩
    rw [State.notices_post, notices, clock]
    rfl

end Sys2Proof.Machine

/-! PROOFS. The end of a transfer (R195 to R197) and ARM-MODE (R184). -/

namespace Sys2Proof.Machine

variable {s t u : State} {a : Nat}

/-! ### What the Relay Engine leaves -/

/-- From `s` to `t` only the relay requests, the trunk and the notices have changed. -/
def RelaysOnly (s t : State) : Prop :=
  t = { s with relays := t.relays, trunk := t.trunk, notices := t.notices }

namespace RelaysOnly

theorem refl (s : State) : RelaysOnly s s := rfl

theorem trans (h : RelaysOnly s t) (k : RelaysOnly t u) : RelaysOnly s u := by
  unfold RelaysOnly at *
  rw [k, h]

theorem setRelays (s : State) (l : List RelayRequest) : RelaysOnly s (s.setRelays l) := rfl

theorem post (s : State) (b : NoticeBody) : RelaysOnly s (s.post b) := rfl

theorem sendRelayResult (s : State) (q : RelayRequest) : RelaysOnly s (s.sendRelayResult q) := by
  unfold State.sendRelayResult
  split <;> rfl

theorem foldl {β : Type} {f : State → β → State} (hf : ∀ s x, RelaysOnly s (f s x)) (l : List β) (s : State) :
    RelaysOnly s (l.foldl f s) := by
  induction l generalizing s with
  | nil => exact refl s
  | cons x l ih => exact (hf s x).trans (ih _)

theorem completeRelays (s : State) : RelaysOnly s s.completeRelays :=
  (setRelays s _).trans (foldl sendRelayResult _ _)

theorem endTransfer (s : State) (a : Nat) (c : EndCause) : RelaysOnly s (s.endTransfer a c) :=
  (setRelays s _).trans (completeRelays _)

theorem relayEnd (s : State) (a : Nat) (good : Option (List Byte)) : RelaysOnly s (s.relayEnd a good) := by
  unfold State.relayEnd
  split
  · exact (setRelays s _).trans (completeRelays _)
  · exact endTransfer ..

theorem arms (h : RelaysOnly s t) : t.arms = s.arms := by rw [h]

theorem gates (h : RelaysOnly s t) : t.gates = s.gates := by rw [h]

theorem pumps (h : RelaysOnly s t) : t.pumps = s.pumps := by rw [h]

theorem clock (h : RelaysOnly s t) : t.clock = s.clock := by rw [h]

theorem arm (h : RelaysOnly s t) (a : Nat) : t.arm a = s.arm a := by
  unfold State.arm
  rw [h.arms]

end RelaysOnly

/-- The result of a complete request leaves the engine's list as it is. -/
theorem State.relays_sendResults (l : List RelayRequest) (s : State) : (l.foldl State.sendRelayResult s).relays = s.relays := by
  induction l generalizing s with
  | nil => rfl
  | cons q l ih =>
    refine (ih _).trans ?_
    unfold State.sendRelayResult
    split <;> rfl

/-- The requests with a transfer still in flight stay in the engine, in their order (R196). -/
theorem State.relays_completeRelays (s : State) : s.completeRelays.relays = s.relays.filter (fun q => q.inFlight) :=
  State.relays_sendResults ..

/-- Without its transfer in flight an arm has none (R197). -/
theorem State.transferOn_endTransfer (s : State) (a : Nat) (c : EndCause) : (s.endTransfer a c).transferOn a = none := by
  refine List.findSome?_eq_none_iff.mpr fun q hq => ?_
  have hq := State.relays_completeRelays (s.updateTransfer a fun t => { t with endCause := some c }) ▸ hq
  obtain ⟨q, -, rfl⟩ := List.mem_map.mp (List.mem_filter.mp hq |>.1)
  refine Option.map_eq_none_iff.mpr (List.find?_eq_none.mpr fun t ht => ?_)
  obtain ⟨t, -, rfl⟩ := List.mem_map.mp ht
  by_cases h : t.runsOn a = true
  · rw [if_pos h]
    simp [Transfer.runsOn]
  · rwa [if_neg h]

/-- A state with other arms, gates and pumps. -/
def State.withBuses (s t : State) : State :=
  { s with arms := t.arms, gates := t.gates, pumps := t.pumps }

theorem State.completeRelays_withBuses (s t : State) : (s.withBuses t).completeRelays = s.completeRelays.withBuses t := by
  refine List.foldl_hom (fun x => State.withBuses x t) (init := s.setRelays (s.relays.filter fun q => q.inFlight)) fun x q => ?_
  unfold State.sendRelayResult
  split <;> rfl

/-- The end of a transfer does not look at the arms, the gates and the pumps. -/
theorem State.endTransfer_withBuses (s t : State) (a : Nat) (c : EndCause) :
    (s.withBuses t).endTransfer a c = (s.endTransfer a c).withBuses t :=
  State.completeRelays_withBuses (s.updateTransfer a fun x => { x with endCause := some c }) t

theorem State.transferOn_congr (h : t.relays = s.relays) (a : Nat) : t.transferOn a = s.transferOn a := by
  unfold State.transferOn
  rw [h]

/-! ### ARM-MODE -/

theorem State.priorityList_setArm {A : Arm} (e : A.slots = (s.arm a).slots) : (s.setArm a A).priorityList a = s.priorityList a := by
  refine List.filter_congr fun d _ => State.inPriority_congr ?_ ?_ fun _ => rfl
  · unfold State.row
    rw [State.slot_setArm_of_slots e]
  · unfold State.post?
    rw [State.slot_setArm_of_slots e]

namespace Relinked

variable {f : Station → Station}

theorem relaysOnly (h : Relinked f s t a) (k : RelaysOnly t u) : Relinked f s u a := by
  refine h.after ?_ (fun d => ?_) fun b _ => k.arm b
  · rw [k]
  · unfold State.slot
    rw [k.arm]

end Relinked

/-- An arm brought up by the office: its stations, its record and the notice (R184). -/
theorem State.bringUp_leaves (s : State) (ha : a < 6) :
    Relinked Station.unseen s (s.bringUp a) a ∧
    (s.bringUp a).arm a = { ({ s.arm a with errors := 0, probes := 0 } : Arm).activated (s.priorityList a) with
      slots := ((s.bringUp a).arm a).slots } ∧
    (s.bringUp a).relays = s.relays ∧ (s.bringUp a).trunk = s.trunk ∧
    (s.bringUp a).notices = s.notices.post s.clock (.armState a (s.arm a).state .active .office 0) := by
  have left := Relinked.before (A := { s.arm a with errors := 0, probes := 0 }) rfl ha (State.activate_relinked _ ha)
  obtain ⟨notices, clock, relays, trunk⟩ := State.notices_activate (s.setArm a { s.arm a with errors := 0, probes := 0 }) ha
  have arm := State.arm_activate (s.setArm a { s.arm a with errors := 0, probes := 0 }) ha
  rw [State.priorityList_setArm (A := { s.arm a with errors := 0, probes := 0 }) rfl, State.arm_setArm_self ha] at arm
  refine ⟨left.post _, arm, relays, trunk, ?_⟩
  unfold State.bringUp
  dsimp only
  rw [State.notices_post, notices, clock]
  rfl

/-- The state in which an arm taken down ends its transfer. -/
def State.silencedBus (s : State) (a : Nat) : State :=
  let t := (s.setArm a { s.arm a with inFlight := none }).relinkStations a Station.unseen true
  t.setArm a { (t.arm a).stopped with state := .disabled, errors := 0 }

theorem State.takeDown_eq (s : State) (a : Nat) :
    s.takeDown a = ((s.silencedBus a).endTransfer a .disabled).post (.armState a (s.arm a).state .disabled .office 0) := rfl

theorem State.silencedBus_leaves (s : State) (ha : a < 6) :
    Relinked Station.unseen s (s.silencedBus a) a ∧
    (s.silencedBus a).arm a = { (s.arm a).stopped with
      slots := ((s.silencedBus a).arm a).slots, state := .disabled, errors := 0, inFlight := none } ∧
    s.silencedBus a = s.withBuses (s.silencedBus a) := by
  have relinked := Relinked.relinkStations (s.setArm a { s.arm a with inFlight := none }) Station.unseen_link ha
  have changed := ((s.setArm a { s.arm a with inFlight := none }).relinkStations_slots Station.unseen true ha).1
  have arm := changed.arm
  have rest := changed.rest
  rw [State.arm_setArm_self ha] at arm
  unfold State.silencedBus
  generalize (s.setArm a { s.arm a with inFlight := none }).relinkStations a Station.unseen true = t at relinked arm rest
  refine ⟨(Relinked.before (A := { s.arm a with inFlight := none }) rfl ha relinked).setArm ha rfl, ?_, ?_⟩
  · dsimp only
    rw [State.arm_setArm_self ha, arm]
    rfl
  · rw [rest]
    rfl

/-- An arm taken down (R184): its stations, its record, its transfer and the notice. -/
theorem State.takeDown_leaves (s : State) (ha : a < 6) :
    let ended := s.endTransfer a .disabled
    Relinked Station.unseen s (s.takeDown a) a ∧
    (s.takeDown a).arm a = { (s.arm a).stopped with
      slots := ((s.takeDown a).arm a).slots, state := .disabled, errors := 0, inFlight := none } ∧
    (s.takeDown a).relays = ended.relays ∧ (s.takeDown a).trunk = ended.trunk ∧
    (s.takeDown a).notices = ended.notices.post s.clock (.armState a (s.arm a).state .disabled .office 0) := by
  obtain ⟨relinked, arm, buses⟩ := s.silencedBus_leaves ha
  have only := RelaysOnly.endTransfer (s.silencedBus a) a .disabled
  have ended : (s.silencedBus a).endTransfer a .disabled = (s.endTransfer a .disabled).withBuses (s.silencedBus a) := by
    rw [← State.endTransfer_withBuses, ← buses]
  have clock : (s.silencedBus a).clock = s.clock := by
    rw [buses]
    rfl
  rw [State.takeDown_eq]
  have relinked := relinked.relaysOnly only
  have arm : ((s.silencedBus a).endTransfer a .disabled).arm a = { (s.arm a).stopped with
      slots := (((s.silencedBus a).endTransfer a .disabled).arm a).slots, state := .disabled, errors := 0, inFlight := none } := by
    rw [only.arm, arm]
  refine ⟨relinked.post _, arm, ?_, ?_, ?_⟩
  · rw [ended]
    rfl
  · rw [ended]
    rfl
  · rw [State.notices_post, only.clock, clock, ended]
    rfl

theorem Relinked.unseen (h : Relinked Station.unseen s t a) :
    (∀ d, (t.slot a d).station = (s.slot a d).station.map (fun _ => { link := .unseen, missed := 0 }) ∧
      t.row a d = s.row a d ∧ t.post? a d = s.post? a d) ∧
    (∀ b, b ≠ a → t.arm b = s.arm b) ∧ OwnersCutOff s t a ∧ t.berths = s.berths ∧ t.accounts = s.accounts ∧
    t.presence = s.presence ∧ t.rates = s.rates ∧ t.creds = s.creds ∧ t.clock = s.clock := by
  refine ⟨h.station, h.arms, h.owners, ?_⟩
  rw [h.rest]
  exact ⟨rfl, rfl, rfl, rfl, rfl, rfl⟩

/-- Settles O41: the three requests by their checks, and what the arm brought up and the arm taken down leave. -/
theorem armModeFollowsItsTable : Obligations.ArmModeFollowsItsTable := by
  unfold Obligations.ArmModeFollowsItsTable
  refine ⟨fun s tag a room => ?_, fun s tag a room => ?_, fun s tag a room => ?_, fun s a ha => ?_⟩
  · refine (finishBus_takeRequest room 0x50 tag a judgeEnable).trans (congrArg _ ?_)
    simp only [judgeEnable, isArm_false_iff, Judged.endedBus_ite, Judged.endedBus_refuse, Judged.endedBus_doneWith, ite_not]
    rfl
  · refine (finishBus_takeRequest room 0x50 tag a judgeRestore).trans (congrArg _ ?_)
    simp only [judgeRestore, isArm_false_iff, Judged.endedBus_ite, Judged.endedBus_refuse, Judged.endedBus_doneWith, ite_not]
    rfl
  · refine (finishBus_takeRequest room 0x50 tag a judgeDisable).trans (congrArg _ ?_)
    simp only [judgeDisable, isArm_false_iff, Judged.endedBus_ite, Judged.endedBus_refuse]
    refine ite_congr rfl (fun _ => rfl) fun _ => ite_congr rfl (fun _ => rfl) fun _ => ?_
    have busy : s.frameTaken.needsBus a = s.needsBus a := rfl
    rw [busy]
    change _ = match addresses.find? (s.needsBus a) with
      | some d => s.frameTaken.answeredBus tag 0x50 .state (.station d)
      | none => (s.frameTaken.takeDown a).answeredBus tag 0x50 .done .empty
    cases addresses.find? (s.needsBus a) <;> rfl
  · intro unseen
    obtain ⟨up, upArm, upRelays, upTrunk, upNotices⟩ := s.bringUp_leaves ha
    obtain ⟨down, downArm, downRelays, downTrunk, downNotices⟩ := s.takeDown_leaves ha
    refine ⟨⟨up.unseen, upRelays, upTrunk, ?_⟩, down.unseen, ?_, downRelays, downTrunk, downNotices, ?_⟩
    · rw [upArm, upNotices]
      exact ⟨rfl, rfl, rfl, rfl, rfl, rfl, rfl, rfl, rfl, rfl⟩
    · exact (State.transferOn_congr downRelays a).trans (State.transferOn_endTransfer s a .disabled)
    · rw [downArm]
      exact ⟨rfl, rfl, rfl, rfl, rfl, rfl, rfl, rfl, rfl, rfl⟩

end Sys2Proof.Machine

/-! PROOFS. The exchange on an arm bus (R174): its events, the outcome given to its owner (R190) and to the station's link (R179, R180). -/

namespace Sys2Proof.Machine

variable {s t u : State} {a d : Nat}

/-! ### Marks that an ACK clears (R76, R107, R153) -/

/-- What a good ACK leaves of a gate: a mark set again stays. -/
theorem Gate.acked_eq (x : Gate) :
    x.acked = { x with awaitsHeldEnd := false, mark := if x.mark.any (·.setAgain) = true then x.mark else none } := by
  obtain ⟨station, strikeTime, grace, mode, doorOpen, monitor, strikeEnd, passageSeen, mark⟩ := x
  cases mark with
  | none => rfl
  | some m =>
    obtain ⟨cmd, again⟩ := m
    cases again <;> rfl

theorem Pump.acked_eq (x : Pump) (wasAuth : Bool) :
    x.acked wasAuth = { x with
      closedVolume := if wasAuth then none else x.closedVolume
      mark := if x.mark.any (·.setAgain) = true then x.mark else none } := by
  obtain ⟨station, grade0, grade1, protect, state, suspendedFrom, suspectSince, sale, slots, lost, closedVolume, mark⟩ := x
  cases mark with
  | none => cases wasAuth <;> rfl
  | some m =>
    obtain ⟨cmd, again⟩ := m
    cases again <;> cases wasAuth <;> rfl

theorem Post.acked_eq (p : Post) : p.acked = { p with mark := if p.mark.any (·.setAgain) = true then p.mark else none } := by
  obtain ⟨power0, water0, power1, water1, det0, det1, mark⟩ := p
  cases mark with
  | none => rfl
  | some m =>
    obtain ⟨w0, v0, w1, v1, safety, again⟩ := m
    cases again <;> rfl

/-! ### The owner of an exchange (R190) -/

section Deliver

variable {ex : Exchange}

theorem State.deliver_gate {n strike grace : Nat} (row : s.row a ex.addr = .gate n strike grace) :
    (∀ st, s.deliver a ex (.gate st) = s.gateStatus n st) ∧
    ∀ v, ex.req = .gateStrike v → s.deliver a ex .ack = s.setGate n (s.gate n).acked := by
  refine ⟨fun st => ?_, fun v req => ?_⟩
  · simp only [State.deliver, row]
  · simp only [State.deliver, row, req]

theorem State.deliver_pump {n g0 g1 : Nat} (row : s.row a ex.addr = .pump n g0 g1) :
    (∀ st, s.deliver a ex (.pump st) = s.pumpStatus n st) ∧
    (∀ k v, ex.req = .pumpAuth k v → s.deliver a ex .ack = s.setPump n ((s.pump n).acked true)) ∧
    (ex.req = .pumpStop → s.deliver a ex .ack = s.setPump n ((s.pump n).acked false)) := by
  refine ⟨fun st => ?_, fun k v req => ?_, fun req => ?_⟩
  · simp only [State.deliver, row]
  · simp only [State.deliver, row, req]
  · simp only [State.deliver, row, req]

theorem State.deliver_postSet {p : Post} {w0 v0 w1 v1 : Bool} (hp : s.post? a ex.addr = some p) (req : ex.req = .postSet w0 v0 w1 v1) :
    s.deliver a ex .ack = s.setPost a ex.addr p.acked := by
  simp only [State.deliver, req, hp]

theorem State.deliver_relay :
    (∀ sub data, ex.req = .relayWrite sub data → s.deliver a ex .ack = s.relayEnd a (some [])) ∧
    ∀ sub count data, ex.req = .relayRead sub count → s.deliver a ex (.data data) = s.relayEnd a (some data) := by
  refine ⟨fun sub data req => ?_, fun sub count data req => ?_⟩
  · simp only [State.deliver, req]
  · simp only [State.deliver, req]

end Deliver

/-! ### The station's link (R179, R180) -/

theorem State.stationBad_present {st : Station} (h : (s.slot a d).station = some st) (hl : st.link = .present) :
    s.stationBad a d =
      let missed := min (st.missed + 1) 15
      if (s.arm a).silence ≤ missed then
        ((s.setStation a d { link := .silent, missed := missed }).post
          (.stationSilent a d (s.row a d).kind missed)).tellUnreachable a d
      else s.setStation a d { st with missed := missed } := by
  unfold State.stationBad
  simp only [h, hl, true_and, satAdd]

theorem State.stationBad_absent {st : Station} (h : (s.slot a d).station = some st) (hl : st.link ≠ .present) :
    s.stationBad a d = s.setStation a d { st with missed := min (st.missed + 1) 15 } := by
  unfold State.stationBad
  simp only [h, hl, false_and, if_false, satAdd]

theorem State.stationGood_present {st : Station} (h : (s.slot a d).station = some st) (hl : st.link = .present) :
    s.stationGood a d = s.setStation a d { link := .present, missed := 0 } := by
  unfold State.stationGood
  simp only [h, hl, if_true]

theorem State.stationGood_absent {st : Station} (h : (s.slot a d).station = some st) (hl : st.link ≠ .present) :
    s.stationGood a d = ((s.setStation a d { link := .present, missed := 0 }).post
      (.stationPresent a d (s.row a d).kind st.link)).tellReturned a d := by
  unfold State.stationGood
  simp only [h, hl, if_false]

/-- A station's record and a notice leave the state of every arm. -/
theorem State.armState_setStation (s : State) (st : Station) (b : Nat) : ((s.setStation a d st).arm b).state = (s.arm b).state := by
  unfold State.setStation State.setSlot
  rw [State.arm_setArm]
  split
  · next h => rw [← h.1]; rfl
  · rfl

theorem State.armState_stationGood (s : State) (a d b : Nat) : ((s.stationGood a d).arm b).state = (s.arm b).state := by
  unfold State.stationGood State.tellReturned
  split
  · rfl
  · dsimp only
    split
    · exact s.armState_setStation _ b
    · split
      · exact s.armState_setStation _ b
      · exact s.armState_setStation _ b

/-- A good exchange takes no arm into DEGRADED (R181). -/
theorem State.errorsGood_state (s : State) (ha : a < 6) (h : ((s.errorsGood a).arm a).state = .degraded) : (s.arm a).state = .degraded := by
  by_cases serves : (s.arm a).state.serves = false
  · rwa [(State.errors_idle serves).2] at h
  · rw [State.errorsGood_eq ha serves] at h
    have e : (if (s.arm a).state = .degraded ∧ (s.arm a).errors - 1 < 128 then .active else (s.arm a).state) = ArmState.degraded :=
      (congrArg Arm.state (State.setArm_withNotices ha (A := { s.arm a with
        errors := (s.arm a).errors - 1
        state := if (s.arm a).state = .degraded ∧ (s.arm a).errors - 1 < 128 then .active else (s.arm a).state }) rfl _).1).symm.trans h
    split at e
    · cases e
    · exact e

/-! ### The outcome of an exchange (R174) -/

section ExchangeEnd

variable {ex : Exchange}

theorem State.exchangeEnd_probe (h : ex.req = .probe) (reply : Option ReplyContent) :
    s.exchangeEnd a ex reply = (s.setArm a { s.arm a with inFlight := none }).probeOutcome a reply.isSome :=
  if_pos h

theorem State.exchangeEnd_good (ha : a < 6) (h : ex.req ≠ .probe) (c : ReplyContent) :
    s.exchangeEnd a ex (some c) =
      ((((s.setArm a { s.arm a with inFlight := none }).stationGood a ex.addr).errorsGood a).deliver a ex c).sweepEnd a := by
  refine (if_neg h).trans (congrArg (fun t => State.sweepEnd t a) (if_neg fun w => ?_))
  obtain ⟨before, after⟩ := w
  have kept := State.errorsGood_state _ ha after
  rw [State.armState_stationGood, State.arm_setArm_self ha] at kept
  exact ArmState.noConfusion (before.symm.trans kept)

theorem State.exchangeEnd_bad (h : ex.req ≠ .probe) :
    s.exchangeEnd a ex none =
      (((((s.setArm a { s.arm a with inFlight := none }).stationBad a ex.addr).errorsBad a).failed a ex).tellRelay a (s.arm a).state
        ((((s.setArm a { s.arm a with inFlight := none }).stationBad a ex.addr).errorsBad a).arm a).state).sweepEnd a :=
  if_neg h

end ExchangeEnd

/-- What a new probe count leaves. -/
theorem State.probes_leaves (ha : a < 6) {n : Nat} (e : t.arms = (s.setArm a { s.arm a with probes := n }).arms) :
    (t.arm a).errors = (s.arm a).errors ∧ (∀ b, b ≠ a → t.arm b = s.arm b) ∧ ∀ d, t.slot a d = s.slot a d := by
  have arm (b : Nat) : t.arm b = (s.setArm a { s.arm a with probes := n }).arm b := State.arm_of_arms e b
  refine ⟨?_, fun b hb => (arm b).trans (State.arm_setArm_other _ hb), fun d => ?_⟩
  · rw [arm, State.arm_setArm_self ha]
  · exact (congrArg (fun A => Arm.slot A d) (arm a)).trans (State.slot_setArm_of_slots (A := { s.arm a with probes := n }) rfl a d)

/-- A probe restores its arm: the sixteenth good one, or a later one, of an ISOLATED arm with the flag set (R183). -/
def State.restores (s : State) (a : Nat) (good : Bool) : Prop :=
  good = true ∧ (s.arm a).state = .isolated ∧ 15 ≤ (s.arm a).probes ∧ (s.arm a).autoRestore = true

/-- A probe that does not restore its arm moves the probe count, and may post a notice. -/
theorem State.probeOutcome_arms {good : Bool} (h : ¬ s.restores a good) :
    ∃ n, (s.probeOutcome a good).arms = (s.setArm a { s.arm a with probes := n }).arms := by
  cases good with
  | false => exact ⟨0, rfl⟩
  | true =>
    by_cases decides : (s.arm a).state = .isolated ∧ 15 ≤ (s.arm a).probes
    · have off : (s.arm a).autoRestore = false := Bool.eq_false_iff.mpr fun on => h ⟨rfl, decides.1, decides.2, on⟩
      refine ⟨16, ?_⟩
      rw [(State.probeOutcome_decides decides.1 decides.2).2 off]
      unfold State.postIf
      split <;> rfl
    · exact ⟨_, congrArg State.arms (State.probeOutcome_counts decides)⟩

theorem State.probeOutcome_restored {good : Bool} (ha : a < 6) (h : s.restores a good) :
    ((s.probeOutcome a good).arm a).errors = (s.arm a).errors ∧ Relinked Station.unseen s (s.probeOutcome a good) a := by
  obtain ⟨rfl, isolated, enough, on⟩ := h
  rw [(State.probeOutcome_decides isolated enough).1 on]
  refine ⟨?_, (Relinked.before (A := { s.arm a with probes := 16 }) rfl ha (State.activate_relinked _ ha)).post _⟩
  refine (congrArg Arm.errors (State.arm_activate (s.setArm a { s.arm a with probes := 16 }) ha)).trans ?_
  rw [State.arm_setArm_self ha]
  rfl

/-- What the outcome of a probe leaves of the error count, the other arms and the stations (R183). -/
theorem State.probeOutcome_leaves (s : State) (ha : a < 6) (good : Bool) :
    ((s.probeOutcome a good).arm a).errors = (s.arm a).errors ∧ (∀ b, b ≠ a → (s.probeOutcome a good).arm b = s.arm b) ∧
      (¬ s.restores a good → ∀ d, (s.probeOutcome a good).slot a d = s.slot a d) ∧
      (s.restores a good → ∀ d, ((s.probeOutcome a good).slot a d).station = (s.slot a d).station.map Station.unseen) := by
  by_cases h : s.restores a good
  · obtain ⟨errors, relinked⟩ := State.probeOutcome_restored ha h
    exact ⟨errors, relinked.arms, fun no => (no h).elim, fun _ d => (relinked.station d).1⟩
  · obtain ⟨n, e⟩ := State.probeOutcome_arms h
    obtain ⟨errors, arms, slots⟩ := State.probes_leaves ha e
    exact ⟨errors, arms, fun _ => slots, fun yes => (h yes).elim⟩

/-! ### The events -/

theorem exec_exchangeEnds {ex : Exchange} (h : (s.arm a).inFlight = some ex) (begun : ex.begun = true) (bs : List Byte) :
    exec (.exchangeReply a bs) s =
      .next (s.exchangeEnd a ex (judgeReply (s.row a ex.addr).kind ex.addr ex.req bs)).arbitrateAll.sendNext ∧
    exec (.replyWindowExpiry a) s = .next (s.exchangeEnd a ex none).arbitrateAll.sendNext := by
  have reply : s.replyReceived a bs = s.exchangeEnd a ex (judgeReply (s.row a ex.addr).kind ex.addr ex.req bs) := by
    unfold State.replyReceived
    rw [h]
    exact if_pos begun
  have expiry : s.windowExpired a = s.exchangeEnd a ex none := by
    unfold State.windowExpired
    rw [h]
    exact if_pos begun
  exact ⟨congrArg finishBus reply,
    congrArg finishBus expiry⟩

theorem exec_exchangeNone (h : ∀ ex, (s.arm a).inFlight = some ex → ex.begun = false) (bs : List Byte) :
    exec (.exchangeReply a bs) s = .next s.arbitrateAll.sendNext ∧ exec (.replyWindowExpiry a) s = .next s.arbitrateAll.sendNext := by
  have reply : s.replyReceived a bs = s := by
    unfold State.replyReceived
    cases e : (s.arm a).inFlight with
    | none => rfl
    | some ex => exact if_neg (by rw [h ex e]; nofun)
  have expiry : s.windowExpired a = s := by
    unfold State.windowExpired
    cases e : (s.arm a).inFlight with
    | none => rfl
    | some ex => exact if_neg (by rw [h ex e]; nofun)
  exact ⟨congrArg finishBus reply,
    congrArg finishBus expiry⟩

/-- Settles O42: the events of the exchange, its owner by the content of the reply, a probe through its outcome, and the station's link. -/
theorem exchangeEventsActOnTheExchangeBegun : Obligations.ExchangeEventsActOnTheExchangeBegun := by
  unfold Obligations.ExchangeEventsActOnTheExchangeBegun
  intro s a bs
  refine ⟨rfl, fun ex h begun => exec_exchangeEnds h begun bs, fun h => exec_exchangeNone h bs, rfl, ?_, ?_, ?_⟩
  · rintro ex d rfl
    refine ⟨fun st => rfl, fun n strike grace row => ?_, fun n g0 g1 row => ?_, fun p w0 v0 w1 v1 hp req => ?_, State.deliver_relay⟩
    · obtain ⟨status, ack⟩ := State.deliver_gate row
      exact ⟨status, fun v req => (ack v req).trans (congrArg _ (Gate.acked_eq _))⟩
    · obtain ⟨status, auth, stop⟩ := State.deliver_pump row
      exact ⟨status, fun k v req => (auth k v req).trans (congrArg _ (Pump.acked_eq _ _)),
        fun req => (stop req).trans (congrArg _ (Pump.acked_eq _ _))⟩
    · exact (State.deliver_postSet hp req).trans (congrArg _ (Post.acked_eq p))
  · intro ex ha req reply
    dsimp only
    rw [State.exchangeEnd_probe req reply]
    obtain ⟨errors, arms, quiet, restored⟩ :=
      State.probeOutcome_leaves (s.setArm a { s.arm a with inFlight := none }) ha reply.isSome
    have slots := State.slot_setArm_of_slots (s := s) (A := { s.arm a with inFlight := none }) rfl
    unfold State.restores at quiet restored
    rw [State.arm_setArm_self ha] at errors quiet restored
    refine ⟨rfl, errors, fun b hb => (arms b hb).trans (State.arm_setArm_other _ hb), fun no d => (quiet no d).trans (slots a d),
      fun yes d => ?_⟩
    rw [restored yes d, slots]
    rfl
  · intro ex ha req ended
    refine ⟨State.exchangeEnd_good ha req, State.exchangeEnd_bad req, fun st h hl => ⟨?_, State.stationGood_present h hl⟩,
      fun st h hl => ⟨State.stationBad_absent h hl, ?_⟩⟩
    · rw [State.stationBad_present h hl]
      refine ite_congr rfl (fun _ => ?_) fun _ => rfl
      unfold State.tellUnreachable
      rw [show ∀ x b, ((s.setStation a ex.addr x).post b).row a ex.addr = s.row a ex.addr from
        fun x b => s.row_setStation a ex.addr x]
      cases s.row a ex.addr with
      | gate n strike grace =>
        dsimp only
        rw [Gate.goOffline_eq]
        rfl
      | pump n g0 g1 =>
        dsimp only
        rw [Pump.linkLost_eq]
        rfl
      | post => rfl
      | none => rfl
    · rw [State.stationGood_absent h hl]
      unfold State.tellReturned
      rw [show ∀ x b, ((s.setStation a ex.addr x).post b).row a ex.addr = s.row a ex.addr from
        fun x b => s.row_setStation a ex.addr x]
      cases s.row a ex.addr <;> rfl

end Sys2Proof.Machine

/-! PROOFS. The work an arm chooses (R189), and the timers that make it due (R183, R187, R188). -/

namespace Sys2Proof.Machine

variable {s : State} {a d : Nat}

/-! ### The candidates of the arbiter (R189) -/

theorem State.isPresent_iff (s : State) (a d : Nat) : s.isPresent a d = true ↔ s.link a d = .present := beq_iff_eq

/-- PRESENT is a matter of the station record. -/
theorem State.link_present_iff (s : State) (a d : Nat) :
    s.link a d = .present ↔ ∃ st, (s.slot a d).station = some st ∧ st.link = .present := by
  unfold State.link
  cases (s.slot a d).station with
  | none => exact ⟨nofun, fun ⟨_, h, _⟩ => nomatch h⟩
  | some st => exact ⟨fun h => ⟨st, rfl, h⟩, fun ⟨_, e, h⟩ => by cases e; exact h⟩

/-- The first of several offers, as the arbiter goes through them. -/
theorem findSome?_id_cons {α : Type} (x : Option α) (l : List (Option α)) : (x :: l).findSome? id = x.or (l.findSome? id) := by
  cases x <;> rfl

/-- The frame of a post's mark of a class. -/
theorem State.postWork_eq (s : State) (safety : Bool) :
    s.postWork a safety d =
      ((s.post? a d).bind (·.mark)).bind fun m =>
        if m.safety = safety ∧ s.link a d = .present then some (d, .postSet m.power0 m.water0 m.power1 m.water1, .mark) else none := by
  unfold State.postWork
  by_cases here : s.link a d = .present
  · rw [(s.isPresent_iff a d).mpr here]
    cases s.post? a d with
    | none => rfl
    | some p =>
      obtain ⟨w0, v0, w1, v1, det0, det1, mark⟩ := p
      cases mark with
      | none => rfl
      | some m => exact ite_congr (by simp [here]) (fun _ => rfl) fun _ => rfl
  · rw [Bool.eq_false_iff.mpr fun w => here ((s.isPresent_iff a d).mp w)]
    cases (s.post? a d).bind (·.mark) with
    | none => rfl
    | some m => exact (if_neg fun w => here w.2).symm

/-- The frame of a gate's mark. -/
theorem State.gateWork_of_gate {n strike grace : Nat} (row : s.row a d = .gate n strike grace) :
    s.gateWork a d = (s.gate n).mark.bind fun m =>
      if s.link a d = .present then some (d, .gateStrike ((s.gate n).strikeValue m.cmd), .mark) else none := by
  unfold State.gateWork
  rw [row]
  by_cases here : s.link a d = .present
  · rw [(s.isPresent_iff a d).mpr here]
    dsimp only
    cases (s.gate n).mark with
    | none => rfl
    | some m => exact (if_pos here).symm
  · rw [Bool.eq_false_iff.mpr fun w => here ((s.isPresent_iff a d).mp w)]
    cases (s.gate n).mark with
    | none => rfl
    | some m => exact (if_neg here).symm

theorem State.gateWork_of_other (h : ∀ n strike grace, s.row a d ≠ .gate n strike grace) : s.gateWork a d = none := by
  unfold State.gateWork
  split
  · next row => exact (h _ _ _ row).elim
  · rfl

/-- The frame of a pump's mark. -/
theorem State.pumpWork_of_pump {n g0 g1 : Nat} (row : s.row a d = .pump n g0 g1) :
    s.pumpWork a d = (s.pump n).mark.bind fun m =>
      if s.link a d = .present then some (d, m.cmd.request, .mark) else none := by
  unfold State.pumpWork
  rw [row]
  by_cases here : s.link a d = .present
  · rw [(s.isPresent_iff a d).mpr here]
    dsimp only
    cases (s.pump n).mark with
    | none => rfl
    | some m => exact (if_pos here).symm
  · rw [Bool.eq_false_iff.mpr fun w => here ((s.isPresent_iff a d).mp w)]
    cases (s.pump n).mark with
    | none => rfl
    | some m => exact (if_neg here).symm

theorem State.pumpWork_of_other (h : ∀ n g0 g1, s.row a d ≠ .pump n g0 g1) : s.pumpWork a d = none := by
  unfold State.pumpWork
  split
  · next row => exact (h _ _ _ row).elim
  · rfl

/-! ### The choice -/

theorem State.arbitrate_busy (h : (s.arm a).inFlight ≠ none) : s.arbitrate a = s :=
  if_pos (Option.isSome_iff_ne_none.mpr h)

theorem State.arbitrate_disabled (h : (s.arm a).state = .disabled) : s.arbitrate a = s := by
  unfold State.arbitrate
  rw [h]
  exact ite_self _

/-- The work that an idle arm takes. -/
theorem State.arbitrate_serving (idle : (s.arm a).inFlight = none) (h : (s.arm a).state = .active ∨ (s.arm a).state = .degraded) :
    s.arbitrate a = (s.chooseWork a).elim s fun w => s.launch a w.1 w.2.1 w.2.2 := by
  unfold State.arbitrate
  rw [idle]
  refine (if_neg nofun).trans ?_
  obtain h | h := h
  · rw [h]
    cases s.chooseWork a <;> rfl
  · rw [h]
    cases s.chooseWork a <;> rfl

/-- The probe that an idle ISOLATED arm takes. -/
theorem State.arbitrate_isolated (idle : (s.arm a).inFlight = none) (h : (s.arm a).state = .isolated) :
    s.arbitrate a = (s.probeWork a).elim s fun w => s.launch a w.1 w.2.1 w.2.2 := by
  unfold State.arbitrate
  rw [idle, h]
  refine (if_neg nofun).trans ?_
  dsimp only
  cases s.probeWork a <;> rfl

theorem State.window_markCarried (s : State) (a d b : Nat) : ((s.markCarried a d).arm b).window = (s.arm b).window := by
  unfold State.markCarried
  split
  · rfl
  · rfl
  · split
    · unfold State.setPost State.setSlot
      rw [State.arm_setArm]
      split
      · next h => rw [← h.1]; rfl
      · rfl
    · rfl
  · rfl

theorem State.window_takeWork (s : State) (ha : a < 6) (d : Nat) (w : Work) : ((s.takeWork a d w).arm a).window = (s.arm a).window := by
  cases w with
  | mark => exact s.window_markCarried a d a
  | relay => rfl
  | priorityPoll => exact (congrArg Arm.window (State.arm_setArm_self ha { s.arm a with sweep := (s.arm a).sweep.map List.tail }) :)
  | regularPoll =>
    exact (congrArg Arm.window (State.arm_setArm_self ha { s.arm a with pollDue := false, pointer := (s.arm a).nextPointer }) :)
  | probe => exact (congrArg Arm.window (State.arm_setArm_self ha { s.arm a with probeDue := false }) :)

/-- The exchange in flight from the choice on, with the window of the arm (R173). -/
theorem State.launch_eq (s : State) (ha : a < 6) (d : Nat) (req : ArmRequest) (w : Work) :
    s.launch a d req w = (s.takeWork a d w).setArm a { (s.takeWork a d w).arm a with
      inFlight := some { addr := d, req := req, work := w, begun := false, window := (s.arm a).window } } := by
  rw [← s.window_takeWork ha d w]
  rfl

/-- The work that a serving arm chooses is no probe. -/
def noProbe (o : Option (Nat × ArmRequest × Work)) : Prop :=
  ∀ w, o = some w → w.2.2 ≠ .probe

theorem noProbe_or {x y : Option (Nat × ArmRequest × Work)} (hx : noProbe x) (hy : noProbe y) : noProbe (x.or y) := fun w h => by
  obtain h | ⟨-, h⟩ := Option.or_eq_some_iff.mp h
  · exact hx w h
  · exact hy w h

theorem noProbe_findSome {f : Nat → Option (Nat × ArmRequest × Work)} (h : ∀ d, noProbe (f d)) (l : List Nat) :
    noProbe (l.findSome? f) := fun w e => by
  obtain ⟨d, -, e⟩ := List.exists_of_findSome?_eq_some e
  exact h d w e

theorem State.chooseWork_ne_probe {w : Nat × ArmRequest × Work} (h : s.chooseWork a = some w) : w.2.2 ≠ .probe := by
  have posts (safety : Bool) (d : Nat) : noProbe (s.postWork a safety d) := fun w e => by
    rw [State.postWork_eq] at e
    obtain ⟨m, -, e⟩ := Option.bind_eq_some_iff.mp e
    split at e
    · cases e; nofun
    · cases e
  have sweeps : noProbe (s.sweepWork a) := fun w e => by
    unfold State.sweepWork at e
    split at e <;> cases e
    nofun
  have gates (d : Nat) : noProbe (s.gateWork a d) := fun w e => by
    unfold State.gateWork at e
    split at e
    · obtain ⟨m, -, rfl⟩ := Option.map_eq_some_iff.mp e
      nofun
    · cases e
  have pumps (d : Nat) : noProbe (s.pumpWork a d) := fun w e => by
    unfold State.pumpWork at e
    split at e
    · obtain ⟨m, -, rfl⟩ := Option.map_eq_some_iff.mp e
      nofun
    · cases e
  have relays : noProbe (s.relayWork a) := fun w e => by
    unfold State.relayWork at e
    split at e
    · obtain ⟨m, -, rfl⟩ := Option.map_eq_some_iff.mp e
      nofun
    · cases e
  have regular : noProbe (s.regularWork a) := fun w e => by
    unfold State.regularWork at e
    dsimp only at e
    split at e <;> cases e
    nofun
  exact noProbe_or (noProbe_findSome (posts true) _) (noProbe_or sweeps (noProbe_or (noProbe_findSome gates _)
    (noProbe_or (noProbe_findSome pumps _) (noProbe_or relays (noProbe_or (noProbe_findSome (posts false) _) regular))))) w h

/-! ### The stations of an arm -/

theorem Arm.anchorInForce_eq (A : Arm) :
    A.anchorInForce = if A.anchor = 0 then addresses.find? (fun d => (A.slot d).row.kind != .none) else some A.anchor := by
  unfold Arm.anchorInForce Arm.stations
  rw [List.head?_filter]

theorem Arm.firstStation_eq (A : Arm) :
    A.firstStation = (addresses.find? (fun d => (A.slot d).row.kind != .none)).getD 1 := by
  unfold Arm.firstStation Arm.stations
  rw [List.headD_eq_head?_getD, List.head?_filter]

theorem Arm.nextPointer_eq (A : Arm) :
    A.nextPointer = (addresses.find? (fun d => decide (A.pointer < d) && (A.slot d).row.kind != .none)).getD
      ((addresses.find? (fun d => (A.slot d).row.kind != .none)).getD 1) := by
  unfold Arm.nextPointer Arm.stations
  rw [List.find?_filter, A.firstStation_eq]
  refine congrArg (fun f => (addresses.find? f).getD _) (funext fun d => ?_)
  rw [Bool.and_comm, Bool.decide_and, Bool.decide_eq_true, Bool.decide_eq_true]

theorem Arm.stations_isEmpty (A : Arm) : (!A.stations.isEmpty) = addresses.any fun d => (A.slot d).row.kind != .none := by
  unfold Arm.stations
  rw [Bool.eq_iff_iff]
  simp

/-! ### Sweeps (R187) -/

theorem State.inPriority_post {b0 b1 : Option Nat} {o h f n w : Nat} (row : s.row a d = .post b0 b1 o h f n w) :
    s.inPriority a d = (s.post? a d).any fun p => p.points.any fun x => x.state != .off && x.state != .fault := by
  unfold State.inPriority
  rw [row]
  refine congrArg (fun f => Option.any f (s.post? a d)) (funext fun p => ?_)
  unfold Post.isDrawing
  refine congrArg (fun f => List.any p.points f) (funext fun x => ?_)
  rw [PointState.atRest_eq, Bool.not_or]
  rfl

/-- A sweep starts with its list fixed; an empty one ends at its start. -/
theorem State.startSweep_eq (s : State) (a : Nat) : s.startSweep a = s.setArm a { s.arm a with
    sweep := if s.priorityList a = [] then none else some (s.priorityList a), sweepWaiting := false } := by
  unfold State.startSweep
  dsimp only
  cases s.priorityList a <;> rfl

theorem State.periodEnds_idle (h : (s.arm a).periodRunning = none) : s.periodEnds a = s :=
  if_neg (by rw [h]; nofun)

/-- The end of a period that runs. -/
theorem State.periodEnds_running (h : (s.arm a).periodRunning ≠ none) :
    s.periodEnds a =
      if (s.arm a).sweep = none then s.setArm a { s.arm a with
        periodRunning := some (s.arm a).period
        sweep := if s.priorityList a = [] then none else some (s.priorityList a), sweepWaiting := false }
      else s.setArm a { s.arm a with periodRunning := some (s.arm a).period, sweepWaiting := true } := by
  have ha : a < 6 := Decidable.byContradiction fun no => h (by rw [State.arm_default no]; rfl)
  refine (if_pos (Option.isSome_iff_ne_none.mpr h)).trans ?_
  dsimp only
  unfold State.sweepDue
  have list := State.priorityList_setArm (s := s) (A := { s.arm a with periodRunning := some (s.arm a).period }) rfl
  rw [State.startSweep_eq, list, State.arm_setArm_self ha, State.setArm_setArm, State.setArm_setArm]
  exact ite_congr (by simp) (fun _ => rfl) fun _ => rfl

theorem State.slotEnds_eq (s : State) (a : Nat) :
    s.slotEnds a =
      if (s.arm a).slotRunning = none then s
      else s.setArm a { s.arm a with
        slotRunning := some (if (s.arm a).state = .degraded then 2 * (s.arm a).slotInterval else (s.arm a).slotInterval)
        pollDue := (s.arm a).pollDue || addresses.any fun d => (s.row a d).kind != .none } := by
  unfold State.slotEnds
  dsimp only
  rw [Arm.stations_isEmpty]
  cases (s.arm a).slotRunning <;> rfl

theorem State.sweepEnd_other (h : (s.arm a).sweep ≠ some []) : s.sweepEnd a = s :=
  if_neg h

theorem State.sweepEnd_last (h : (s.arm a).sweep = some []) :
    s.sweepEnd a = if (s.arm a).sweepWaiting = true then
        s.setArm a { s.arm a with
          sweep := if s.priorityList a = [] then none else some (s.priorityList a), sweepWaiting := false }
      else s.setArm a { s.arm a with sweep := none } :=
  (if_pos h).trans (ite_congr rfl (fun _ => s.startSweep_eq a) fun _ => rfl)

/-! ### The frames -/

theorem State.markCarried_gate {n strike grace : Nat} (row : s.row a d = .gate n strike grace) :
    s.markCarried a d = s.setGate n { s.gate n with mark := (s.gate n).mark.map (fun m => { m with setAgain := false }) } := by
  unfold State.markCarried
  rw [row]

theorem State.markCarried_pump {n g0 g1 : Nat} (row : s.row a d = .pump n g0 g1) :
    s.markCarried a d = s.setPump n { s.pump n with mark := (s.pump n).mark.map (fun m => { m with setAgain := false }) } := by
  unfold State.markCarried
  rw [row]

theorem State.markCarried_post {p : Post} (row : (s.row a d).kind = .post) (hp : s.post? a d = some p) :
    s.markCarried a d = s.setPost a d { p with mark := p.mark.map (fun m => { m with setAgain := false }) } := by
  unfold State.markCarried
  generalize s.row a d = r at row
  cases r with
  | post =>
    dsimp only
    rw [hp]
  | gate => cases row
  | pump => cases row
  | none => cases row

/-- Settles O44: the arbiter's candidates kind by kind, the exchange they launch, and each timer. -/
theorem armTimersMakeWorkDue : Obligations.ArmTimersMakeWorkDue := by
  unfold Obligations.ArmTimersMakeWorkDue
  refine ⟨fun s a ha => ?_, fun s a d => ⟨fun n strike grace row => State.markCarried_gate row,
    fun n g0 g1 row => State.markCarried_pump row, fun p row hp => State.markCarried_post row hp⟩, fun s a => ?_⟩
  · intro A first here poll postMark gateMark pumpMark sweepPoll relayGroup regularPoll chosen launched
    have polls (d : Nat) : s.pollRequest a d = poll d := by
      simp only [poll, State.pollRequest, Pump.display]
      cases s.row a d with
      | pump n g0 g1 =>
        dsimp only
        cases (s.pump n).sale <;> rfl
      | _ => rfl
    have posts (safety : Bool) : s.postWork a safety = postMark safety := funext fun d => by
      rw [State.postWork_eq]
      simp only [postMark]
      cases (s.post? a d).bind (·.mark) <;> rfl
    have gates : s.gateWork a = gateMark := funext fun d => by
      simp only [gateMark]
      cases row : s.row a d with
      | gate n strike grace =>
        rw [State.gateWork_of_gate row]
        dsimp only
        cases (s.gate n).mark with
        | none => rfl
        | some m =>
          obtain ⟨cmd, again⟩ := m
          cases cmd <;> rfl
      | _ => exact State.gateWork_of_other (by rw [row]; nofun)
    have pumps : s.pumpWork a = pumpMark := funext fun d => by
      simp only [pumpMark]
      cases row : s.row a d with
      | pump n g0 g1 =>
        rw [State.pumpWork_of_pump row]
        dsimp only
        cases (s.pump n).mark with
        | none => rfl
        | some m =>
          obtain ⟨cmd, again⟩ := m
          cases cmd <;> rfl
      | _ => exact State.pumpWork_of_other (by rw [row]; nofun)
    have sweeps : s.sweepWork a = sweepPoll := by
      simp only [sweepPoll, State.sweepWork, polls]
      rfl
    have relays : s.relayWork a = relayGroup := by
      refine ite_congr rfl (fun _ => ?_) fun _ => rfl
      cases s.transferOn a <;> rfl
    have regular : s.regularWork a = regularPoll := by
      simp only [regularPoll, State.regularWork, polls]
      rfl
    have choice : s.chooseWork a = chosen := by
      simp only [chosen, findSome?_id_cons, List.findSome?_nil, Option.or_none, ← posts, ← gates, ← pumps, ← sweeps, ← relays, ← regular]
      rfl
    refine ⟨fun d => s.link_present_iff a d, State.arbitrate_busy, fun idle => ⟨State.arbitrate_disabled, fun isolated => ⟨fun due => ?_,
      fun due => ?_⟩, fun serves => ⟨choice, fun none => ?_, fun d req work some => ?_⟩⟩⟩
    · rw [State.arbitrate_isolated idle isolated, State.probeWork, if_neg (by rw [due]; nofun)]
      rfl
    · rw [State.arbitrate_isolated idle isolated, State.probeWork, if_pos due, Arm.anchorInForce_eq]
      change _ = match (if A.anchor = 0 then addresses.find? (fun d => (A.slot d).row.kind != .none) else Option.some A.anchor) with
        | Option.some d => launched (s.setArm a { A with probeDue := false }) (d, .probe, .probe)
        | Option.none => s
      cases (if A.anchor = 0 then addresses.find? (fun d => (A.slot d).row.kind != .none) else Option.some A.anchor) with
      | none => rfl
      | some d => exact s.launch_eq ha d .probe .probe
    · rw [State.arbitrate_serving idle serves, choice, none]
      rfl
    · rw [State.arbitrate_serving idle serves, choice, some]
      refine (s.launch_eq ha d req work).trans ?_
      cases work with
      | regularPoll =>
        have taken : s.takeWork a d .regularPoll = s.setArm a { A with pollDue := false, pointer := A.nextPointer } := rfl
        rw [taken, Arm.nextPointer_eq]
        rfl
      | probe => exact (State.chooseWork_ne_probe (choice.trans some) rfl).elim
      | _ => rfl
  · intro A eligible l
    have kinds (d : Nat) : s.inPriority a d = eligible d := by
      cases row : s.row a d with
      | post b0 b1 o h f n w =>
        rw [State.inPriority_post row]
        simp only [eligible, row]
      | _ => simp only [eligible, State.inPriority, row]
    have list : s.priorityList a = l := List.filter_congr fun d _ => kinds d
    refine ⟨kinds, State.sweepEnd_other, fun last => ?_, rfl, ?_, congrArg finishBus (s.slotEnds_eq a)⟩
    · rw [State.sweepEnd_last last, list]
    · refine congrArg finishBus ?_
      by_cases runs : A.periodRunning = none
      · rw [State.periodEnds_idle runs, if_pos runs]
      · rw [State.periodEnds_running runs, list, if_neg runs]

end Sys2Proof.Machine

/-! PROOFS. A reply frame on an arm bus read back (R173 to R175). -/

namespace Sys2Proof.Machine

/-! ### Numbers in bytes -/

theorem natBytes_length (n v : Nat) : (natBytes n v).length = n := by
  induction n generalizing v with
  | zero => rfl
  | succ n ih => simp [natBytes, ih]

theorem natOfBytes_concat (bs : List Byte) (b : Byte) : natOfBytes (bs ++ [b]) = natOfBytes bs * 256 + b.toNat := by
  simp [natOfBytes]

/-- The bytes of a number spell it, as far as they reach. -/
theorem natOfBytes_natBytes (n v : Nat) : natOfBytes (natBytes n v) = v % 256 ^ n := by
  induction n generalizing v with
  | zero => rw [Nat.pow_zero, Nat.mod_one]; rfl
  | succ n ih =>
    have low : (BitVec.ofNat 8 v).toNat = v % 256 := BitVec.toNat_ofNat ..
    rw [natBytes, natOfBytes_concat, ih, low, Nat.pow_succ, Nat.mul_comm (256 ^ n) 256, Nat.mod_mul]
    omega

/-- A byte at the front of the bytes. -/
theorem natAt_one {v : Nat} (h : v < 256) (bs rest : List Byte) : natAt (bs ++ (natBytes 1 v ++ rest)) bs.length 1 = v := by
  unfold natAt slice
  rw [List.drop_left, List.take_left' (natBytes_length 1 v), natOfBytes_natBytes]
  exact Nat.mod_eq_of_lt h

/-! ### A frame's parts -/

section Frame

variable {a k : Nat} {payload : List Byte}

/-- The bytes of a frame that its check covers. -/
def frameBody (a k : Nat) (payload : List Byte) : List Byte :=
  natBytes 1 a ++ natBytes 1 k ++ natBytes 1 payload.length ++ payload

theorem armFrame_eq : armFrame a k payload = frameBody a k payload ++ natBytes 2 (crc (frameBody a k payload)).toNat := rfl

theorem frameBody_length : (frameBody a k payload).length = payload.length + 3 := by
  simp [frameBody, natBytes_length]
  omega

theorem armFrame_length : (armFrame a k payload).length = payload.length + 5 := by
  rw [armFrame_eq, List.length_append, frameBody_length, natBytes_length]

theorem armFrame_addr (h : a < 256) : natAt (armFrame a k payload) 0 1 = a := by
  have := natAt_one h [] (natBytes 1 k ++ natBytes 1 payload.length ++ payload ++ natBytes 2 (crc (frameBody a k payload)).toNat)
  simpa [armFrame_eq, frameBody] using this

theorem armFrame_kind (h : k < 256) : natAt (armFrame a k payload) 1 1 = k := by
  have := natAt_one h (natBytes 1 a) (natBytes 1 payload.length ++ payload ++ natBytes 2 (crc (frameBody a k payload)).toNat)
  simpa [armFrame_eq, frameBody, natBytes_length] using this

theorem armFrame_len (h : payload.length < 256) : natAt (armFrame a k payload) 2 1 = payload.length := by
  have := natAt_one h (natBytes 1 a ++ natBytes 1 k) (payload ++ natBytes 2 (crc (frameBody a k payload)).toNat)
  simpa [armFrame_eq, frameBody, natBytes_length] using this

theorem armFrame_payload : slice (armFrame a k payload) 3 payload.length = payload := by
  have e : armFrame a k payload = (natBytes 1 a ++ natBytes 1 k ++ natBytes 1 payload.length) ++
      (payload ++ natBytes 2 (crc (frameBody a k payload)).toNat) := by
    rw [armFrame_eq, frameBody, List.append_assoc]
  unfold slice
  rw [e, List.drop_left' (by simp [natBytes_length]), List.take_left]

theorem armFrame_body : (armFrame a k payload).take (payload.length + 3) = frameBody a k payload := by
  rw [armFrame_eq, List.take_left' frameBody_length]

theorem armFrame_check : natAt (armFrame a k payload) (payload.length + 3) 2 = (crc (frameBody a k payload)).toNat := by
  unfold natAt slice
  rw [armFrame_eq, List.drop_left' frameBody_length, List.take_of_length_le (Nat.le_of_eq (natBytes_length ..)), natOfBytes_natBytes]
  exact Nat.mod_eq_of_lt (crc (frameBody a k payload)).isLt

end Frame

/-- The judge of a well-built frame sees the address it comes from, its kind and its payload. -/
theorem judgeReply_armFrame {from_ k : Nat} {payload : List Byte} (hf : from_ < 256) (hk : k < 256) (hl : payload.length ≤ 24)
    (kind : RowKind) (addr : Nat) (req : ArmRequest) :
    judgeReply kind addr req (armFrame from_ k payload) = if from_ = addr then contentOf kind req k payload else none := by
  unfold judgeReply
  dsimp only
  rw [armFrame_len (Nat.lt_of_le_of_lt hl (by decide)), armFrame_payload, armFrame_kind hk, armFrame_addr hf, armFrame_check,
    armFrame_body]
  exact ite_congr (by simp [armFrame_length, hl]) (fun _ => rfl) fun _ => rfl

/-- Settles O45: the fields of a frame read back one by one. -/
theorem replyFramesAreJudgedByAddressKindAndContent : Obligations.ReplyFramesAreJudgedByAddressKindAndContent := by
  unfold Obligations.ReplyFramesAreJudgedByAddressKindAndContent
  intro kind addr from_ k req payload ha hf hk hl
  refine ⟨fun h => ?_, ?_⟩
  · rw [judgeReply_armFrame hf hk hl, if_neg h]
  · rw [judgeReply_armFrame ha hk hl, if_pos rfl]
    cases req <;> rfl

end Sys2Proof.Machine

/-! PROOFS. RELAY, its groups and their end (chapter 10). -/

namespace Sys2Proof.Machine

variable {s : State}

/-! ### The end of a group or of a transfer (R195 to R197) -/

theorem Transfer.runsOn_iff (t : Transfer) (a : Nat) : t.runsOn a = true ↔ t.arm = a ∧ t.endCause = none := by
  simp [Transfer.runsOn]

theorem RelayRequest.inFlight_eq (q : RelayRequest) : q.inFlight = q.transfers.any (fun t => t.endCause == none) :=
  congrArg (fun f => q.transfers.any f) (funext fun t => by cases t.endCause <;> rfl)

/-- A change of the transfer on an arm, and the results of the requests it leaves without a transfer in flight. -/
theorem State.completeRelays_updateTransfer (s : State) (a : Nat) (f : Transfer → Transfer) :
    (s.updateTransfer a f).completeRelays =
      let l := s.relays.map fun q => { q with
        transfers := q.transfers.map fun t => if t.arm = a ∧ t.endCause = none then f t else t }
      (l.filter fun q => !q.transfers.any fun t => t.endCause == none).foldl State.sendRelayResult
        { s with relays := l.filter fun q => q.transfers.any fun t => t.endCause == none } := by
  unfold State.completeRelays State.updateTransfer
  simp only [Transfer.runsOn_iff, RelayRequest.inFlight_eq]
  rfl

/-! ### RELAY (R193) -/

section Checks

variable {f : RelayArgs}

theorem targetInRange_iff (g : RelayTarget) : targetInRange g = true ↔
    match g with
    | .arms mask addr => (1 ≤ mask ∧ mask < 64) ∧ 1 ≤ addr ∧ addr ≤ 30
    | .berth b => 1 ≤ b ∧ b ≤ 200 := by
  cases g with
  | arms mask addr => simp [targetInRange, isAddr_iff]
  | berth b => exact isBerth_iff b

theorem relayInRange_iff (f : RelayArgs) : relayInRange f = true ↔
    targetInRange f.target = true ∧ (1 ≤ payloadSize f.payload ∧ payloadSize f.payload ≤ 48) ∧ (1 ≤ f.group ∧ f.group ≤ 16) ∧
      f.sub + payloadSize f.payload - 1 ≤ 65535 := by
  simp [relayInRange, inRange_iff, and_assoc]

theorem relayDenied_iff (s : State) (a addr : Nat) :
    s.relayDenied a addr = true ↔ (a, addr) ∈ s.refusals ∨ (s.row a addr).kind = .pump := by
  simp [State.relayDenied]

theorem relayBusy_iff (s : State) (a : Nat) :
    s.relayBusy a = true ↔ (s.arm a).state ≠ .active ∨ (s.transferOn a).isSome = true := by
  simp [State.relayBusy]

/-- The last three checks and the placing, on the arms and the address of a target. -/
def State.relayOn (s : State) (tag : Nat) (f : RelayArgs) (arms : List Nat) (addr : Nat) : Judged :=
  if arms.any (fun a => (s.row a addr).kind == .none) then refuse s .state
  else if arms.any (fun a => s.relayDenied a addr) then refuse s .denied
  else if arms.any s.relayBusy then refuse s .busy
  else s.placeRelay tag f arms addr

theorem judgeRelay_arms {tag mask addr : Nat} (range : relayInRange f = true) (one : ¬ (isRead f.payload = true ∧ oneArm f.target = false))
    (target : f.target = .arms mask addr) : judgeRelay tag s f = s.relayOn tag f (maskArms mask) addr := by
  rw [judgeRelay, if_neg (by rw [range]; nofun), if_neg one, target]
  rfl

theorem judgeRelay_berth {tag b : Nat} (range : relayInRange f = true) (target : f.target = .berth b) :
    judgeRelay tag s f = (s.boundSide b).elim (refuse s .state) fun d => s.relayOn tag f [d.arm] d.addr := by
  rw [judgeRelay, if_neg (by rw [range]; nofun), if_neg (by rw [target]; nofun), target]
  unfold State.relayTarget
  dsimp only
  cases s.boundSide b <;> rfl

theorem judgeRelay_outOfRange {tag : Nat} (h : relayInRange f = false ∨ isRead f.payload = true ∧ oneArm f.target = false) :
    judgeRelay tag s f = refuse s .range := by
  unfold judgeRelay
  by_cases range : relayInRange f = false
  · exact if_pos range
  · rw [if_neg range, if_pos (h.resolve_left range)]

end Checks

/-! ### Groups (R194) -/

section Groups

variable {α : Type} {g : Nat}

theorem flatMap_groups (d : List α) (n : Nat) : (List.range n).flatMap (fun k => (d.drop (k * g)).take g) = d.take (n * g) := by
  induction n with
  | zero => simp
  | succ n ih => rw [List.range_succ, List.flatMap_append, ih, Nat.succ_mul, List.take_add]; simp

/-- The bytes of group `k` and their number. -/
theorem RelayRequest.groupRequest_write {q : RelayRequest} {d : List Byte} (h : q.data = .write d) (k : Nat) :
    q.groupRequest k = .relayWrite (q.sub + k * q.group) ((d.drop (k * q.group)).take q.group) := by
  unfold RelayRequest.groupRequest
  rw [h]
  dsimp only [RelayData.size]
  rw [List.take_eq_take_min (i := q.group), List.length_drop]

/-- A group before the end of the groups has bytes, and one before the last is full. -/
theorem lt_groupCount {l k : Nat} (hg : 1 ≤ g) (h : k < groupCount l g) : k * g < l ∧ (k + 1 < groupCount l g → k * g + g < l) := by
  have bound (j : Nat) (hj : j < groupCount l g) : j * g < l := by
    have := (Nat.le_div_iff_mul_le hg).mp (Nat.succ_le_of_lt hj)
    rw [Nat.succ_mul] at this
    omega
  refine ⟨bound k h, fun h => ?_⟩
  have := bound (k + 1) h
  rwa [Nat.succ_mul] at this

theorem le_groupCount_mul {l : Nat} (hg : 1 ≤ g) : l ≤ groupCount l g * g := by
  have := Nat.lt_mul_div_succ (l + g - 1) (Nat.lt_of_lt_of_le Nat.zero_lt_one hg)
  rw [Nat.mul_add, Nat.mul_comm] at this
  unfold groupCount
  omega

end Groups

theorem Judged.endedBus_withheld (tag code : Nat) (s : State) : Judged.endedBus tag code (s, none) = s.arbitrateAll.sendNext := rfl

theorem State.placeRelay_ended (s : State) (tag : Nat) (f : RelayArgs) (arms : List Nat) (addr : Nat) :
    (s.placeRelay tag f arms addr).endedBus tag 0x58 =
      let placed := s.setRelays (s.relays ++ [placedRequest tag f arms addr])
      if f.wait then placed.arbitrateAll.sendNext
      else placed.answeredBus tag 0x58 .accepted (.groups (groupCount (payloadSize f.payload) f.group)) := by
  unfold State.placeRelay
  dsimp only
  by_cases wait : f.wait = true
  · rw [if_pos wait, if_pos wait]
    exact Judged.endedBus_withheld ..
  · rw [if_neg wait, if_neg wait, Judged.endedBus_answer]

/-- The part that RELAY's answer plays on the arms and the address of a target. -/
theorem State.relayOn_ended (s : State) (tag : Nat) (f : RelayArgs) (arms : List Nat) (addr : Nat) :
    (s.relayOn tag f arms addr).endedBus tag 0x58 =
      if ∃ a ∈ arms, (s.row a addr).kind = .none then s.answeredBus tag 0x58 .state .empty
      else if ∃ a ∈ arms, (a, addr) ∈ s.refusals ∨ (s.row a addr).kind = .pump then s.answeredBus tag 0x58 .denied .empty
      else if ∃ a ∈ arms, (s.arm a).state ≠ .active ∨ (s.transferOn a).isSome = true then s.answeredBus tag 0x58 .busy .empty
      else
        let placed := s.setRelays (s.relays ++ [placedRequest tag f arms addr])
        if f.wait then placed.arbitrateAll.sendNext
        else placed.answeredBus tag 0x58 .accepted (.groups (groupCount (payloadSize f.payload) f.group)) := by
  unfold State.relayOn
  simp only [Judged.endedBus_ite, Judged.endedBus_refuse, List.any_eq_true, relayDenied_iff, relayBusy_iff, beq_iff_eq]
  refine ite_congr rfl (fun _ => rfl) fun _ => ite_congr rfl (fun _ => rfl) fun _ => ite_congr rfl (fun _ => rfl) fun _ => ?_
  exact s.placeRelay_ended tag f arms addr

/-- Settles O46: the end of a group by what it changes of its transfer, RELAY by its checks, and the groups by the bytes they take. -/
theorem relayIsJudgedAndPlaced : Obligations.RelayIsJudgedAndPlaced := by
  unfold Obligations.RelayIsJudgedAndPlaced
  refine ⟨fun s a => ?_, fun s tag f room => ?_, fun q d write hg => ?_⟩
  · intro changed running tell judged
    have tells : State.sendRelayResult = tell := funext fun t => funext fun q => by
      obtain ⟨tag, wait, addr, sub, group, data, transfers⟩ := q
      cases data <;> rfl
    have ends (g : Transfer → Transfer) : (s.updateTransfer a g).completeRelays = judged (changed g) := by
      simp only [judged, ← tells]
      exact s.completeRelays_updateTransfer a g
    exact ⟨fun bytes => ends _, ends _, fun cause => ends _⟩
  · intro size refused inRange manyRead total judged
    have sizes : size = payloadSize f.payload := by
      simp only [size]
      cases f.payload <;> rfl
    have range : relayInRange f = true ↔ inRange := by
      rw [relayInRange_iff, targetInRange_iff, ← sizes] <;> exact Iff.rfl
    have many : (isRead f.payload = true ∧ oneArm f.target = false) ↔ manyRead := by
      simp only [manyRead]
      cases f.target with
      | arms mask addr => cases f.payload <;> simp [isRead, oneArm]
      | berth b => simp [oneArm]
    have ran : exec (.relay tag (.fields f)) s = .next ((judgeRelay tag s.frameTaken f).endedBus tag 0x58) :=
      finishBus_takeRequest room relayCode tag f (judgeRelay tag)
    have placed (arms : List Nat) (addr : Nat) : (s.frameTaken.relayOn tag f arms addr).endedBus tag 0x58 = judged arms addr := by
      rw [State.relayOn_ended]
      simp only [judged, total, sizes]
      rfl
    refine ⟨fun h => ?_, fun h many' => ?_, fun h one mask addr target => ?_, fun h b target => ?_⟩
    · rw [ran, judgeRelay_outOfRange (.inl (Bool.eq_false_iff.mpr fun w => h (range.mp w)))]
      rfl
    · rw [ran, judgeRelay_outOfRange (.inr (many.mpr many'))]
      rfl
    · rw [ran, judgeRelay_arms (range.mpr h) (fun w => one (many.mp w)) target, placed]
    · rw [ran, judgeRelay_berth (range.mpr h) target, show s.frameTaken.boundSide b = s.boundSide b from rfl]
      cases s.boundSide b with
      | none => rfl
      | some r => exact congrArg _ (placed [r.arm] r.addr)
  · intro total
    refine ⟨?_, fun k hk => ?_⟩
    · simp only [RelayRequest.groupRequest_write write]
      rw [flatMap_groups]
      exact List.take_of_length_le (le_groupCount_mul hg)
    · obtain ⟨some, full⟩ := lt_groupCount hg hk
      refine ⟨_, q.groupRequest_write write k, ?_, fun h => ?_, List.length_take_le ..⟩
      · rw [List.length_take, List.length_drop]
        omega
      · have := full h
        rw [List.length_take, List.length_drop]
        omega

end Sys2Proof.Machine

/-! PROOFS. TIME-SET (R212) and RESTART (R215). -/

namespace Sys2Proof.Machine

variable {s t u : State} {a : Nat}

/-! ### TIME-SET -/

theorem State.judgeExpiries_eq (s : State) :
    s.judgeExpiries = [0, 1, 2, 3].foldl (fun (t : State) p => (t.readyExpiry p).linkLossExpiry p)
      ((List.range 8).foldl (fun (t : State) g => (t.strikeExpiry g).holdExpiry g)
        (((List.range 200).map (· + 1)).foldl State.departureTimeout s)) := by
  rw [List.foldl_map]
  rfl

theorem exec_timeSet (room : s.Room) (tag time : Nat) :
    exec (.timeSet tag (.fields time)) s =
      .next (State.answeredBus { s.frameTaken with clock := time }.judgeExpiries tag 0x64 .done (.times s.clock time)) :=
  finishBus_takeRequest room 0x64 tag time judgeTimeSet

/-! ### An arm at a RESTART (R192) -/

/-- What a RESTART makes of an arm's record. -/
structure Restarted (A B : Arm) : Prop where
  settings : B.period = A.period ∧ B.slotInterval = A.slotInterval ∧ B.window = A.window ∧ B.silence = A.silence ∧ B.anchor = A.anchor ∧
    B.autoRestore = A.autoRestore ∧ B.checksum = A.checksum ∧ B.inFlight = none
  rows : ∀ d, (B.slot d).row = (A.slot d).row ∧ (B.slot d).post = (A.slot d).post
  pointer : B.pointer = A.firstStation
  disabled : A.state = .disabled → B.state = .disabled ∧ B.errors = A.errors ∧ ∀ d, (B.slot d).station = (A.slot d).station
  serving : A.state ≠ .disabled → B.state = .active ∧ B.errors = 0 ∧ B.probes = 0 ∧ B.sweepWaiting = false ∧ B.pollDue = false ∧
    B.periodRunning = some A.period ∧ B.slotRunning = some A.slotInterval ∧
    ∀ d, (B.slot d).station = (A.slot d).station.map Station.unseen

theorem State.restartArm_disabled (ha : a < 6) (h : (s.arm a).state = .disabled) : Restarted (s.arm a) ((s.restartArm a).arm a) := by
  have e : (s.restartArm a).arm a = { s.arm a with inFlight := none, pointer := (s.arm a).firstStation } := by
    unfold State.restartArm
    dsimp only
    rw [if_pos h, State.arm_setArm_self ha]
  rw [e]
  exact ⟨⟨rfl, rfl, rfl, rfl, rfl, rfl, rfl, rfl⟩, fun _ => ⟨rfl, rfl⟩, rfl, fun _ => ⟨h, rfl, fun _ => rfl⟩, fun no => (no h).elim⟩

theorem State.restartArm_serving (ha : a < 6) (h : (s.arm a).state ≠ .disabled) : Restarted (s.arm a) ((s.restartArm a).arm a) := by
  let A : Arm := { s.arm a with inFlight := none, pointer := (s.arm a).firstStation, errors := 0, probes := 0 }
  have e : s.restartArm a = (s.setArm a A).activate a false := if_neg h
  obtain ⟨changed, slots⟩ := (s.setArm a A).relinkStations_slots Station.unseen false ha
  have arm := changed.arm
  rw [State.arm_setArm_self ha] at arm
  have slot (d : Nat) : (((s.setArm a A).relinkStations a Station.unseen false).arm a).slot d =
      { (s.arm a).slot d with station := ((s.arm a).slot d).station.map Station.unseen } := by
    have := slots d
    rw [State.slot_setArm, if_pos ⟨rfl, ha⟩] at this
    exact this
  rw [e, State.activate_eq _ false ha, State.arm_setArm_self ha]
  generalize ((s.setArm a A).relinkStations a Station.unseen false).arm a = B at arm slot
  have rows (d : Nat) : (B.slot d).row = ((s.arm a).slot d).row ∧ (B.slot d).post = ((s.arm a).slot d).post ∧
      (B.slot d).station = ((s.arm a).slot d).station.map Station.unseen := by
    rw [slot]
    exact ⟨rfl, rfl, rfl⟩
  generalize B.slots = l at arm
  subst arm
  exact ⟨⟨rfl, rfl, rfl, rfl, rfl, rfl, rfl, rfl⟩, fun d => ⟨(rows d).1, (rows d).2.1⟩, rfl, fun yes => (h yes).elim,
    fun _ => ⟨rfl, rfl, rfl, rfl, rfl, rfl, rfl, fun d => (rows d).2.2⟩⟩

theorem State.restartArm_restarted (s : State) (ha : a < 6) : Restarted (s.arm a) ((s.restartArm a).arm a) :=
  (Classical.em ((s.arm a).state = .disabled)).elim (State.restartArm_disabled ha) (State.restartArm_serving ha)

/-- From `s` to `t` only arms have changed. -/
def ArmsOnly (s t : State) : Prop :=
  t = { s with arms := t.arms }

theorem ArmsOnly.trans (h : ArmsOnly s t) (k : ArmsOnly t u) : ArmsOnly s u := by
  unfold ArmsOnly at *
  rw [k, h]

theorem ArmsOnly.foldl {β : Type} {f : State → β → State} (hf : ∀ s x, ArmsOnly s (f s x)) (l : List β) (s : State) :
    ArmsOnly s (l.foldl f s) := by
  induction l generalizing s with
  | nil => rfl
  | cons x l ih => exact (hf s x).trans (ih _)

theorem ArmsOnly.relinkQuiet (s : State) (a : Nat) (f : Station → Station) : ArmsOnly s (s.relinkStations a f false) := by
  refine ArmsOnly.foldl (fun s d => ?_) _ s
  split
  · rfl
  · exact rfl

theorem ArmsOnly.restartArm (s : State) (a : Nat) : ArmsOnly s (s.restartArm a) := by
  unfold State.restartArm
  dsimp only
  split
  · rfl
  · unfold State.activate State.startSweep
    dsimp only
    exact ArmsOnly.trans (t := s.setArm a _) rfl ((ArmsOnly.relinkQuiet _ a _).trans rfl)

theorem State.restartArm_other {b : Nat} (ha : a < 6) (h : b ≠ a) : (s.restartArm a).arm b = s.arm b := by
  unfold State.restartArm
  dsimp only
  split
  · exact State.arm_setArm_other _ h
  · rw [State.activate_eq _ false ha, State.arm_setArm_other _ h,
      ((State.relinkStations_slots _ Station.unseen false ha).1).arms b h, State.arm_setArm_other _ h]

/-- Each arm of several is restarted from its own record. -/
theorem State.restartArms_restarted (l : List Nat) (s : State) (nodup : l.Nodup) (hl : ∀ b ∈ l, b < 6) :
    (∀ b ∈ l, Restarted (s.arm b) ((l.foldl State.restartArm s).arm b)) ∧
      ∀ b, b ∉ l → (l.foldl State.restartArm s).arm b = s.arm b := by
  induction l generalizing s with
  | nil => exact ⟨nofun, fun _ _ => rfl⟩
  | cons x l ih =>
    obtain ⟨hx, nodup⟩ := List.nodup_cons.mp nodup
    have hx6 := hl x List.mem_cons_self
    obtain ⟨inside, outside⟩ := ih (s.restartArm x) nodup fun b hb => hl b (List.mem_cons_of_mem x hb)
    refine ⟨fun b hb => ?_, fun b hb => ?_⟩
    · obtain rfl | hb := List.mem_cons.mp hb
      · rw [List.foldl_cons, outside b hx]
        exact s.restartArm_restarted hx6
      · have := inside b hb
        rwa [State.restartArm_other hx6 (fun e => hx (e ▸ hb))] at this
    · obtain ⟨ne, hb⟩ := not_or.mp ((not_congr List.mem_cons).mp hb)
      rw [List.foldl_cons, outside b hb, State.restartArm_other hx6 ne]

/-! ### The gates, the posts and the notices -/

theorem State.gate_restartOwners {g : Nat} (h : g < 8) : s.restartOwners.gate g = (s.gate g).restarted :=
  (tabGet_map (e := Gate.reset) ..).trans (if_pos h)

/-- A gate at a RESTART (R88). -/
theorem Gate.restarted_leaves (x : Gate) :
    x.restarted.station = x.station ∧ x.restarted.strikeTime = x.strikeTime ∧ x.restarted.holdGrace = x.holdGrace ∧
    x.restarted.mode = x.mode ∧ x.restarted.doorOpen = x.doorOpen ∧ x.restarted.monitor = .idle ∧ x.restarted.strikeEnd = none ∧
    x.restarted.passageSeen = false ∧
    x.restarted.mark.map (·.cmd) = if x.station.isSome = true ∧ x.mode = .free then some .holdRelease else none := by
  by_cases held : x.station.isSome = true ∧ x.mode = .free
  · have e : x.restarted = ({ x.toIdle with mark := none } : Gate).wantHoldRelease := if_pos (by simp [held])
    rw [e, if_pos held]
    exact ⟨rfl, rfl, rfl, rfl, rfl, rfl, rfl, rfl, rfl⟩
  · have e : x.restarted = { x.toIdle with mark := none } := if_neg (by simpa using held)
    rw [e, if_neg held]
    exact ⟨rfl, rfl, rfl, rfl, rfl, rfl, rfl, rfl, rfl⟩

/-- Notices posted one after another. -/
theorem State.foldl_post {α : Type} (f : α → NoticeBody) (l : List α) (s : State) :
    l.foldl (fun t q => t.post (f q)) s =
      { s with notices := (l.map f).foldl (fun q b => q.post s.clock b) s.notices } := by
  induction l generalizing s with
  | nil => rfl
  | cons x l ih => exact (ih (s.post (f x))).trans rfl

/-- A RESTART leaves the engine without requests and posts each one's end (R199). -/
theorem State.restartRelays_eq (s : State) :
    s.restartRelays = { s with
      relays := []
      notices := (s.relays.map (fun q => NoticeBody.relayDone q.tag q.restarted.report)).foldl (fun q b => q.post s.clock b) s.notices } := by
  unfold State.restartRelays
  rw [State.foldl_post, List.map_map]
  rfl

/-- The state from which RESTART restarts the arms. -/
def State.restartBase (s : State) : State :=
  s.frameTaken.restartTrunk.restartOwners

/-- What RESTART leaves. -/
def State.restartedState (s : State) : State :=
  ((List.range 6).foldl State.restartArm s.restartBase).restartRelays

theorem exec_restart (room : s.Room) (tag : Nat) :
    exec (.restart tag (.fields ())) s = .next (s.restartedState.answeredBus tag 0x66 .done .empty) :=
  finishBus_takeRequest room 0x66 tag () judgeRestart

/-- Everything but the arms, which `State.arm_restarted` says. -/
theorem State.restartedState_eq (s : State) :
    s.restartedState = { s.restartBase with
      arms := s.restartedState.arms, relays := []
      notices := (s.relays.map (fun q => NoticeBody.relayDone q.tag q.restarted.report)).foldl (fun q b => q.post s.clock b)
        { s.notices with queue := [], dropped := 0 } } := by
  have only : ArmsOnly s.restartBase ((List.range 6).foldl State.restartArm s.restartBase) := ArmsOnly.foldl ArmsOnly.restartArm _ _
  unfold State.restartedState
  generalize (List.range 6).foldl State.restartArm s.restartBase = u at only ⊢
  rw [State.restartRelays_eq, only]
  rfl

theorem State.arms_restartRelays (s : State) : s.restartRelays.arms = s.arms := by
  rw [State.restartRelays_eq]

theorem State.restartBase_slot (s : State) (a d : Nat) :
    (s.restartBase.arm a).slot d = { s.slot a d with post := (s.post? a d).map Post.clearDetectors } :=
  s.slot_mapPosts (fun _ p => p.clearDetectors) a d

theorem State.restartBase_arm (s : State) (a : Nat) :
    s.restartBase.arm a = { s.arm a with slots := (s.restartBase.arm a).slots } := by
  have e : s.restartBase.arm a = { s.arm a with
      slots := (s.arm a).slots.map fun x => { x with post := x.post.map Post.clearDetectors } } :=
    s.arm_mapPosts (fun _ p => p.clearDetectors) a
  rw [e]

theorem State.arm_restarted (s : State) (ha : a < 6) : Restarted (s.restartBase.arm a) (s.restartedState.arm a) := by
  have e := State.arm_of_arms (State.arms_restartRelays ((List.range 6).foldl State.restartArm s.restartBase)) a
  have inside := (State.restartArms_restarted (List.range 6) s.restartBase List.nodup_range fun b hb => List.mem_range.mp hb).1 a
    (List.mem_range.mpr ha)
  rw [← e] at inside
  exact inside

/-- What RESTART leaves of an arm, said of the arm's record before. -/
theorem Restarted.leaves {B : Arm} (h : Restarted B (t.arm a))
    (slot : ∀ d, B.slot d = { s.slot a d with post := (s.post? a d).map Post.clearDetectors })
    (arm : B = { s.arm a with slots := B.slots }) :
    ((t.arm a).period = (s.arm a).period ∧ (t.arm a).slotInterval = (s.arm a).slotInterval ∧ (t.arm a).window = (s.arm a).window ∧
      (t.arm a).silence = (s.arm a).silence ∧ (t.arm a).anchor = (s.arm a).anchor ∧ (t.arm a).autoRestore = (s.arm a).autoRestore ∧
      (t.arm a).checksum = (s.arm a).checksum ∧ (t.arm a).inFlight = none) ∧
    (∀ d, t.row a d = s.row a d ∧ t.post? a d = (s.post? a d).map Post.clearDetectors) ∧
    (t.arm a).pointer = (addresses.filter (fun d => (s.row a d).kind != .none)).headD 1 ∧
    ((s.arm a).state = .disabled → (t.arm a).state = .disabled ∧ (t.arm a).errors = (s.arm a).errors ∧
      ∀ d, (t.slot a d).station = (s.slot a d).station) ∧
    ((s.arm a).state ≠ .disabled → (t.arm a).state = .active ∧ (t.arm a).errors = 0 ∧ (t.arm a).probes = 0 ∧
      (t.arm a).sweepWaiting = false ∧ (t.arm a).pollDue = false ∧ (t.arm a).periodRunning = some (s.arm a).period ∧
      (t.arm a).slotRunning = some (s.arm a).slotInterval ∧
      ∀ d, (t.slot a d).station = (s.slot a d).station.map Station.unseen) := by
  obtain ⟨settings, rows, pointer, disabled, serving⟩ := h
  have first : B.firstStation = (addresses.filter (fun d => (s.row a d).kind != .none)).headD 1 := by
    unfold Arm.firstStation Arm.stations
    simp only [slot]
    rfl
  simp only [slot] at rows disabled serving
  rw [first] at pointer
  generalize B.slots = l at arm
  subst arm
  exact ⟨settings, rows, pointer, disabled, serving⟩

/-- Settles O50: TIME-SET by its expiries in order, RESTART by the state it starts from and each arm's record. -/
theorem timeSetAndRestart : Obligations.TimeSetAndRestart := by
  unfold Obligations.TimeSetAndRestart
  refine ⟨fun s tag time room => ?_, fun s tag room => ⟨s.restartedState, exec_restart room tag, ?_⟩⟩
  · rw [exec_timeSet room, State.judgeExpiries_eq]
  · have armsAt (a : Nat) (ha : a < 6) := s.arm_restarted ha
    have rest := s.restartedState_eq
    have gatesEq : s.restartedState.gates = s.gates.map Gate.restarted := by
      rw [rest]
      rfl
    have pumpsEq : s.restartedState.pumps = s.pumps.map (fun x => x.linkLost s.clock) := by
      rw [rest]
      rfl
    have gates (g : Nat) (hg : g < 8) : s.restartedState.gate g = (s.gate g).restarted :=
      (congrArg (fun v => tabGet v Gate.reset g) gatesEq).trans ((tabGet_map (e := Gate.reset) ..).trans (if_pos hg))
    have pumps (p : Nat) (hp : p < 4) : s.restartedState.pump p = (s.pump p).cutOff s.clock :=
      (congrArg (fun v => tabGet v Pump.reset p) pumpsEq).trans
        ((tabGet_map (e := Pump.reset) ..).trans ((if_pos hp).trans (Pump.linkLost_eq _ _)))
    generalize s.restartedState = t at rest armsAt gates pumps
    refine ⟨?_, ?_, ?_, ?_, ?_, ?_, ?_, ?_, ?_, ?_, ?_, ?_, ?_, ?_, ?_, ?_, ?_, ?_, fun g hg => ?_, fun p hp => ?_, fun a ha => ?_⟩
    case refine_19 =>
      rw [gates g hg]
      exact Gate.restarted_leaves _
    case refine_20 => exact pumps p hp
    case refine_21 => exact (armsAt a ha).leaves (s.restartBase_slot a) (s.restartBase_arm a)
    all_goals
      rw [rest] <;> rfl

end Sys2Proof.Machine

/-! PROOFS. The row checks of a commit (R56, R118, R177). -/

namespace Sys2Proof.Machine

variable {s : State} {a : Nat}

/-! ### Credential rows (R56) -/

theorem windowPasses_iff (required : Bool) (w : Option (Nat × Nat)) :
    windowPasses required w = true ↔ (∀ f u, w = some (f, u) → f < u) ∧ (required = true → w ≠ none) := by
  cases w with
  | none => simp [windowPasses]
  | some w => simp [windowPasses, Prod.ext_iff]

theorem any_isBerth_iff (b : Option Nat) : b.any isBerth = true ↔ ∃ n, b = some n ∧ 1 ≤ n ∧ n ≤ 200 := by
  cases b with
  | none => simp
  | some n => simp [isBerth_iff]

theorem CredRow.passes_iff (row : CredRow) : row.passes = true ↔
    (row.enabled = true →
      (∀ f u, row.window = some (f, u) → f < u) ∧
      ((row.kind = .crew ∨ row.kind = .guest) → ∃ b, row.berth = some b ∧ 1 ≤ b ∧ b ≤ 200) ∧
      ((row.kind = .staff ∨ row.kind = .service) → row.berth = none) ∧
      ((row.kind = .guest ∨ row.kind = .service) → row.window ≠ none)) := by
  obtain ⟨enabled, code, mask, kind, berth, window, pontoons, antiPassback⟩ := row
  have split : CredRow.passes ⟨enabled, code, mask, kind, berth, window, pontoons, antiPassback⟩ = true ↔
      (enabled = true → ((kind = .crew ∨ kind = .guest) → berth.any isBerth = true) ∧
        ((kind = .staff ∨ kind = .service) → berth.isNone = true) ∧
        windowPasses (kind == .guest || kind == .service) window = true) := by
    unfold CredRow.passes
    cases enabled with
    | false => simp
    | true => cases kind <;> simp <;> exact fun _ => rfl
  rw [split, windowPasses_iff, any_isBerth_iff, Option.isNone_iff_eq_none, Bool.or_eq_true, beq_iff_eq, beq_iff_eq]
  dsimp only
  refine forall_congr' fun _ => ⟨fun ⟨named, unnamed, window, required⟩ => ⟨window, named, unnamed, required⟩,
    fun ⟨window, named, unnamed, required⟩ => ⟨named, unnamed, window, required⟩⟩

/-! ### Rate rows (R118) -/

theorem rateRowPasses_iff (rows : List (List Byte)) :
    (rateRowPasses rows 0 = true ↔
      bandStart rows 0 = 0 ∧ 0 < bandStart rows 1 ∧ bandStart rows 1 < bandStart rows 2 ∧ bandStart rows 2 < bandStart rows 3 ∧
      bandStart rows 3 ≤ 1439) ∧
    rateRowPasses rows 1 = true ∧ rateRowPasses rows 2 = true ∧
    (rateRowPasses rows 3 = true ↔ ∀ i, i < 6 → 1 ≤ limitAt rows i) ∧
    (rateRowPasses rows 4 = true ↔ 1 ≤ leakThreshold rows .power ∧ 1 ≤ leakThreshold rows .water) ∧
    (rateRowPasses rows 5 = true ↔ ∀ i, i < 6 → nightFee rows i ≤ 999999) ∧
    (rateRowPasses rows 6 = true ↔ ∀ g, g < 4 → 1 ≤ fuelPrice rows g) ∧
    (rateRowPasses rows 7 = true ↔
      (1 ≤ minimumSale rows ∧ minimumSale rows ≤ 99999) ∧ (1 ≤ perSaleCap rows ∧ perSaleCap rows ≤ 999999) ∧
      (1 ≤ autonomousCap rows ∧ autonomousCap rows ≤ 999999) ∧ startMinimum rows ≤ 999999 ∧
      minimumSale rows ≤ perSaleCap rows ∧ minimumSale rows ≤ autonomousCap rows) := by
  have all (n : Nat) (p : Nat → Prop) [DecidablePred p] :
      (List.range n).all (fun i => decide (p i)) = true ↔ ∀ i, i < n → p i := by
    simp
  refine ⟨?_, rfl, rfl, all 6 (1 ≤ limitAt rows ·), decide_eq_true_iff, all 6 (nightFee rows · ≤ 999999), all 4 (1 ≤ fuelPrice rows ·), ?_⟩
  · refine decide_eq_true_iff.trans (and_congr_right fun first => ?_)
    rw [first]
  · simp only [rateRowPasses, Bool.and_eq_true, inRange_iff, decide_eq_true_eq, and_assoc]

/-! ### Station rows (R177) -/

theorem zeroOr_iff (lo hi n : Nat) : zeroOr lo hi n = true ↔ n = 0 ∨ (lo ≤ n ∧ n ≤ hi) := by
  simp [zeroOr, inRange_iff]

theorem all_isBerth_iff (b : Option Nat) : b.all isBerth = true ↔ ∀ n, b = some n → 1 ≤ n ∧ n ≤ 200 := by
  cases b with
  | none => simp
  | some n => simp [isBerth_iff]

theorem Row.passes_iff (r : Row) : r.passes = true ↔
    match r with
    | .none => True
    | .post b0 b1 offset shift fullScale n w =>
      (∀ b, b0 = some b → 1 ≤ b ∧ b ≤ 200) ∧ (∀ b, b1 = some b → 1 ≤ b ∧ b ≤ 200) ∧ (b0 = Option.none ∨ b0 ≠ b1) ∧
      offset ≤ 4095 ∧ shift ≤ 8 ∧ fullScale ≤ 4095 ∧ n ≤ 8 ∧ (w = 0 ∨ (4 ≤ w ∧ w ≤ 64))
    | .gate g t h => g < 8 ∧ t ≤ 30 ∧ (h = 0 ∨ (5 ≤ h ∧ h ≤ 300))
    | .pump p g0 g1 => p < 4 ∧ g0 < 4 ∧ g1 < 4 := by
  cases r with
  | none => simp [Row.passes]
  | post b0 b1 offset shift fullScale n w =>
    have scale : (fullScale = 0 ∨ 1 ≤ fullScale ∧ fullScale ≤ 4095) ↔ fullScale ≤ 4095 := by omega
    have count : (n = 0 ∨ 1 ≤ n ∧ n ≤ 8) ↔ n ≤ 8 := by omega
    simp only [Row.passes, Bool.and_eq_true, Bool.or_eq_true, zeroOr_iff, all_isBerth_iff, decide_eq_true_eq, scale, count,
      Option.isNone_iff_eq_none, bne_iff_ne, and_assoc]
  | gate g t h => simp [Row.passes, zeroOr_iff, isGate, and_assoc]
  | pump p g0 g1 => simp [Row.passes, isPump, and_assoc]

/-- What a row names, sides of a post in order. -/
theorem Row.claims_eq (r : Row) : r.claims =
    match r with
    | .none => []
    | .post b0 b1 _ _ _ _ _ => b0.toList.map Claim.berth ++ b1.toList.map Claim.berth
    | .gate g _ _ => [.gate g]
    | .pump p _ _ => [.pump p] := by
  cases r with
  | post b0 b1 o h f n w => cases b0 <;> cases b1 <;> rfl
  | _ => rfl

theorem clashesWithin_iff (rows : List (List Byte)) (i : Nat) :
    clashesWithin rows i = false ↔ ∀ j, j < 30 → j ≠ i → ∀ c ∈ (stagedAt rows j).claims, c ∉ (stagedAt rows i).claims := by
  simp [clashesWithin]

theorem rowFailsAlone_iff (rows : List (List Byte)) (i : Nat) :
    rowFailsAlone rows i = false ↔
      stagedRow (rows.getD i []) ≠ none ∧ (stagedAt rows i).passes = true ∧
        ∀ j, j < 30 → j ≠ i → ∀ c ∈ (stagedAt rows j).claims, c ∉ (stagedAt rows i).claims := by
  rw [rowFailsAlone, Bool.or_eq_false_iff, clashesWithin_iff, ← and_assoc, Bool.not_eq_false']
  refine and_congr_left fun _ => ?_
  unfold stagedAt
  cases stagedRow (rows.getD i []) with
  | none => simp
  | some r => simp

theorem places_eq : places = ((List.range 6).flatMap fun b => (List.range 30).map fun k => (b, k)).map fun p => (p.1, p.2 + 1) := by
  simp only [places, addresses, List.map_flatMap, List.map_map]
  rfl

/-- The first clash with another arm, its row counted from 0. -/
theorem State.clashElsewhere_eq (s : State) (a : Nat) (r : Row) :
    s.clashElsewhere a r = ((List.range 6).flatMap fun b => (List.range 30).map fun k => (b, k)).find? fun p =>
      p.1 != a && (s.row p.1 (p.2 + 1)).claims.any fun c => r.claims.contains c := by
  unfold State.clashElsewhere
  rw [places_eq, List.find?_map, Option.map_map]
  exact Option.map_id' ..

theorem findSome?_range_iff {α : Type} (f : Nat → Option α) (n : Nat) (x : α) :
    (List.range n).findSome? f = some x ↔ ∃ r, r < n ∧ f r = some x ∧ ∀ q, q < r → f q = none := by
  induction n with
  | zero => simp
  | succ n ih =>
    rw [List.range_succ, List.findSome?_append, Option.or_eq_some_iff, ih, List.findSome?_eq_none_iff]
    simp only [List.mem_range, List.findSome?_singleton]
    constructor
    · rintro (⟨r, hr, h⟩ | ⟨h, e⟩)
      · exact ⟨r, Nat.lt_succ_of_lt hr, h⟩
      · exact ⟨n, Nat.lt_succ_self n, e, h⟩
    · rintro ⟨r, hr, e, h⟩
      obtain hr | rfl := Nat.lt_succ_iff_lt_or_eq.mp hr
      · exact .inl ⟨r, hr, e, h⟩
      · exact .inr ⟨h, e⟩

/-- A staged row's failure: alone, or by its clash with another arm. -/
def State.rowFailure (s : State) (a : Nat) (rows : List (List Byte)) (i : Nat) : Option (Nat × Option (Nat × Nat)) :=
  if rowFailsAlone rows i then some (i, none) else (s.clashElsewhere a (stagedAt rows i)).map fun c => (i, some c)

theorem State.stationFailure_eq (s : State) (a : Nat) (rows : List (List Byte)) :
    s.stationFailure a rows = (List.range 30).findSome? (s.rowFailure a rows) := rfl

section RowFailure

variable {rows : List (List Byte)} {i r : Nat}

theorem State.rowFailure_none : s.rowFailure a rows i = none ↔
    rowFailsAlone rows i = false ∧ s.clashElsewhere a (stagedAt rows i) = none := by
  unfold State.rowFailure
  cases rowFailsAlone rows i <;> simp

theorem State.rowFailure_alone : s.rowFailure a rows r = some (i, none) ↔ r = i ∧ ¬ rowFailsAlone rows i = false := by
  unfold State.rowFailure
  by_cases own : r = i
  · subst own
    cases rowFailsAlone rows r <;> simp
  · cases rowFailsAlone rows r <;> simp [own]

theorem State.rowFailure_clash {p : Nat × Nat} : s.rowFailure a rows r = some (i, some p) ↔
    r = i ∧ rowFailsAlone rows i = false ∧ s.clashElsewhere a (stagedAt rows i) = some p := by
  unfold State.rowFailure
  by_cases own : r = i
  · subst own
    cases rowFailsAlone rows r <;> simp
  · cases rowFailsAlone rows r <;> simp [own]

/-- The lowest failing row, and how it fails (R177). -/
theorem State.stationFailure_iff (s : State) (a : Nat) (rows : List (List Byte)) (sound : Nat → Prop)
    (h : ∀ i, sound i ↔ rowFailsAlone rows i = false ∧ s.clashElsewhere a (stagedAt rows i) = none) :
    (s.stationFailure a rows = none ↔ ∀ i, i < 30 → sound i) ∧
    ∀ i,
      (s.stationFailure a rows = some (i, none) ↔ i < 30 ∧ ¬ rowFailsAlone rows i = false ∧ ∀ j, j < i → sound j) ∧
      ∀ p, s.stationFailure a rows = some (i, some p) ↔
        i < 30 ∧ rowFailsAlone rows i = false ∧ s.clashElsewhere a (stagedAt rows i) = some p ∧ ∀ j, j < i → sound j := by
  simp only [State.stationFailure_eq, List.findSome?_eq_none_iff, List.mem_range, findSome?_range_iff, State.rowFailure_none, ← h,
    State.rowFailure_alone, State.rowFailure_clash]
  refine ⟨trivial, fun i => ⟨⟨?_, ?_⟩, fun p => ⟨?_, ?_⟩⟩⟩
  · rintro ⟨r, hr, ⟨rfl, e⟩, below⟩
    exact ⟨hr, e, below⟩
  · exact fun ⟨hr, e, below⟩ => ⟨i, hr, ⟨rfl, e⟩, below⟩
  · rintro ⟨r, hr, ⟨rfl, e, c⟩, below⟩
    exact ⟨hr, e, c, below⟩
  · exact fun ⟨hr, e, c, below⟩ => ⟨i, hr, ⟨rfl, e, c⟩, below⟩

end RowFailure

end Sys2Proof.Machine

/-! PROOFS. LOAD-COMMIT (R206) and what a station commit leaves (R178). -/

namespace Sys2Proof.Machine

variable {s t u : State} {a : Nat}

/-! ### Folds over the gates, the pumps and the pontoons -/

/-- What every step keeps, the whole fold keeps. -/
theorem foldl_keeps {β γ : Type} {f : State → β → State} (get : State → γ) (h : ∀ s x, get (f s x) = get s) (l : List β) (s : State) :
    get (l.foldl f s) = get s := by
  induction l generalizing s with
  | nil => rfl
  | cons x l ih => exact (ih _).trans (h s x)

theorem State.regate_only (s : State) (a g : Nat) : s.regate a g = { s with gates := (s.regate a g).gates } := by
  unfold State.regate
  dsimp only
  split <;> rfl

theorem State.repump_only (s : State) (a n : Nat) : s.repump a n = { s with pumps := (s.repump a n).pumps } := by
  unfold State.repump
  dsimp only
  split
  · split
    · split <;> rfl
    · rfl
  · split <;> rfl

theorem State.judgeTracking_only (s : State) (p : Nat) :
    s.judgeTracking p = { s with pontoons := (s.judgeTracking p).pontoons, notices := (s.judgeTracking p).notices } := by
  unfold State.judgeTracking
  dsimp only
  split <;> rfl

/-- Two folds whose steps agree on the elements of the list. -/
theorem foldl_congr_mem {β γ : Type} {f g : γ → β → γ} {l : List β} (h : ∀ c, ∀ x ∈ l, f c x = g c x) {c : γ} :
    l.foldl f c = l.foldl g c := by
  induction l generalizing c with
  | nil => rfl
  | cons x l ih =>
    rw [List.foldl_cons, List.foldl_cons, h c x List.mem_cons_self]
    exact ih fun c y hy => h c y (List.mem_cons_of_mem x hy)

/-- From `s` to `t` only gates, pumps, pontoons and notices have changed. -/
def DockOnly (s t : State) : Prop :=
  t = { s with gates := t.gates, pumps := t.pumps, pontoons := t.pontoons, notices := t.notices }

namespace DockOnly

theorem trans (h : DockOnly s t) (k : DockOnly t u) : DockOnly s u := by
  unfold DockOnly at *
  rw [k, h]

theorem foldl {β : Type} {f : State → β → State} (hf : ∀ s x, DockOnly s (f s x)) (l : List β) (s : State) : DockOnly s (l.foldl f s) := by
  induction l generalizing s with
  | nil => rfl
  | cons x l ih => exact (hf s x).trans (ih _)

theorem regate (s : State) (a g : Nat) : DockOnly s (s.regate a g) := by
  rw [DockOnly, State.regate_only]

theorem repump (s : State) (a n : Nat) : DockOnly s (s.repump a n) := by
  rw [DockOnly, State.repump_only]

theorem judgeTracking (s : State) (p : Nat) : DockOnly s (s.judgeTracking p) := by
  rw [DockOnly, State.judgeTracking_only]

end DockOnly

/-! ### The gates (R64, R178) -/

/-- The gate that a commit of an arm's table makes of a gate's record. -/
def State.regated (s : State) (a g : Nat) : Gate :=
  if (s.gate g).station.any (fun p => p.1 == a) || (s.gatePlace g).any (fun p => p.1 == a) then
    (s.gate g).placed (s.gatePlace g) (match s.gatePlace g with
      | some p => s.row p.1 p.2
      | none => .none)
  else s.gate g

theorem State.gate_regate (s : State) (a g h : Nat) : (s.regate a g).gate h = if g = h ∧ h < 8 then s.regated a g else s.gate h := by
  unfold State.regate State.regated
  by_cases moves : ((s.gate g).station.any (fun p => p.1 == a) || (s.gatePlace g).any (fun p => p.1 == a)) = true
  · simp only [if_pos moves]
    exact State.gate_setGate ..
  · simp only [if_neg moves]
    split
    · next own => rw [own.1]
    · rfl

theorem State.regated_congr (arms : t.arms = s.arms) {g : Nat} (gate : t.gate g = s.gate g) : t.regated a g = s.regated a g := by
  have rows := State.row_of_arms arms
  have place : t.gatePlace g = s.gatePlace g := by
    unfold State.gatePlace
    simp only [rows]
  unfold State.regated
  rw [place, gate]
  simp only [rows]

theorem State.gate_regates (a : Nat) (l : List Nat) (s : State) (nodup : l.Nodup) (hl : ∀ g ∈ l, g < 8) :
    (∀ g ∈ l, (l.foldl (fun t g => t.regate a g) s).gate g = s.regated a g) ∧
      ∀ g, g ∉ l → (l.foldl (fun t g => t.regate a g) s).gate g = s.gate g := by
  induction l generalizing s with
  | nil => exact ⟨nofun, fun _ _ => rfl⟩
  | cons x l ih =>
    obtain ⟨hx, nodup⟩ := List.nodup_cons.mp nodup
    obtain ⟨inside, outside⟩ := ih (s.regate a x) nodup fun g hg => hl g (List.mem_cons_of_mem x hg)
    have arms := (s.regate_same a x).1
    refine ⟨fun g hg => ?_, fun g hg => ?_⟩
    · obtain rfl | hg := List.mem_cons.mp hg
      · rw [List.foldl_cons, outside g hx, State.gate_regate, if_pos ⟨rfl, hl g List.mem_cons_self⟩]
      · have other : (s.regate a x).gate g = s.gate g := by
          rw [State.gate_regate, if_neg fun w : x = g ∧ g < 8 => hx (w.1 ▸ hg)]
        rw [List.foldl_cons, inside g hg, State.regated_congr arms other]
    · obtain ⟨ne, hg⟩ := not_or.mp ((not_congr List.mem_cons).mp hg)
      rw [List.foldl_cons, outside g hg, State.gate_regate, if_neg fun w => ne w.1.symm]

/-- A gate that a commit configures, moves or leaves without a station. -/
theorem Gate.placed_none (x : Gate) : x.placed none .none = { x with
    station := none, monitor := .idle, strikeEnd := none, passageSeen := false, expiry := .taken, mark := none } := rfl

theorem Gate.placed_some (x : Gate) (p : Nat × Nat) (n strike grace : Nat) : x.placed (some p) (.gate n strike grace) = { x with
    station := some p, monitor := .idle, strikeEnd := none, passageSeen := false, expiry := .taken
    mark := if x.mode = .free then some { cmd := .holdRelease, setAgain := true } else none
    strikeTime := some strike, holdGrace := some grace } := by
  unfold Gate.placed
  by_cases free : x.mode = .free
  · simp [free, Gate.wantHoldRelease, Gate.toIdle]
  · simp [free, Gate.toIdle]

/-! ### The pumps (R170) -/

theorem State.pump_repumps (a : Nat) (s : State) {n : Nat} (hn : n < 4) :
    ((List.range 4).foldl (fun t n => t.repump a n) s).pump n = (s.repump a n).pump n :=
  (State.repumps (s := s) a (List.range 4) List.nodup_range (fun _ => List.mem_range.mp) s rfl fun _ _ => rfl).2.2.1 n
    (List.mem_range.mpr hn)

section Pump

variable {n : Nat} {p : Nat × Nat}

theorem State.repump_placed {k g0 g1 : Nat} (hn : n < 4) (place : s.pumpPlace n = some p) (own : p.1 = a)
    (row : s.row p.1 p.2 = .pump k g0 g1) : (s.repump a n).pump n = (s.pump n).placed p g0 g1 := by
  unfold State.repump
  rw [place]
  dsimp only
  rw [if_pos own, row]
  exact State.pump_setPump_self hn _

theorem State.repump_unplaced (hn : n < 4) (place : s.pumpPlace n = none) (own : ∃ p, (s.pump n).station = some p ∧ p.1 = a) :
    (s.repump a n).pump n = (s.pump n).unplaced := by
  obtain ⟨p, station, own⟩ := own
  unfold State.repump
  rw [place]
  dsimp only
  rw [if_pos (by rw [station]; simpa using own)]
  exact State.pump_setPump_self hn _

theorem State.repump_other (place : ∀ p, s.pumpPlace n = some p → p.1 ≠ a)
    (station : s.pumpPlace n ≠ none ∨ ∀ p, (s.pump n).station = some p → p.1 ≠ a) : s.repump a n = s := by
  unfold State.repump
  cases e : s.pumpPlace n with
  | some p => exact if_neg (place p e)
  | none =>
    refine if_neg fun w => ?_
    cases stands : (s.pump n).station with
    | none =>
      rw [stands] at w
      cases w
    | some p =>
      rw [stands] at w
      exact station.resolve_left (fun ne => ne e) p stands (by simpa using w)

end Pump

/-! ### The tracking (R81) -/

theorem State.trackingJudged_congr (h : t.gates = s.gates) (p : Nat) : t.trackingJudged p = s.trackingJudged p := by
  unfold State.trackingJudged
  rw [h]

theorem State.notices_judgeTracking (s : State) (p : Nat) : (s.judgeTracking p).notices =
    if s.trackingJudged p = (s.pontoon p).tracking then s.notices
    else s.notices.post s.clock (.tracking p (s.trackingJudged p) (s.count p)) := by
  unfold State.judgeTracking
  simp only [eq_comm (a := (s.pontoon p).tracking)]
  split <;> rfl

/-- The judgements of several pontoons: each from the gates and its own record. -/
theorem State.judgeTrackings (l : List Nat) (s : State) (nodup : l.Nodup) (hl : ∀ p ∈ l, p < 6) :
    (∀ p ∈ l, (l.foldl State.judgeTracking s).pontoon p = { s.pontoon p with tracking := s.trackingJudged p }) ∧
    (∀ p, p ∉ l → (l.foldl State.judgeTracking s).pontoon p = s.pontoon p) ∧
    (l.foldl State.judgeTracking s).notices = l.foldl (fun q p =>
      if s.trackingJudged p = (s.pontoon p).tracking then q
      else q.post s.clock (.tracking p (s.trackingJudged p) (s.count p))) s.notices := by
  induction l generalizing s with
  | nil => exact ⟨nofun, fun _ _ => rfl, rfl⟩
  | cons x l ih =>
    obtain ⟨hx, nodup⟩ := List.nodup_cons.mp nodup
    obtain ⟨inside, outside, notices⟩ := ih (s.judgeTracking x) nodup fun p hp => hl p (List.mem_cons_of_mem x hp)
    have only := DockOnly.judgeTracking s x
    have gates : (s.judgeTracking x).gates = s.gates := by rw [State.judgeTracking_only]
    have other (p : Nat) (hp : p ≠ x) : (s.judgeTracking x).pontoon p = s.pontoon p := by
      rw [State.pontoon_judgeTracking, if_neg fun w => hp w.1.symm]
    refine ⟨fun p hp => ?_, fun p hp => ?_, ?_⟩
    · obtain rfl | hp := List.mem_cons.mp hp
      · rw [List.foldl_cons, outside p hx, State.pontoon_judgeTracking, if_pos ⟨rfl, hl p List.mem_cons_self⟩]
      · rw [List.foldl_cons, inside p hp, State.trackingJudged_congr gates, other p fun e => hx (e ▸ hp)]
    · obtain ⟨ne, hp⟩ := not_or.mp ((not_congr List.mem_cons).mp hp)
      rw [List.foldl_cons, outside p hp, other p ne]
    · have clock : (s.judgeTracking x).clock = s.clock := by rw [only]
      have count (p : Nat) : (s.judgeTracking x).count p = s.count p := by
        unfold State.count
        rw [only]
      rw [List.foldl_cons, notices, List.foldl_cons, State.notices_judgeTracking, clock]
      refine foldl_congr_mem fun q p hp => ?_
      rw [State.trackingJudged_congr gates, other p fun e => hx (e ▸ hp), count]

/-! ### A station commit (R178) -/

/-- The state in which the gates and pumps are judged after a commit: the arm has its new table. -/
def State.withTable (s : State) (a : Nat) (rows : List (List Byte)) (c : Check) : State :=
  s.setArm a ((s.arm a).takeTable rows c)

section Commit

variable {rows : List (List Byte)} {c : Check}

theorem State.commitStations_eq (s : State) (a : Nat) (rows : List (List Byte)) (c : Check) :
    s.commitStations a rows c = (List.range 6).foldl State.judgeTracking ((List.range 4).foldl (fun t n => t.repump a n)
      ((List.range 8).foldl (fun t g => t.regate a g) (s.withTable a rows c))) := rfl

theorem DockOnly.commitStations (s : State) (a : Nat) (rows : List (List Byte)) (c : Check) :
    DockOnly (s.withTable a rows c) (s.commitStations a rows c) :=
  ((DockOnly.foldl (fun s g => DockOnly.regate s a g) _ _).trans (DockOnly.foldl (fun s n => DockOnly.repump s a n) _ _)).trans
    (DockOnly.foldl DockOnly.judgeTracking _ _)

theorem State.gates_judgeTracking (s : State) (p : Nat) : (s.judgeTracking p).gates = s.gates := by
  rw [State.judgeTracking_only]

theorem State.pumps_judgeTracking (s : State) (p : Nat) : (s.judgeTracking p).pumps = s.pumps := by
  rw [State.judgeTracking_only]

theorem State.gates_repump (s : State) (a n : Nat) : (s.repump a n).gates = s.gates := by
  rw [State.repump_only]

theorem State.gate_commit {g : Nat} (hg : g < 8) : (s.commitStations a rows c).gate g = (s.withTable a rows c).regated a g := by
  have gates : (s.commitStations a rows c).gates = ((List.range 8).foldl (fun t g => t.regate a g) (s.withTable a rows c)).gates :=
    (foldl_keeps State.gates State.gates_judgeTracking _ _).trans (foldl_keeps State.gates (fun s n => s.gates_repump a n) _ _)
  have inside := (State.gate_regates a (List.range 8) (s.withTable a rows c) List.nodup_range fun _ => List.mem_range.mp).1 g
    (List.mem_range.mpr hg)
  exact (congrArg (fun v => tabGet v Gate.reset g) gates).trans inside

theorem State.pump_commit {n : Nat} (hn : n < 4) :
    (s.commitStations a rows c).pump n = ((s.withTable a rows c).repump a n).pump n := by
  have pumps : (s.commitStations a rows c).pumps = ((List.range 4).foldl (fun t n => t.repump a n)
      ((List.range 8).foldl (fun t g => t.regate a g) (s.withTable a rows c))).pumps :=
    foldl_keeps State.pumps State.pumps_judgeTracking _ _
  obtain ⟨arms, same, -⟩ := State.regates_same (s := s.withTable a rows c) a (List.range 8)
  refine (congrArg (fun v => tabGet v Pump.reset n) pumps).trans ((State.pump_repumps a _ hn).trans ?_)
  exact State.repump_congr hn arms (congrArg (fun v => tabGet v Pump.reset n) same)

/-- The tracking and the notices of a commit, from the gates it leaves. -/
theorem State.tracking_commit (s : State) (a : Nat) (rows : List (List Byte)) (c : Check) :
    let t := s.commitStations a rows c
    (∀ p, p < 6 → t.pontoon p = { s.pontoon p with tracking := t.trackingJudged p }) ∧
    t.notices = (List.range 6).foldl (fun q p =>
      if t.trackingJudged p = (s.pontoon p).tracking then q
      else q.post s.clock (.tracking p (t.trackingJudged p) (s.count p))) s.notices := by
  intro t
  have only : DockOnly (s.withTable a rows c) ((List.range 4).foldl (fun t n => t.repump a n)
      ((List.range 8).foldl (fun t g => t.regate a g) (s.withTable a rows c))) :=
    (DockOnly.foldl (fun s g => DockOnly.regate s a g) _ _).trans (DockOnly.foldl (fun s n => DockOnly.repump s a n) _ _)
  have keeps {γ : Type} (get : State → γ) (h : ∀ s g, get (State.regate s a g) = get s) (k : ∀ s n, get (State.repump s a n) = get s) :
      get ((List.range 4).foldl (fun t n => t.repump a n)
        ((List.range 8).foldl (fun t g => t.regate a g) (s.withTable a rows c))) = get (s.withTable a rows c) :=
    (foldl_keeps get k _ _).trans (foldl_keeps get h _ _)
  have pontoons := keeps State.pontoons (fun s g => by rw [State.regate_only]) fun s n => by rw [State.repump_only]
  have queue := keeps State.notices (fun s g => by rw [State.regate_only]) fun s n => by rw [State.repump_only]
  have e : t = _ := State.commitStations_eq s a rows c
  generalize (List.range 4).foldl (fun t n => t.repump a n)
      ((List.range 8).foldl (fun t g => t.regate a g) (s.withTable a rows c)) = u at only pontoons queue e
  obtain ⟨inside, -, notices⟩ := u.judgeTrackings (List.range 6) List.nodup_range fun _ => List.mem_range.mp
  have gates : t.gates = u.gates := by
    rw [e]
    exact foldl_keeps State.gates State.gates_judgeTracking _ _
  have pontoon (p : Nat) : u.pontoon p = s.pontoon p := by
    unfold State.pontoon
    rw [pontoons]
    rfl
  have clock : u.clock = s.clock := by
    rw [only]
    rfl
  have count (p : Nat) : u.count p = s.count p := by
    unfold State.count
    rw [only]
    rfl
  rw [← e] at inside notices
  simp only [← State.trackingJudged_congr gates, pontoon, clock, count] at inside notices
  rw [queue] at notices
  exact ⟨fun p hp => inside p (List.mem_range.mpr hp), notices⟩

theorem State.arm_commit (s : State) (ha : a < 6) : (s.commitStations a rows c).arm a = (s.arm a).takeTable rows c := by
  have only := DockOnly.commitStations s a rows c
  have arms : (s.commitStations a rows c).arms = (s.withTable a rows c).arms := by rw [only]
  exact (State.arm_of_arms arms a).trans (State.arm_setArm_self ha _)

theorem State.row_commit (s : State) (a : Nat) (rows : List (List Byte)) (c : Check) (b d : Nat) :
    (s.withTable a rows c).row b d = (s.commitStations a rows c).row b d := by
  have only := DockOnly.commitStations s a rows c
  exact (State.row_of_arms (by rw [only]) b d).symm

/-- The slots of the arm after a commit, by the staged rows. -/
theorem State.slot_commit (s : State) (ha : a < 6) {i : Nat} (hi : i < 30) :
    (s.commitStations a rows c).slot a (i + 1) = (s.slot a (i + 1)).takeRow (stagedAt rows i).inForce := by
  have inside : 1 ≤ i + 1 ∧ i + 1 ≤ 30 := by omega
  unfold State.slot
  rw [State.arm_commit s ha, Arm.slot_takeTable, if_pos inside]
  rfl

theorem Row.kind_inForce (r : Row) : r.inForce.kind = r.kind := by
  cases r <;> rfl

/-- Where the rows that a commit leaves name a gate. -/
theorem State.gatePlace_commit (s : State) (a : Nat) (rows : List (List Byte)) (c : Check) (g : Nat) :
    (s.withTable a rows c).gatePlace g = (s.commitStations a rows c).gatePlace g := by
  unfold State.gatePlace
  simp only [State.row_commit]

theorem State.pumpPlace_commit (s : State) (a : Nat) (rows : List (List Byte)) (c : Check) (n : Nat) :
    (s.withTable a rows c).pumpPlace n = (s.commitStations a rows c).pumpPlace n := by
  unfold State.pumpPlace
  simp only [State.row_commit]

/-- A gate after a commit (R178), by where the new rows place it. -/
theorem State.gate_committed {g : Nat} (hg : g < 8) {place : Option (Nat × Nat)}
    (stands : (s.commitStations a rows c).gatePlace g = place) :
    let t := s.commitStations a rows c
    let x := s.gate g
    let moved : Gate := { x with
      station := place, monitor := .idle, strikeEnd := none, passageSeen := false, expiry := .taken
      mark := if place ≠ none ∧ x.mode = .free then some { cmd := .holdRelease, setAgain := true } else none }
    ((∀ p, x.station = some p → p.1 ≠ a) → (∀ p, place = some p → p.1 ≠ a) → t.gate g = x) ∧
    (((∃ p, x.station = some p ∧ p.1 = a) ∨ ∃ p, place = some p ∧ p.1 = a) →
      (place = none → t.gate g = moved) ∧
      ∀ p n strike grace, place = some p → t.row p.1 p.2 = .gate n strike grace →
        t.gate g = { moved with strikeTime := some strike, holdGrace := some grace }) := by
  intro t x moved
  have e : t.gate g = (s.withTable a rows c).regated a g := State.gate_commit hg
  have record : (s.withTable a rows c).gate g = x := rfl
  unfold State.regated at e
  rw [State.gatePlace_commit, record, stands] at e
  have standsOn (o : Option (Nat × Nat)) : o.any (fun p => p.1 == a) = true ↔ ∃ p, o = some p ∧ p.1 = a := by
    cases o <;> simp
  refine ⟨fun stood stands => ?_, fun touched => ?_⟩
  · refine e.trans (if_neg fun w => ?_)
    obtain w | w := (Bool.or_eq_true ..).mp w
    · obtain ⟨p, hp, own⟩ := (standsOn _).mp w
      exact stood p hp own
    · obtain ⟨p, hp, own⟩ := (standsOn _).mp w
      exact stands p hp own
  · have moves := e.trans (if_pos ((Bool.or_eq_true ..).mpr (touched.imp (standsOn _).mpr (standsOn _).mpr)))
    clear e stands touched
    refine ⟨fun place => ?_, fun p n strike grace place row => ?_⟩
    · subst place
      exact moves
    · subst place
      dsimp only at moves
      rw [State.row_commit, show (s.commitStations a rows c).row p.1 p.2 = .gate n strike grace from row, Gate.placed_some] at moves
      rw [moves]
      simp [moved]

/-- A pump after a commit (R170), by where the new rows place it. -/
theorem State.pump_committed {n : Nat} (hn : n < 4) {place : Option (Nat × Nat)}
    (stands : (s.commitStations a rows c).pumpPlace n = place) :
    let t := s.commitStations a rows c
    let x := s.pump n
    (∀ p k g0 g1, place = some p → p.1 = a → t.row p.1 p.2 = .pump k g0 g1 → t.pump n = x.placed p g0 g1) ∧
    (place = none → (∃ p, x.station = some p ∧ p.1 = a) → t.pump n = x.unplaced) ∧
    ((∀ p, place = some p → p.1 ≠ a) → (place ≠ none ∨ ∀ p, x.station = some p → p.1 ≠ a) → t.pump n = x) := by
  intro t x
  have e : t.pump n = ((s.withTable a rows c).repump a n).pump n := State.pump_commit hn
  rw [← State.pumpPlace_commit] at stands
  subst stands
  rw [e]
  refine ⟨fun p k g0 g1 at_ own row => ?_, fun none own => State.repump_unplaced hn none own, fun at_ own => ?_⟩
  · exact State.repump_placed hn at_ own ((State.row_commit ..).trans row)
  · rw [State.repump_other at_ own]
    rfl

theorem State.arm_commit_other (s : State) (b : Nat) (hb : b ≠ a) : (s.commitStations a rows c).arm b = s.arm b := by
  have only := DockOnly.commitStations s a rows c
  have arms : (s.commitStations a rows c).arms = (s.withTable a rows c).arms := by rw [only]
  exact (State.arm_of_arms arms b).trans (State.arm_setArm_other _ hb)

/-- The regular sweep pointer and the anchor of the arm after a commit. -/
theorem State.pointer_commit (s : State) (ha : a < 6) :
    let t := s.commitStations a rows c
    (t.arm a).pointer = (addresses.filter (fun d => (t.row a d).kind != .none)).headD 1 ∧
    (t.arm a).anchor = (if (t.row a (s.arm a).anchor).kind = .none then 0 else (s.arm a).anchor) := by
  intro t
  have arm : t.arm a = (s.arm a).takeTable rows c := s.arm_commit ha
  unfold State.row State.slot
  rw [arm]
  exact ⟨rfl, rfl⟩

theorem State.commit_keeps (s : State) (a : Nat) (rows : List (List Byte)) (c : Check) :
    let t := s.commitStations a rows c
    t.creds = s.creds ∧ t.rates = s.rates ∧ t.scan = s.scan ∧ t.berths = s.berths ∧ t.accounts = s.accounts ∧
      t.presence = s.presence := by
  intro t
  have only : t = _ := DockOnly.commitStations s a rows c
  rw [only]
  exact ⟨rfl, rfl, rfl, rfl, rfl, rfl⟩

end Commit

/-! ### LOAD-COMMIT -/

theorem State.restartScan_eq (s : State) (b : Bool) :
    s.restartScan b = { s with scan := if s.scan.inRates = b then Scan.startOf b else s.scan } := by
  unfold State.restartScan
  split <;> rfl

theorem State.commitCreds_closeLoad (s : State) (rows : List (List Byte)) (c : Check) : (s.commitCreds rows c).closeLoad = { s with
    creds := { state := .valid, rows := Vector.ofFn (fun i : Fin 512 => rows.getD i.val []), checksum := some c }
    scan := if s.scan.inRates then s.scan else { inRates := false, row := 0, crc := 0xFFFF#16 }
    staging := none } := by
  have scan : (if s.scan.inRates = false then Scan.startOf false else s.scan) =
      if s.scan.inRates = true then s.scan else { inRates := false, row := 0, crc := 0xFFFF#16 } := by
    cases s.scan.inRates <;> rfl
  unfold State.commitCreds
  rw [State.restartScan_eq, ← scan]
  rfl

theorem State.commitRates_closeLoad (s : State) (rows : List (List Byte)) (c : Check) : (s.commitRates rows c).closeLoad = { s with
    rates := { state := .valid, rows := Vector.ofFn (fun i : Fin 8 => rows.getD i.val []), checksum := some c }
    scan := if s.scan.inRates then { inRates := true, row := 0, crc := 0xFFFF#16 } else s.scan
    staging := none } := by
  unfold State.commitRates
  rw [State.restartScan_eq]
  rfl

theorem places_pairs : (List.range 6).flatMap (fun b => (List.range 30).map fun k => (b, k + 1)) = places := by
  simp only [places, addresses, List.map_map]
  rfl

theorem State.gatePlace_eq (s : State) (g : Nat) :
    ((List.range 6).flatMap (fun b => (List.range 30).map fun k => (b, k + 1))).find? (fun p => match s.row p.1 p.2 with
      | .gate n _ _ => n == g
      | _ => false) = s.gatePlace g := by
  rw [places_pairs]
  rfl

theorem State.pumpPlace_eq (s : State) (n : Nat) :
    ((List.range 6).flatMap (fun b => (List.range 30).map fun k => (b, k + 1))).find? (fun p => match s.row p.1 p.2 with
      | .pump k _ _ => k == n
      | _ => false) = s.pumpPlace n := by
  rw [places_pairs]
  rfl

/-- The station and the post of a slot after a commit. -/
theorem Slot.takeRow_inForce (x : Slot) (r : Row) :
    (x.takeRow r.inForce).station = (if r.kind = .none then none else some (x.station.getD { link := .unseen, missed := 0 })) ∧
    (x.takeRow r.inForce).post = (if r.kind = .post then some ((x.post.map Post.clearDetectors).getD Post.created) else none) := by
  unfold Slot.takeRow
  rw [Row.kind_inForce]
  exact ⟨rfl, rfl⟩

section Load

variable {tag : Nat} {expected : Check} {l : Load}

theorem exec_loadCommit (room : s.Room) (tag : Nat) (expected : Check) :
    exec (.loadCommit tag (.fields expected)) s = .next ((judgeLoadCommit s.frameTaken expected).ended tag 0x62) :=
  finish_takeRequest room 0x62 tag expected judgeLoadCommit

theorem judgeLoadCommit_none (h : s.staging = none) : judgeLoadCommit s expected = refuse s .state := by
  unfold judgeLoadCommit
  rw [h]

theorem judgeLoadCommit_checksum (h : s.staging = some l) (differs : crc l.rows.flatten ≠ expected) :
    judgeLoadCommit s expected = answer s .checksum (.found (crc l.rows.flatten)) := by
  unfold judgeLoadCommit
  rw [h]
  exact if_pos differs

theorem judgeLoadCommit_agrees (h : s.staging = some l) (agrees : crc l.rows.flatten = expected) :
    judgeLoadCommit s expected = commitLoad s l expected := by
  unfold judgeLoadCommit
  rw [h]
  exact if_neg (Classical.not_not.mpr agrees)

theorem commitLoad_stations_busy (h : l.table = .stations a) (up : (s.arm a).state ≠ .disabled) :
    commitLoad s l expected = refuse s .state := by
  unfold commitLoad
  rw [h]
  exact if_pos up

theorem commitLoad_stations_fails (h : l.table = .stations a) (down : (s.arm a).state = .disabled) {r : Nat}
    {clash : Option (Nat × Nat)} (fails : s.stationFailure a l.rows = some (r, clash)) :
    commitLoad s l expected = answer s .range (.failedRow l.table r clash) := by
  unfold commitLoad
  rw [h]
  dsimp only
  rw [if_neg (Classical.not_not.mpr down), fails]

theorem commitLoad_stations (h : l.table = .stations a) (down : (s.arm a).state = .disabled)
    (sound : s.stationFailure a l.rows = none) : commitLoad s l expected = doneWith (s.commitStations a l.rows expected).closeLoad := by
  unfold commitLoad
  rw [h]
  dsimp only
  rw [if_neg (Classical.not_not.mpr down), sound]

end Load

/-- Settles O48: the row checks as they stand in the manual, the steps of LOAD-COMMIT in order, and a station commit part by part. -/
theorem loadCommitReplacesOneTable : Obligations.LoadCommitReplacesOneTable := by
  unfold Obligations.LoadCommitReplacesOneTable
  refine ⟨CredRow.passes_iff, rateRowPasses_iff, fun s a rows => ?_, fun s tag expected room => ?_⟩
  · intro row named suits clash sound
    have claims (r : Row) : r.claims = named r := r.claims_eq.trans rfl
    have alone (i : Nat) : rowFailsAlone rows i = false ↔ suits i := by
      rw [rowFailsAlone_iff, Row.passes_iff]
      simp only [claims]
      exact Iff.rfl
    have clashes (i : Nat) : s.clashElsewhere a (stagedAt rows i) = clash i := by
      rw [State.clashElsewhere_eq]
      simp only [claims]
      rfl
    have := s.stationFailure_iff a rows sound fun i => and_congr (alone i).symm (by rw [clashes])
    simp only [alone, clashes] at this
    exact this
  · intro done
    have ran : done = _ := exec_loadCommit room tag expected
    refine ⟨fun idle => ?_, fun l loaded => ⟨fun differs => ?_, fun agrees => ?_⟩⟩
    · rw [ran, judgeLoadCommit_none (s := s.frameTaken) idle]
      rfl
    · rw [ran, judgeLoadCommit_checksum (s := s.frameTaken) loaded differs]
      rfl
    · rw [judgeLoadCommit_agrees (s := s.frameTaken) loaded agrees] at ran
      refine ⟨fun table => ?_, fun table => ?_, fun a table ha => ?_⟩
      · rw [ran, commitLoad, table]
        dsimp only [lowestFailing]
        cases l.rows.findIdx? fun bs => !(credRowOf bs).passes with
        | some r => rfl
        | none =>
          exact congrArg Host.Outcome.next (congrArg (fun t : State => t.answered tag 0x62 .done .empty)
            (s.frameTaken.commitCreds_closeLoad l.rows expected))
      · rw [ran, commitLoad, table]
        dsimp only [rateFailure]
        cases (List.range 8).find? fun i => !rateRowPasses l.rows i with
        | some r => rfl
        | none =>
          exact congrArg Host.Outcome.next (congrArg (fun t : State => t.answered tag 0x62 .done .empty)
            (s.frameTaken.commitRates_closeLoad l.rows expected))
      · have failure : s.frameTaken.stationFailure a l.rows = s.stationFailure a l.rows := rfl
        refine ⟨fun up => ?_, fun down r clash fails => ?_, fun down sound => ?_⟩
        · rw [ran, commitLoad_stations_busy (s := s.frameTaken) table up]
          rfl
        · rw [ran, commitLoad_stations_fails (s := s.frameTaken) table down (failure.trans fails)]
          rfl
        · rw [commitLoad_stations (s := s.frameTaken) table down (failure.trans sound)] at ran
          have arm := s.frameTaken.arm_commit (rows := l.rows) (c := expected) ha
          have slot {i : Nat} (hi : i < 30) := s.frameTaken.slot_commit (rows := l.rows) (c := expected) ha hi
          have gates (g : Nat) (hg : g < 8) (place : Option (Nat × Nat)) :=
            State.gate_committed (s := s.frameTaken) (a := a) (rows := l.rows) (c := expected) hg (place := place)
          have pumps (n : Nat) (hn : n < 4) (place : Option (Nat × Nat)) :=
            State.pump_committed (s := s.frameTaken) (a := a) (rows := l.rows) (c := expected) hn (place := place)
          obtain ⟨tracking, notices⟩ := s.frameTaken.tracking_commit a l.rows expected
          obtain ⟨pointer, anchor⟩ := s.frameTaken.pointer_commit (rows := l.rows) (c := expected) ha
          have others := s.frameTaken.arm_commit_other (a := a) (rows := l.rows) (c := expected)
          have kept := s.frameTaken.commit_keeps a l.rows expected
          generalize s.frameTaken.commitStations a l.rows expected = v
            at ran arm slot gates pumps tracking notices pointer anchor others kept
          intro t
          refine ⟨ran, rfl, fun i hi => congrArg Slot.row (slot hi), congrArg Arm.checksum arm, (congrArg Arm.state arm).trans down,
            fun i hi => (congrArg Slot.station (slot hi)).trans (Slot.takeRow_inForce _ _).1, fun i hi => ?_, pointer, anchor,
            ⟨fun g hg => gates g hg _ (v.gatePlace_eq g).symm, fun n hn => pumps n hn _ (v.pumpPlace_eq n).symm⟩, fun p hp => ?_, ?_,
            others, kept⟩
          · refine (congrArg Slot.post (slot hi)).trans ((Slot.takeRow_inForce _ _).2.trans (ite_congr rfl (fun _ => ?_) fun _ => rfl))
            change some ((Option.map Post.clearDetectors (s.post? a (i + 1))).getD Post.created) = _
            cases s.post? a (i + 1) <;> rfl
          · have e : t.pontoon p = { s.pontoon p with tracking := t.trackingJudged p } := tracking p hp
            rw [e]
            exact ⟨t.trackingJudged_iff p, rfl⟩
          · refine notices.trans (foldl_congr_mem fun q p hp => ?_)
            have e : t.pontoon p = { s.pontoon p with tracking := t.trackingJudged p } := tracking p (List.mem_range.mp hp)
            rw [e]
            rfl

end Sys2Proof.Machine
